-- ==== Sys2Proof/Word.lean ====
section
/-! DEFINITION. The words the part handles: 32-bit words of shared memory and registers, bytes of the lines, show times. -/

namespace Sys2Proof

/-- A 32-bit word of a register or of shared memory (R181, R190). -/
abbrev Word := BitVec 32

/-- One data value of a line character, and one slot byte (R113, R72). -/
abbrev Byte := BitVec 8

/-- A value of the show clock: milliseconds modulo 2^32 (R101). -/
abbrev Time := BitVec 32

end Sys2Proof
end

