-- ==== Sys2Proof/Config.lean ====
section
/-! DEFINITION. The numbers the manual fixes for the part.  The manual leaves no value to an implementation, and the values and
orders it leaves open are operands of the commands (notes/assumptions/3.md, 4.md, 5.md), so there is no free constant here. -/

namespace Sys2Proof.Config

/-- Entries of the scene pool (R27). -/
def poolSize : Nat := 3072

/-- Full level (Conventions, Levels). -/
def full : Nat := 65535

/-- Places of a playback's request queue (R5), of the table job queue (R84) and of a query queue (R144). -/
def queuePlaces : Nat := 4

/-- Places of the result queue (R175). -/
def resultPlaces : Nat := 64

/-- Free places of the result queue below which a scan stops taking (R172). -/
def scanFreePlaces : Nat := 9

/-- Slots a scan takes at most (R172). -/
def scanTakes : Nat := 8

/-- Longest fade, master, hold and release time, in ms (R6, R16, R18, R44). -/
def maxTime : Nat := 3600000

/-- Longest delay of a cue, in ms (R44). -/
def maxDelay : Nat := 600000

/-- The largest value of the take stamp counter, 2^48 − 1 (R32). -/
def maxStamp : Nat := 2 ^ 48 - 1

/-- The largest value of a 32-bit count (R127 and others). -/
def maxCount : Nat := 2 ^ 32 - 1

/-- Acquires after which a held bank fails a job BANK_BUSY: the attempts stand at this value (R50). -/
def lastAttempt : Nat := 7

/-- Directory entries a bank may have (R43). -/
def maxCues : Nat := 4096

/-- Words of one burst at most (R183). -/
def burst : Nat := 16

/-- The guard left before a frame boundary, in µs (R106). -/
def guardTime : Nat := 200

/-- Bit times of the query window (R106, R146). -/
def queryWindow : Nat := 720

/-- The consecutive-fault count that halts the engine (R189). -/
def faultLimit : Nat := 3

/-- The mark of an anchor block (R169). -/
def anchorMark : Nat := 0x46513341

/-- Header data values: LEVEL (R114), QUERY (R147), REPLY (R150). -/
def levelHeader : Byte := 0x51
def queryHeader : Byte := 0x5A
def replyHeader : Byte := 0x5B

/-- The broadcast fixture address (R148). -/
def broadcast : Nat := 65535

end Sys2Proof.Config
end

