-- ==== Sys2Proof/Syntax.lean ====
section
/-! DEFINITION. The commands of the FQ3: one constructor for each row of spec/opcode_table.json, with the operands its rule gives
the event.  Requests carry their post slot, their target word and their parameter words as R174 lays them out. -/

namespace Sys2Proof

/-- A block that takes the frame boundary as its own event (06, "Who takes the frame boundary"); each line takes it by itself. -/
inductive BoundaryTaker
  | mixer
  | loader
  | line (l : Fin 4)
  | scanner
  | status
  | results
  deriving DecidableEq, Repr

/-- The two events that end a reply as a COLLISION (R151). -/
inductive CollisionKind
  | framing
  | low
  deriving DecidableEq, Repr

/-- A CONTROL write that may have RUN 0: the word written, and how many words of a granted tenure are done when it falls, which the port
then holds when the write aborts a start (R182, R187, notes/assumptions/4.md). -/
structure ControlWrite where
  value : Word
  done : Nat
  deriving DecidableEq, Repr

/-- The commands.  `landed` of a reset: how many words of a write tenure in hand had reached memory when it was cut (R182).
`done` and `landed` of a fault: the words completed before it, and whether the faulted word of a write reached memory
(R183, R185, R186).  See notes/assumptions/4.md. -/
inductive Instr
  /-- Power-on reset is applied (R195). -/
  | coldReset (landed : Nat)
  /-- The RESET pin applies a warm reset (R195). -/
  | resetPin (landed : Nat)
  /-- A CONTROL write with SOFT_RESET 1 (R191). -/
  | softReset (value : Word) (landed : Nat)
  /-- The PLL locks (R99). -/
  | clockReady
  /-- A CONTROL write with RUN 1 (R192). -/
  | runSet (value : Word)
  /-- A CONTROL write with RUN 0 (R193). -/
  | runClear (write : ControlWrite)
  /-- The controller's test at the end of an item that STOPPING waits for (R193). -/
  | stoppingDrained
  /-- A CONTROL write, for its BLACKOUT field (R79). -/
  | controlBlackout (write : ControlWrite)
  /-- A CONTROL write, for its HOLD field (R116). -/
  | controlHold (write : ControlWrite)
  /-- A CONTROL write, for its WAIT field (R184). -/
  | controlWait (write : ControlWrite)
  /-- A write of ANCHOR (R190). -/
  | anchorWrite (value : Word)
  /-- A write of NUDGE, of any value (R171). -/
  | nudge (value : Word)
  /-- A write of INTSTATUS (R196). -/
  | intstatusWrite (value : Word)
  /-- A write of INTMASK (R196). -/
  | intmaskWrite (value : Word)
  /-- A write to a read-only register or an unused offset (R190). -/
  | registerWriteOther (offset value : Word)
  /-- The frame timer expires; the blocks take the boundary in the given order (R104, notes/assumptions/5.md). -/
  | frameBoundary (order : List BoundaryTaker)
  /-- The running mix pass ends (R67). -/
  | mixComplete
  /-- SET FRAME (R108). -/
  | setFrame (slot : Fin 32) (period scan status : Word)
  /-- SET LINE (R120). -/
  | setLine (slot : Fin 32) (line mode rate count talkback base timeout action : Word)
  /-- SET OUTPUTS (R162). -/
  | setOutputs (slot : Fin 32) (clock modes inverts : Word)
  /-- SET TRIGGER (R167). -/
  | setTrigger (slot : Fin 32) (trigger edge debounce action playback bank cue time : Word)
  /-- PATCH (R85). -/
  | patch (slot : Fin 32) (address count : Word)
  /-- LOAD CURVE (R85). -/
  | loadCurve (slot : Fin 32) (curve address : Word)
  /-- SET GRAND (R78). -/
  | setGrand (slot : Fin 32) (level time : Word)
  /-- BLACKOUT (R80). -/
  | blackout (slot : Fin 32) (action : Word)
  /-- SNAPSHOT (R179). -/
  | snapshot (slot : Fin 32) (address : Word)
  /-- CLEAR LINE STATUS (R142). -/
  | clearLineStatus (slot : Fin 32) (line : Word)
  /-- QUERY (R145). -/
  | query (slot : Fin 32) (line address code count bytes0 bytes4 reply : Word)
  /-- GO (R9). -/
  | go (slot : Fin 32) (playback bank cue time : Word)
  /-- GO NEXT (R12). -/
  | goNext (slot : Fin 32) (playback bank : Word)
  /-- PAUSE (R14). -/
  | pause (slot : Fin 32) (playback : Word)
  /-- RESUME (R15). -/
  | resume (slot : Fin 32) (playback : Word)
  /-- RELEASE (R16). -/
  | release (slot : Fin 32) (playback time : Word)
  /-- SET MASTER (R18). -/
  | setMaster (slot : Fin 32) (playback level time : Word)
  /-- A fade timer expires (R20). -/
  | fadeEnd (p : Fin 8)
  /-- A follow timer expires (R22). -/
  | followExpiry (p : Fin 8)
  /-- A master fade reaches its duration (R19). -/
  | masterSettling (p : Fin 8)
  /-- The grand master fade reaches its duration (R77). -/
  | grandSettling
  /-- MGNT is sampled asserted; `stores` are the words other masters have stored since the last grant (R184). -/
  | mgntGrant (stores : List (Word × Word))
  /-- The tenure in hand ends Done (R184). -/
  | tenureEnd
  /-- No grant 500 µs after MREQ (R185). -/
  | grantTimeout
  /-- MRDY low for more than 64 µs in one word (R185). -/
  | readyTimeout (done : Nat) (landed : Bool)
  /-- MERR during a word, or MGNT lost (R186). -/
  | busError (done : Nat) (landed : Bool)
  /-- The check stop bit of a level frame (R115). -/
  | levelFrameEnd (l : Fin 4)
  /-- TRAIL ends (R118). -/
  | trailEnd (l : Fin 4)
  /-- The last stop bit of a query frame (R147). -/
  | queryFrameEnd (l : Fin 4)
  /-- The driver is released after a query frame (R149). -/
  | turnaroundEnd (l : Fin 4)
  /-- The first fall of a reply (R149). -/
  | replyStart (l : Fin 4)
  /-- 44 bit times after the release with no fall (R149). -/
  | replyStartTimeout (l : Fin 4)
  /-- A reply character is taken (R150). -/
  | replyCharacter (l : Fin 4) (flag : Bool) (data : Byte)
  /-- A low stop or a break in a reply (R151). -/
  | replyCollision (l : Fin 4) (kind : CollisionKind)
  /-- 33 bit times with no fall after a reply character (R150). -/
  | replyGapExpiry (l : Fin 4)
  /-- The query window ends (R151). -/
  | queryWindowEnd (l : Fin 4)
  /-- 12 bit times of low (R129, R130). -/
  | rxBreak (l : Fin 4)
  /-- The rise after a break (R130). -/
  | rxBreakEnd (l : Fin 4)
  /-- A character is taken at its high stop bit (R129, R130). -/
  | rxCharacter (l : Fin 4) (flag : Bool) (data : Byte)
  /-- A stop bit read low, the line rising before 12 bit times (R129, R130). -/
  | rxLowStop (l : Fin 4)
  /-- 33 bit times with no fall (R129, R130). -/
  | rxGapExpiry (l : Fin 4)
  /-- A signal timer expires (R138). -/
  | signalTimerExpiry (l : Fin 4)
  /-- The PWM period counter wraps (R159). -/
  | pwmPeriodEnd
  /-- A trigger pin changes to a level (R164). -/
  | triggerPinChange (t : Fin 8) (level : Bool)
  /-- A debounce timer expires (R164). -/
  | debounceExpiry (t : Fin 8)
  /-- A fall of a line's receiver source from high to low (R129). -/
  | startOfALow (l : Fin 4)
  /-- A tenure under way at the abort of a start ends, `done` words completed (R187). -/
  | tenureEnded (done : Nat)
  /-- An applied reset is released (R195). -/
  | resetRelease
  /-- A tick of the millisecond base (R101). -/
  | millisecondBaseTick
  deriving DecidableEq, Repr

end Sys2Proof
end

