-- ==== Sys2Proof/WellFormed.lean ====
section
/-! DEFINITION. The operands a command can carry.  A command outside this predicate is no event of the part; its meaning is total
all the same. -/

namespace Sys2Proof

/-- The blocks that take a frame boundary, in the order of the manual's table (06). -/
def BoundaryTaker.all : List BoundaryTaker :=
  [.mixer, .loader, .line 0, .line 1, .line 2, .line 3, .scanner, .status, .results]

/-- Offsets of the registers that a write can change (R190). -/
def writableOffsets : List Word := [0x04, 0x0C, 0x10, 0x14, 0x18]

/-- What each command's operands satisfy: the CONTROL rows write the field they are named for, a write to another register is not
to a writable one, a boundary is taken once by every block, and no tenure has more than sixteen words (R183). -/
def Instr.wellFormed : Instr → Bool
  | .coldReset n => n ≤ Config.burst
  | .resetPin n => n ≤ Config.burst
  | .softReset v n => v.getLsbD 8 && decide (n ≤ Config.burst)
  | .runSet v => v.getLsbD 0 && !v.getLsbD 8
  | .runClear w => !w.value.getLsbD 0 && !w.value.getLsbD 8 && decide (w.done < Config.burst)
  | .controlBlackout w => !w.value.getLsbD 8 && decide (w.done < Config.burst)
  | .controlHold w => !w.value.getLsbD 8 && decide (w.done < Config.burst)
  | .controlWait w => !w.value.getLsbD 8 && decide (w.done < Config.burst)
  | .registerWriteOther o _ => decide (o ∉ writableOffsets)
  | .frameBoundary order => decide (order.length = 9) && BoundaryTaker.all.all fun b => decide (b ∈ order)
  | .mgntGrant stores => stores.all fun st => decide (st.1.toNat % 4 = 0)
  | .readyTimeout n _ => n < Config.burst
  | .busError n _ => n < Config.burst
  | .tenureEnded n => n ≤ Config.burst
  | .clockReady | .stoppingDrained | .anchorWrite _ | .nudge _ | .intstatusWrite _ | .intmaskWrite _ | .mixComplete
  | .setFrame .. | .setLine .. | .setOutputs .. | .setTrigger .. | .patch .. | .loadCurve .. | .setGrand .. | .blackout ..
  | .snapshot .. | .clearLineStatus .. | .query .. | .go .. | .goNext .. | .pause .. | .resume .. | .release .. | .setMaster ..
  | .fadeEnd _ | .followExpiry _ | .masterSettling _ | .grandSettling | .tenureEnd | .grantTimeout | .levelFrameEnd _
  | .trailEnd _ | .queryFrameEnd _ | .turnaroundEnd _ | .replyStart _ | .replyStartTimeout _ | .replyCharacter ..
  | .replyCollision .. | .replyGapExpiry _ | .queryWindowEnd _ | .rxBreak _ | .rxBreakEnd _ | .rxCharacter .. | .rxLowStop _
  | .rxGapExpiry _ | .signalTimerExpiry _ | .pwmPeriodEnd | .triggerPinChange .. | .debounceExpiry _ | .startOfALow _
  | .resetRelease | .millisecondBaseTick => true

end Sys2Proof
end

