-- ==== Sys2Proof/Machine/State.lean ====
section
/-! DEFINITION. The state of the FQ3 as plain data, block by block, and the state after reset.  `Block` is the part; `State` is the
part with the commands that wait for it.  Items the manual gives as views of others (pins, timers, pool counts, the STATE
register) are functions in Ops, Flags and the family files, not fields. -/

namespace Sys2Proof.Machine

/-! ### Register window and engine controller (R190 to R195) -/

/-- The read/write fields of CONTROL (R190). -/
structure Control where
  run : Bool
  blackout : Bool
  hold : Bool
  wait : BitVec 3
  deriving DecidableEq, Repr

/-- Engine states (R190, R192 to R194). -/
inductive EngineState
  | stopped
  | starting
  | running
  | stopping
  | halted
  deriving DecidableEq, Repr

/-- Reset causes (R190). -/
inductive ResetCause
  | powerOn
  | pin
  | soft
  deriving DecidableEq, Repr

/-- Fault codes (R190). -/
inductive FaultCode
  | none
  | anchorBad
  | busHalt
  deriving DecidableEq, Repr

/-- Whether a reset is applied and not yet released (R195). -/
inductive ResetPhase
  | released
  | cold
  | warm
  deriving DecidableEq, Repr

/-- The step of a start in hand: the anchor words read so far, or the bank whose lock word is being swept (R192). -/
inductive StartStep
  | idle
  | anchor (words : List Word)
  | sweep (bank : Nat)
  deriving DecidableEq, Repr

/-- The engine controller.  `aborting`: RUN was cleared in STARTING and the tenure in hand has not ended yet (R187). -/
structure Engine where
  state : EngineState
  cause : ResetCause
  fault : FaultCode
  phase : ResetPhase
  start : StartStep
  aborting : Bool
  deriving DecidableEq, Repr

/-- The values of the anchor block in use (R169). -/
structure Anchor where
  postTable : Word
  slots : Nat
  statusPage : Word
  bankCount : Nat
  banks : List Word
  deriving DecidableEq, Repr

/-! ### Results (R174, R175, R176) -/

/-- Result codes (R174). -/
inductive ResultCode
  | ok
  | badKind
  | badTarget
  | badParam
  | badState
  | queueFull
  | cancelled
  | abandoned
  | noRoom
  | cueMissing
  | badCue
  | bankBusy
  | busFault
  | budget
  | slotTaken
  | noReply
  | badReply
  | collision
  | busy
  deriving DecidableEq, Repr

/-- A completion: slot index, result code, three result values (R175). -/
structure Completion where
  slot : Fin 32
  code : ResultCode
  v1 : Word
  v2 : Word
  v3 : Word
  deriving DecidableEq, Repr

/-- What the result writer is doing with the head of the queue (R176). -/
inductive WriterStep
  | idle
  | values
  | done
  | waiting
  deriving DecidableEq, Repr

/-- Result queue, reserved places and result writer (R175, R176). -/
structure Results where
  queue : List Completion
  reserved : List (Fin 32)
  writer : WriterStep
  deriving DecidableEq, Repr

/-! ### Time base (R99 to R110) -/

/-- Frame values: period, scan interval, status interval (R108). -/
structure FrameValues where
  period : Nat
  scan : Nat
  status : Nat
  deriving DecidableEq, Repr

/-- The time base (R99, R101, R103).  `countdown` is the value last loaded (notes/assumptions/2.md). -/
structure TimeBase where
  ready : Bool
  clock : Time
  inForce : FrameValues
  pending : Option (FrameValues × Fin 32)
  countdown : Nat
  frames : Word
  deriving DecidableEq, Repr

/-! ### Memory port (R182 to R189) -/

/-- Shared memory: word addresses strictly rising, no listed word 0 (notes/assumptions/3.md). -/
abbrev Memory := List (Nat × Word)

/-- The clients in the arbiter's cyclic order (R188). -/
inductive Client
  | scanner
  | results
  | loader
  | tables
  | talkback
  | status
  deriving DecidableEq, Repr

/-- What a client asks for: a read burst, a write burst, or a locked read-modify-write that writes `put` over `expect` (R183). -/
inductive TenureKind
  | read (address : Word) (length : Nat)
  | write (address : Word) (words : List Word)
  | modify (address expect put : Word)
  deriving DecidableEq, Repr

/-- The current tenure: words done so far, and the value a read-modify-write has read (R182); they are those of the last event that
shows the tenure's progress, and `tenureAt` gives them after any number of words (notes/assumptions/4.md). -/
structure Tenure where
  client : Client
  kind : TenureKind
  done : Nat
  value : Option Word
  deriving DecidableEq, Repr

/-- Port states (R182). -/
inductive PortState
  | idle
  | requesting
  | transferring
  deriving DecidableEq, Repr

/-- The memory port (R182); `waits` is CONTROL.WAIT as taken at the grant (R184). -/
structure Port where
  state : PortState
  current : Option Tenure
  waiting : Vector (Option TenureKind) 6
  pointer : Client
  consecutive : Nat
  faults : Nat
  waits : BitVec 3
  deriving DecidableEq, Repr

/-! ### Request scanner (R171, R172) -/

/-- The step a scan is at: reading the state row (the words so far), claiming a slot, or reading the body of a slot taken; `rest`
are the POSTED slots not yet visited and `taken` the slots taken so far.  `request` are words 1 to 11 of the slot taken without the
host's changes since its claim, which do not reach the request (R170). -/
inductive ScanStep
  | idle
  | row (words : List Word)
  | claim (slot : Fin 32) (rest : List (Fin 32)) (taken : Nat)
  | body (slot : Fin 32) (rest : List (Fin 32)) (taken : Nat) (request : List Word)
  deriving DecidableEq, Repr

/-- The request scanner; a countdown of 0 is stopped (R171). -/
structure Scanner where
  step : ScanStep
  scanPending : Bool
  countdown : Nat
  deriving DecidableEq, Repr

/-! ### Status writer (R177 to R180) -/

/-- A page job: words 1 to 103 as latched, and the burst reached, 0 to 8 (R178). -/
structure PageJob where
  body : List Word
  burst : Nat
  deriving DecidableEq, Repr

/-- The progress of a snapshot job (R179, R180). -/
inductive SnapshotStep
  | waiting
  | writing (buffer : List Word) (burst : Nat)
  deriving DecidableEq, Repr

/-- A snapshot job with its request and its address (R179). -/
structure SnapshotJob where
  slot : Fin 32
  address : Word
  step : SnapshotStep
  deriving DecidableEq, Repr

/-- The two jobs of the STATUS client (R180). -/
inductive StatusJob
  | page
  | snapshot
  deriving DecidableEq, Repr

/-- The status writer; `order` lists the jobs that have begun writing, first begun first (R180). -/
structure StatusWriter where
  countdown : Nat
  edition : Word
  page : Option PageJob
  skipped : Nat
  snapshot : Option SnapshotJob
  order : List StatusJob
  deriving DecidableEq, Repr

/-! ### Playbacks and the scene pool (R1 to R42) -/

/-- A channel, 0 to 1023. -/
abbrev Channel := Fin 1024

/-- Fade states (R1). -/
inductive FadeState
  | idle
  | fading
  | holding
  | paused
  | releasing
  deriving DecidableEq, Repr

/-- The state a PAUSED playback left (R1). -/
inductive Remembered
  | fading
  | releasing
  | holding
  deriving DecidableEq, Repr

/-- Load states (R2). -/
inductive LoadState
  | none
  | waiting
  | reading
  deriving DecidableEq, Repr

/-- Follow modes (R44). -/
inductive FollowMode
  | manual
  | auto
  | link
  deriving DecidableEq, Repr

/-- Where a playback request comes from (R5). -/
inductive Origin
  | post (slot : Fin 32)
  | trigger (t : Fin 8)
  | follow
  deriving DecidableEq, Repr

/-- The kinds of request that queue, with their parameters (R5, R6). -/
inductive QueuedKind
  | go (bank cue : Nat) (override : Option Nat)
  | goNext (bank : Option Nat)
  | pause
  | resume
  deriving DecidableEq, Repr

/-- One entry of a playback's request queue (R5). -/
structure QueuedRequest where
  origin : Origin
  kind : QueuedKind
  deriving DecidableEq, Repr

/-- Fade classes (R28). -/
inductive FadeClass
  | up
  | down
  | snap
  deriving DecidableEq, Repr

/-- A set entry (R28). -/
structure SetEntry where
  channel : Channel
  start : Nat
  target : Nat
  fadeClass : FadeClass
  stamp : Nat
  leaving : Bool
  deriving DecidableEq, Repr

/-- An incoming entry (R29). -/
structure IncomingEntry where
  channel : Channel
  level : Nat
  snap : Bool
  deriving DecidableEq, Repr

/-- The fade timing record (R4, R17, R35); the follow deadline stands in `Playback.follow`. -/
structure FadeTiming where
  start : Time
  delay : Nat
  up : Nat
  down : Nat
  fadeEnd : Time
  paused : Option Int
  deriving DecidableEq, Repr

/-- A master or grand master fade record (R18, R77). -/
structure FadeRecord where
  start : Nat
  target : Nat
  time : Time
  duration : Nat
  deriving DecidableEq, Repr

/-- The last cue record (R3). -/
structure LastCue where
  bank : Nat
  cue : Nat
  follow : FollowMode
  linkCue : Nat
  hold : Nat
  down : Nat
  deriving DecidableEq, Repr

/-- A playback unit (R4), with the pool entries it holds (R27). -/
structure Playback where
  fade : FadeState
  remembered : Option Remembered
  load : LoadState
  queue : List QueuedRequest
  entries : List SetEntry
  incoming : List IncomingEntry
  reservation : Nat
  timing : FadeTiming
  follow : Option Time
  master : FadeRecord
  lastCue : Option LastCue
  deriving DecidableEq, Repr

/-- What the mixer reads of a playback (R40). -/
structure PlaybackView where
  entries : List SetEntry
  timing : FadeTiming
  master : FadeRecord
  deriving DecidableEq, Repr

/-! ### Cue loader (R43 to R63) -/

/-- The search of a load job (R46). -/
inductive Search
  | exactly (cue : Nat)
  | above (cue : Nat)
  | first
  deriving DecidableEq, Repr

/-- A job of the loader queue (R46). -/
structure LoadJob where
  playback : Fin 8
  bank : Nat
  search : Search
  attempts : Nat
  deferred : Bool
  deriving DecidableEq, Repr

/-- A cue record's header (R44). -/
structure CueHeader where
  cue : Nat
  follow : FollowMode
  count : Nat
  up : Nat
  down : Nat
  delay : Nat
  hold : Nat
  linkCue : Nat
  deriving DecidableEq, Repr

/-- The stage of the current job and the position reached in it (R48): SEEK before and after the cue count is known, HEADER with the
number and record offset found, ENTRIES with the offset and the entries taken. -/
inductive LoadStage
  | lock
  | seekCount
  | seekDirectory (count position : Nat)
  | header (number offset count : Nat)
  | entries (offset position : Nat)
  | unlock
  deriving DecidableEq, Repr

/-- The loader's current job (R48); `failed` is the code fixed at a failure (R57). -/
structure CurrentLoad where
  job : LoadJob
  stage : LoadStage
  lockHeld : Bool
  abandon : Bool
  failed : Option ResultCode
  header : Option CueHeader
  deriving DecidableEq, Repr

/-- The cue loader: IDLE when it has no current job (R48). -/
structure Loader where
  queue : List LoadJob
  current : Option CurrentLoad
  stuck : Nat
  sweeps : Nat
  deriving DecidableEq, Repr

/-! ### Patch, curves and the table loader (R82 to R98) -/

/-- A destination: a line slot, 16 bits wide when `wide`, or a local output (R82). -/
inductive Destination
  | line (line : Fin 4) (slot : Fin 256) (wide : Bool)
  | output (n : Fin 16)
  deriving DecidableEq, Repr

/-- An element of the slot owner map (R83). -/
inductive Element
  | slot (line : Fin 4) (slot : Fin 256)
  | output (n : Fin 16)
  deriving DecidableEq, Repr

/-- Merge rules (R82). -/
inductive MergeRule
  | max
  | latest
  deriving DecidableEq, Repr

/-- A patch entry (R82). -/
structure PatchEntry where
  intensity : Bool
  merge : MergeRule
  curve : Fin 8
  destinations : List Destination
  deriving DecidableEq, Repr

/-- A validated patch record: the channel and its new entry (R88, R90). -/
structure PatchRecord where
  channel : Channel
  entry : PatchEntry
  deriving DecidableEq, Repr

/-- The slot owner map (R83). -/
structure OwnerMap where
  slots : Vector (Vector (Option Channel) 256) 4
  outputs : Vector (Option Channel) 16
  deriving DecidableEq, Repr

/-- A table job (R84). -/
inductive TableJob
  | patch (slot : Fin 32) (address : Word) (count : Nat)
  | curve (slot : Fin 32) (curve : Fin 7) (address : Word)
  deriving DecidableEq, Repr

/-- The patch staging (R84): FILLING with the words read so far, READY with the list in list order. -/
inductive Staging
  | empty
  | filling (words : List Word)
  | ready (owner : Fin 32) (list : List PatchRecord)
  deriving DecidableEq, Repr

/-- A curve shadow (R84). -/
inductive Shadow
  | empty
  | filling (points : List Nat)
  | ready (owner : Fin 32) (points : List Nat)
  deriving DecidableEq, Repr

/-- The table loader: the reader is IDLE when it has no job; shadow k belongs to curve k + 1 (R84). -/
structure TableLoader where
  queue : List TableJob
  reader : Option TableJob
  staging : Staging
  shadows : Vector Shadow 7
  deriving DecidableEq, Repr

/-! ### Mixer and frame store (R64, R72) -/

/-- An input layer as a pass reads it: the base channel and the 256 bytes (R66). -/
structure InputView where
  base : Nat
  bytes : Vector Byte 256
  deriving DecidableEq, Repr

/-- The pass latch (R64, R65, R66); `restarted` is set when the engine enters STARTING during the pass (R67). -/
structure PassLatch where
  time : Time
  grand : Nat
  blackout : Bool
  inputs : List InputView
  restarted : Bool
  deriving DecidableEq, Repr

/-- A held edit: what the mixer is to see of the playback, and the pool entries that return to free when it lands (R40, R41). -/
structure HeldEdit where
  playback : Fin 8
  view : PlaybackView
  freed : Nat
  deriving DecidableEq, Repr

/-- The mixer: MIXING while there is a pass latch (R64).  Curve k + 1 stands at place k of `curves`. -/
structure Mixer where
  pass : Option PassLatch
  views : Vector PlaybackView 8
  held : List HeldEdit
  grand : FadeRecord
  blackoutRequest : Bool
  takeStamp : Nat
  lateMixes : Nat
  patch : Vector PatchEntry 1024
  owners : OwnerMap
  curves : Vector (List Nat) 7
  deriving DecidableEq, Repr

/-- An output image (R72). -/
structure Image where
  levels : Vector Nat 1024
  slots : Vector (Vector Byte 256) 4
  outputs : Vector Nat 16
  deriving DecidableEq, Repr

/-- The frame store; `aPresented` says that A is the presented image (R72). -/
structure FrameStore where
  a : Image
  b : Image
  aPresented : Bool
  complete : Bool
  hold : Bool
  deriving DecidableEq, Repr

/-! ### Line units (R111, R127, R144) -/

/-- Line modes (R111). -/
inductive LineMode
  | off
  | send
  | receive
  | loop
  deriving DecidableEq, Repr

/-- Line rates (R111). -/
inductive LineRate
  | slow
  | fast
  deriving DecidableEq, Repr

/-- Loss actions (R111). -/
inductive LossAction
  | hold
  | clear
  deriving DecidableEq, Repr

/-- A line configuration (R111). -/
structure LineConfig where
  mode : LineMode
  rate : LineRate
  slots : Nat
  talkback : Bool
  base : Nat
  lossTimeout : Nat
  lossAction : LossAction
  deriving DecidableEq, Repr

/-- A query (R144). -/
structure Query where
  slot : Fin 32
  address : Nat
  code : Nat
  bytes : List Byte
  area : Word
  deriving DecidableEq, Repr

/-- What the transmitter is doing, as last moved on by an event: the states of R115 for a level frame; the query whose frame it sends;
and the mark it holds after a query frame (R147).  `txStateAt` gives the state at any bit time of the frame in hand
(notes/assumptions/18.md). -/
inductive TxState
  | idle
  | brk
  | mark
  | characters (index : Nat)
  | trail
  | query (q : Query)
  | turnaround
  deriving DecidableEq, Repr

/-- Receiver states (R127, R130). -/
inductive RxState
  | hunt
  | brk
  | mark
  | header
  | count
  | slots
  | check
  deriving DecidableEq, Repr

/-- The receiver: its state, the received count S and the position reached, the sum of the data values taken, and whether a low and
a gap are being measured (R127, R129, R130). -/
structure Receiver where
  state : RxState
  count : Nat
  position : Nat
  sum : Nat
  low : Bool
  gap : Bool
  deriving DecidableEq, Repr

/-- The staging buffer of a line (R127). -/
inductive LineStaging
  | empty
  | filling (bytes : List Byte)
  | complete (bytes : List Byte)
  deriving DecidableEq, Repr

/-- Signal states (R138). -/
inductive SignalState
  | none
  | present
  | lost
  deriving DecidableEq, Repr

/-- Frame error kinds, in the order of the status page's bits (R127, R181). -/
inductive ErrorKind
  | framing
  | check
  | short
  | unexpected
  | overrun
  deriving DecidableEq, Repr

/-- Last-frame status (R127). -/
inductive LastFrame
  | none
  | ok
  | error (kind : ErrorKind)
  deriving DecidableEq, Repr

/-- The record of one kind of frame error: its counter, and its presence in the error summary (R127, R134). -/
structure ErrorRecord where
  count : Nat
  seen : Bool
  deriving DecidableEq, Repr

/-- The error counters and the error summary (R127). -/
structure ErrorRecords where
  framing : ErrorRecord
  check : ErrorRecord
  short : ErrorRecord
  unexpected : ErrorRecord
  overrun : ErrorRecord
  deriving DecidableEq, Repr

/-- Stages of a query in flight (R144). -/
inductive QueryStage
  | gap
  | sending
  | turnaround
  | awaiting
  | receiving
  deriving DecidableEq, Repr

/-- The query in flight: the show time at which its window opened, the reply's data values so far, and whether the engine has entered
STOPPING (R155) or HALTED (R156) since it started. -/
structure InFlight where
  query : Query
  stage : QueryStage
  opened : Time
  taken : List Byte
  cancelled : Bool
  halted : Bool
  deriving DecidableEq, Repr

/-- A reply in the reply buffer (R144, R152). -/
structure Reply where
  slot : Fin 32
  echoed : Nat
  status : Byte
  data : List Byte
  area : Word
  deriving DecidableEq, Repr

/-- A line unit (R111, R127, R144). -/
structure Line where
  config : LineConfig
  pending : Option (LineConfig × Fin 32)
  tx : TxState
  driver : Bool
  sent : Nat
  rx : Receiver
  staging : LineStaging
  layer : Vector Byte 256
  signal : SignalState
  signalTimer : Option Time
  errors : ErrorRecords
  lastFrame : LastFrame
  received : Nat
  foreign : Nat
  stray : Nat
  queries : List Query
  inFlight : Option InFlight
  reply : Option Reply
  deriving DecidableEq, Repr

/-! ### Local outputs and triggers (R158, R163) -/

/-- PWM clock selects (R158). -/
inductive PwmClock
  | low
  | middle
  | high
  deriving DecidableEq, Repr

/-- Output modes (R158). -/
inductive OutputMode
  | off
  | pwm
  | switch
  deriving DecidableEq, Repr

/-- An output configuration (R158, R162). -/
structure OutputConfig where
  clock : PwmClock
  modes : Vector OutputMode 16
  inverts : Vector Bool 16
  deriving DecidableEq, Repr

/-- The local output unit; `counter` is the period counter as last set (notes/assumptions/2.md). -/
structure LocalOutputs where
  config : OutputConfig
  pending : Option OutputConfig
  compare : Vector Nat 16
  load : Vector Bool 16
  counter : Nat
  deriving DecidableEq, Repr

/-- Edge selects (R163). -/
inductive EdgeSelect
  | none
  | rising
  | falling
  | both
  deriving DecidableEq, Repr

/-- Trigger actions (R163). -/
inductive TriggerAction
  | note
  | go
  | goNext
  | pause
  | resume
  | release
  | blackoutToggle
  deriving DecidableEq, Repr

/-- A trigger record (R163). -/
structure TriggerRecord where
  edge : EdgeSelect
  debounce : Nat
  action : TriggerAction
  playback : Fin 8
  bank : Nat
  cue : Nat
  time : Option Nat
  deriving DecidableEq, Repr

/-- A trigger: its record, settled level, debounce timer, counts, and the level now on its pin (R163). -/
structure Trigger where
  record : TriggerRecord
  settled : Bool
  timer : Option Time
  accepted : Nat
  dropped : Nat
  pin : Bool
  deriving DecidableEq, Repr

/-! ### The part -/

/-- The whole part, with the shared memory it masters. -/
structure Block where
  control : Control
  anchorReg : Word
  intStatus : BitVec 6
  intMask : BitVec 6
  engine : Engine
  anchor : Anchor
  time : TimeBase
  port : Port
  mem : Memory
  scanner : Scanner
  results : Results
  status : StatusWriter
  playbacks : Vector Playback 8
  superseded : Nat
  loader : Loader
  tables : TableLoader
  mixer : Mixer
  store : FrameStore
  lines : Vector Line 4
  talkback : List (Fin 4)
  outputs : LocalOutputs
  triggers : Vector Trigger 8
  deriving DecidableEq, Repr

/-- The machine: the part and the commands that wait for it, first in, first out. -/
structure State where
  block : Block
  pending : List Instr
  deriving DecidableEq, Repr

/-- Reasons to stop with a fault: the manual gives none, the part never stops, so there is no constructor. -/
inductive Fault
  deriving DecidableEq, Repr

/-- Reasons to refuse a command. -/
inductive Refusal
  /-- Raised by no arm of `exec`: every command has its meaning.  Safe: it would stop the machine. -/
  | notModelled (mnemonic : String)
  deriving DecidableEq, Repr

/-! ### Reset values -/

/-- No fade: the timing record of R4, every field 0 (notes/assumptions/14.md). -/
def FadeTiming.cleared : FadeTiming := ⟨0, 0, 0, 0, 0, none⟩

/-- A record that stands at full (R4, R64). -/
def FadeRecord.full : FadeRecord := ⟨65535, 65535, 0, 0⟩

/-- A playback after either reset (R4). -/
def Playback.reset : Playback :=
  ⟨.idle, none, .none, [], [], [], 0, .cleared, none, .full, none⟩

/-- What the mixer sees of a playback after either reset. -/
def PlaybackView.reset : PlaybackView := ⟨[], .cleared, .full⟩

/-- The points of curve 0: k × 1024, and 65535 (R91). -/
def curveZero : List Nat := (List.range 64).map (· * 1024) ++ [65535]

/-- A patch entry after a cold reset (R82). -/
def PatchEntry.reset : PatchEntry := ⟨true, .max, 0, []⟩

/-- The slot owner map after a cold reset (R83). -/
def OwnerMap.reset : OwnerMap := ⟨Vector.replicate 4 (Vector.replicate 256 none), Vector.replicate 16 none⟩

/-- The mixer after a cold reset (R64, R82, R83, R91). -/
def Mixer.reset : Mixer where
  pass := none
  views := Vector.replicate 8 .reset
  held := []
  grand := .full
  blackoutRequest := false
  takeStamp := 1
  lateMixes := 0
  patch := Vector.replicate 1024 .reset
  owners := .reset
  curves := Vector.replicate 7 curveZero

/-- An image with every element 0 (R72). -/
def Image.zero : Image :=
  ⟨Vector.replicate 1024 0, Vector.replicate 4 (Vector.replicate 256 0), Vector.replicate 16 0⟩

/-- The frame store after either reset (R72). -/
def FrameStore.reset : FrameStore := ⟨.zero, .zero, true, false, false⟩

/-- A line configuration after a cold reset (R125). -/
def LineConfig.reset : LineConfig := ⟨.off, .slow, 256, false, 0, 1000, .hold⟩

/-- A receiver in HUNT (R127). -/
def Receiver.hunt : Receiver := ⟨.hunt, 0, 0, 0, false, false⟩

/-- No frame error recorded (R127). -/
def ErrorRecords.clear : ErrorRecords := ⟨⟨0, false⟩, ⟨0, false⟩, ⟨0, false⟩, ⟨0, false⟩, ⟨0, false⟩⟩

/-- A line after a cold reset (R125, R127, R144). -/
def Line.reset : Line where
  config := .reset
  pending := none
  tx := .idle
  driver := false
  sent := 0
  rx := .hunt
  staging := .empty
  layer := Vector.replicate 256 0
  signal := .none
  signalTimer := none
  errors := .clear
  lastFrame := .none
  received := 0
  foreign := 0
  stray := 0
  queries := []
  inFlight := none
  reply := none

/-- The output configuration after a cold reset (R158). -/
def OutputConfig.reset : OutputConfig := ⟨.middle, Vector.replicate 16 .off, Vector.replicate 16 false⟩

/-- The local output unit after a cold reset (R158). -/
def LocalOutputs.reset : LocalOutputs := ⟨.reset, none, Vector.replicate 16 0, Vector.replicate 16 false, 0⟩

/-- A trigger after a cold reset, its pin low (R163, notes/assumptions/14.md). -/
def Trigger.reset : Trigger := ⟨⟨.none, 0, .note, 0, 0, 0, none⟩, false, none, 0, 0, false⟩

/-- The memory port after either reset (R182). -/
def Port.reset : Port := ⟨.idle, none, Vector.replicate 6 none, .status, 0, 0, 0⟩

/-- The table loader with nothing to do: no job, and the staging and every shadow EMPTY, as after either reset (R84). -/
def TableLoader.idle : TableLoader := ⟨[], none, .empty, Vector.replicate 7 .empty⟩

/-- The part right after a cold reset has been released, the PLL not yet locked (R99, R195). -/
def Block.reset : Block where
  control := ⟨false, false, false, 0⟩
  anchorReg := 0
  intStatus := 0
  intMask := 0
  engine := ⟨.stopped, .powerOn, .none, .released, .idle, false⟩
  anchor := ⟨0, 0, 0, 0, List.replicate 16 0⟩
  time := ⟨false, 0, ⟨25000, 1, 40⟩, none, 25000, 0⟩
  port := .reset
  mem := []
  scanner := ⟨.idle, false, 0⟩
  results := ⟨[], [], .idle⟩
  status := ⟨0, 0, none, 0, none, []⟩
  playbacks := Vector.replicate 8 .reset
  superseded := 0
  loader := ⟨[], none, 0, 0⟩
  tables := .idle
  mixer := .reset
  store := .reset
  lines := Vector.replicate 4 .reset
  talkback := []
  outputs := .reset
  triggers := Vector.replicate 8 .reset

/-- The machine right after reset: no command waits. -/
def State.reset : State := ⟨.reset, []⟩

end Sys2Proof.Machine
end

