-- ==== Sys2Proof/Machine/Flags.lean ====
section
/-! DEFINITION. Status and flag computations: the interrupt sources and the IRQ pin, saturating counts, the error record of a line,
and the registers as the host reads them. -/

namespace Sys2Proof.Machine

/-- A 32-bit count that stops at its largest value, one higher (R58, R64, R127, R182). -/
def countUp (n : Nat) : Nat := if n < Config.maxCount then n + 1 else n

/-! ### Interrupts (R190, R196) -/

/-- The six interrupt sources in the order of their bits (R190). -/
inductive IntSource
  | requestDone
  | status
  | line
  | trigger
  | playback
  | fault
  deriving DecidableEq, Repr

/-- The place of a source in INTSTATUS and INTMASK (R190). -/
def IntSource.index : IntSource → Nat
  | .requestDone => 0
  | .status => 1
  | .line => 2
  | .trigger => 3
  | .playback => 4
  | .fault => 5

/-- The mask of one source. -/
def IntSource.bit (src : IntSource) : BitVec 6 := BitVec.twoPow 6 src.index

/-- Raises a source: its bit of INTSTATUS is set, the others stay (R196). -/
def raiseInt (src : IntSource) (s : Block) : Block := { s with intStatus := s.intStatus ||| src.bit }

/-- Whether a source is set in INTSTATUS. -/
def isRaised (src : IntSource) (s : Block) : Bool := s.intStatus.getLsbD src.index

/-- The bits of INTSTATUS a write clears: those written 1, but not FAULT while the engine is HALTED (R194, R196). -/
def clearedBits (value : Word) (engine : EngineState) : BitVec 6 :=
  if engine = .halted then value.setWidth 6 &&& ~~~IntSource.fault.bit else value.setWidth 6

/-- The IRQ pin: asserted while some source is set whose mask bit is set (R196). -/
def irqPin (s : Block) : Bool := s.intStatus &&& s.intMask != 0

/-! ### The error record of a line (R134, R141) -/

/-- One more frame error of one kind: its counter and its place in the summary. -/
def ErrorRecord.hit (r : ErrorRecord) : ErrorRecord := ⟨countUp r.count, true⟩

/-- Counts a frame error of kind `k` and adds it to the summary (R134). -/
def ErrorRecords.hit (k : ErrorKind) (e : ErrorRecords) : ErrorRecords :=
  match k with
  | .framing => { e with framing := e.framing.hit }
  | .check => { e with check := e.check.hit }
  | .short => { e with short := e.short.hit }
  | .unexpected => { e with unexpected := e.unexpected.hit }
  | .overrun => { e with overrun := e.overrun.hit }

/-- The record of one kind. -/
def ErrorRecords.of (k : ErrorKind) (e : ErrorRecords) : ErrorRecord :=
  match k with
  | .framing => e.framing
  | .check => e.check
  | .short => e.short
  | .unexpected => e.unexpected
  | .overrun => e.overrun

/-- A Bool as a bit. -/
def bit (b : Bool) : Nat := if b then 1 else 0

/-- The error summary as the status page packs it: bits 0 to 4 for FRAMING to OVERRUN (R181). -/
def ErrorRecords.summary (e : ErrorRecords) : Nat :=
  bit e.framing.seen + 2 * bit e.check.seen + 4 * bit e.short.seen + 8 * bit e.unexpected.seen + 16 * bit e.overrun.seen

/-! ### Codes of states (R174, R181, R190) -/

/-- The code of an engine state (R190). -/
def EngineState.code : EngineState → Nat
  | .stopped => 0
  | .starting => 1
  | .running => 2
  | .stopping => 3
  | .halted => 4

/-- The code of a reset cause (R190). -/
def ResetCause.code : ResetCause → Nat
  | .powerOn => 0
  | .pin => 1
  | .soft => 2

/-- The code of a fault code (R190). -/
def FaultCode.code : FaultCode → Nat
  | .none => 0
  | .anchorBad => 1
  | .busHalt => 2

/-- The numeric code of a result (R174). -/
def ResultCode.code : ResultCode → Nat
  | .ok => 0
  | .badKind => 1
  | .badTarget => 2
  | .badParam => 3
  | .badState => 4
  | .queueFull => 5
  | .cancelled => 6
  | .abandoned => 7
  | .noRoom => 8
  | .cueMissing => 9
  | .badCue => 10
  | .bankBusy => 11
  | .busFault => 12
  | .budget => 13
  | .slotTaken => 14
  | .noReply => 15
  | .badReply => 16
  | .collision => 17
  | .busy => 18

/-! ### The registers as the host reads them (R190) -/

/-- What a read of the register window at `offset` gives.  Reading changes nothing, an unused offset reads 0, and so
do bits outside the fields that R190 lists (notes/assumptions/35.md). -/
def readRegister (offset : Word) (s : Block) : Word :=
  if offset = 0x00 then 0x4842F031
  else if offset = 0x04 then
    BitVec.ofNat 32 (bit s.control.run + 2 * bit s.control.blackout + 4 * bit s.control.hold + 16 * s.control.wait.toNat)
  else if offset = 0x08 then
    BitVec.ofNat 32 (s.engine.state.code + 16 * bit s.time.ready + 256 * s.engine.cause.code + 4096 * s.engine.fault.code)
  else if offset = 0x0C then s.anchorReg
  else if offset = 0x14 then s.intStatus.setWidth 32
  else if offset = 0x18 then s.intMask.setWidth 32
  else 0

end Sys2Proof.Machine
end

