-- ==== Sys2Proof/Machine/Ops.lean ====
section
/-! DEFINITION. The named operations the commands share: places of a vector, show times, shared memory, the memory port's requests
and arbiter, and completions on their way to the result queue. -/

namespace Sys2Proof.Machine

/-! ### Places of a vector -/

/-- The element at place `i`. -/
def getAt {α : Type} {n : Nat} (v : Vector α n) (i : Fin n) : α := v[i.val]

/-- The vector with the element at place `i` replaced. -/
def setAt {α : Type} {n : Nat} (v : Vector α n) (i : Fin n) (x : α) : Vector α n := v.set i.val x

/-- The vector with the element at place `i` changed by `f`. -/
def modAt {α : Type} {n : Nat} (v : Vector α n) (i : Fin n) (f : α → α) : Vector α n := setAt v i (f (getAt v i))

/-- The vector with every element changed by `f`. -/
def mapAll {α β : Type} {n : Nat} (v : Vector α n) (f : α → β) : Vector β n := Vector.ofFn fun i => f (getAt v i)

/-- The playbacks, lines and triggers in ascending number. -/
def allPlaybacks : List (Fin 8) := [0, 1, 2, 3, 4, 5, 6, 7]
def allLines : List (Fin 4) := [0, 1, 2, 3]
def allTriggers : List (Fin 8) := [0, 1, 2, 3, 4, 5, 6, 7]

/-! ### Show times (R102) -/

/-- The difference of two show times modulo 2^32, read as a signed value (R102). -/
def showDiff (a b : Time) : Int := (a - b).toInt

/-- Whether show time `t` has been reached at `now` (R102). -/
def reached (now t : Time) : Bool := decide (0 ≤ showDiff now t)

/-! ### Shared memory (R183) -/

/-- The word address that a byte address names: its low two bits are ignored (R183). -/
def wordAddress (a : Word) : Nat := a.toNat / 4 * 4

/-- What a word that nothing has written reads as (notes/assumptions/3.md). -/
def unwritten : Word := 0

/-- A cell that the canonical form may list: a word address of the 32-bit space, and a word other than what an unlisted one reads as. -/
def cellOk (c : Nat × Word) : Bool := c.2 != unwritten && decide (c.1 % 4 = 0) && decide (c.1 < 2 ^ 32)

/-- The canonical form: word addresses strictly rising, and every cell one that may be listed. -/
def Memory.wf : Memory → Bool
  | [] => true
  | [c] => cellOk c
  | c :: d :: rest => cellOk c && decide (c.1 < d.1) && Memory.wf (d :: rest)

/-- The word at a word address. -/
def Memory.load : Memory → Nat → Word
  | [], _ => unwritten
  | c :: rest, a => if c.1 = a then c.2 else Memory.load rest a

/-- The memory with one word stored, in canonical form. -/
def Memory.store : Memory → Nat → Word → Memory
  | [], a, w => if w = unwritten then [] else [(a, w)]
  | c :: rest, a, w =>
    if a < c.1 then (if w = unwritten then c :: rest else (a, w) :: c :: rest)
    else if a = c.1 then (if w = unwritten then rest else (a, w) :: rest)
    else c :: Memory.store rest a w

/-- The word address of word `k` of a burst from byte address `a`; it wraps to 0 at the top (R183). -/
def burstAddress (a : Word) (k : Nat) : Nat := wordAddress (a + BitVec.ofNat 32 (4 * k))

/-- The words of a read burst, in ascending order (R183). -/
def Memory.readBurst (m : Memory) (a : Word) (n : Nat) : List Word :=
  (List.range n).map fun k => m.load (burstAddress a k)

/-- The memory after a write burst's words, in ascending order (R183). -/
def Memory.writeBurst (m : Memory) (a : Word) : List Word → Memory
  | [] => m
  | w :: rest => Memory.writeBurst (m.store (wordAddress a) w) (a + 4) rest

/-- The stores of other masters, in order. -/
def Memory.storeAll (m : Memory) : List (Word × Word) → Memory
  | [] => m
  | st :: rest => Memory.storeAll (m.store (wordAddress st.1) st.2) rest

/-! ### The memory port's requests and its arbiter (R182, R183, R188) -/

/-- The clients' places in the cyclic order (R188). -/
def Client.index : Client → Fin 6
  | .scanner => 0
  | .results => 1
  | .loader => 2
  | .tables => 3
  | .talkback => 4
  | .status => 5

/-- The client at a place of the cyclic order. -/
def Client.ofIndex (i : Fin 6) : Client :=
  match i with
  | 0 => .scanner
  | 1 => .results
  | 2 => .loader
  | 3 => .tables
  | 4 => .talkback
  | 5 => .status

/-- The request a client has waiting at the port. -/
def Port.waitingOf (p : Port) (c : Client) : Option TenureKind := getAt p.waiting c.index

/-- The clients after `c` in cyclic order, `c` itself last (R188). -/
def Client.after (c : Client) : List Client :=
  [1, 2, 3, 4, 5, 6].map fun k : Nat => Client.ofIndex (Fin.ofNat 6 (c.index.val + k))

/-- The first waiting client after the arbiter pointer, with its request (R188). -/
def Port.nextClient (p : Port) : Option (Client × TenureKind) :=
  p.pointer.after.findSome? fun c => (p.waitingOf c).map fun k => (c, k)

/-- Begins a client's tenure: MREQ is asserted, the pointer is set to the client (R184, R188). -/
def Port.start (p : Port) (c : Client) (k : TenureKind) : Port :=
  { p with
    state := .requesting
    current := some ⟨c, k, 0, none⟩
    waiting := setAt p.waiting c.index none
    pointer := c }

/-- The arbiter of an IDLE port serves the first waiting client after its pointer (R188). -/
def Port.arbitrate (p : Port) : Port :=
  if p.state = .idle then
    match p.nextClient with
    | some (c, k) => p.start c k
    | none => p
  else p

/-- A client asks for a tenure: it begins at once at an IDLE port at which nothing waits, and waits otherwise (R188).  While the engine
is HALTED the request is refused (R189). -/
def ask (c : Client) (k : TenureKind) (s : Block) : Block :=
  if s.engine.state = .halted then s
  else if s.port.state = .idle ∧ s.port.nextClient = none then { s with port := s.port.start c k }
  else { s with port := { s.port with waiting := setAt s.port.waiting c.index (some k) } }

/-- Every waiting request is withdrawn (R187, R189). -/
def Port.withdraw (p : Port) : Port := { p with waiting := Vector.replicate 6 none }

/-- The port drops MREQ and MLOCK and enters IDLE, its tenure ended (R184 to R187). -/
def Port.release (p : Port) : Port := { p with state := .idle, current := none }

/-! ### The words of a tenure (R182, R183) -/

/-- The words a tenure has when nothing faults: a read-modify-write has a write only when the value read meets its condition
(R183). -/
def tenureLength (k : TenureKind) (m : Memory) : Nat :=
  match k with
  | .read _ n => n
  | .write _ ws => ws.length
  | .modify a expect _ => if m.load (wordAddress a) = expect then 2 else 1

/-- The memory after the first `n` words of a tenure: a read-modify-write's second word is its write, made when the value read meets
its condition (R183). -/
def performWords (k : TenureKind) (n : Nat) (m : Memory) : Memory :=
  match k with
  | .read _ _ => m
  | .write a ws => m.writeBurst a (ws.take n)
  | .modify a expect put =>
    if 2 ≤ n ∧ m.load (wordAddress a) = expect then m.store (wordAddress a) put else m

/-- The word addresses that the first `n` words of a tenure store to (R183). -/
def storedTo (k : TenureKind) (n : Nat) (m : Memory) : List Nat :=
  match k with
  | .read _ _ => []
  | .write a ws => (List.range (min n ws.length)).map (burstAddress a)
  | .modify a expect _ => if 2 ≤ n ∧ m.load (wordAddress a) = expect then [wordAddress a] else []

/-- The tenure when `n` of its words are done; a read-modify-write then holds the value its first word has read (R182). -/
def Tenure.reach (t : Tenure) (n : Nat) (m : Memory) : Tenure :=
  let done := min n (tenureLength t.kind m)
  { t with
    done := done
    value := match t.kind with
      | .modify a _ _ => if done = 0 then none else some (m.load (wordAddress a))
      | .read _ _ => none
      | .write _ _ => none }

/-- The words read that a tenure hands to its client, as far as it has come (R183). -/
def Tenure.wordsRead (t : Tenure) (m : Memory) : List Word :=
  match t.kind with
  | .read a _ => m.readBurst a t.done
  | .write _ _ => []
  | .modify _ _ _ => t.value.toList

/-- Whether a tenure is a read-modify-write that has made its write (R183). -/
def Tenure.wrote (t : Tenure) : Bool :=
  match t.kind with
  | .modify _ expect _ => decide (2 ≤ t.done) && t.value == some expect
  | .read _ _ => false
  | .write _ _ => false

/-- The tenure under way with `n` of its words done: the word after them is in progress (R184). -/
def Tenure.underWay (t : Tenure) (n : Nat) (m : Memory) : Tenure := t.reach (min n (tenureLength t.kind m - 1)) m

/-- A number of words of an aborted tenure's end: of those not yet done at the abort only the word in progress completes (R187). -/
def Tenure.lastWord (t : Tenure) (n : Nat) : Nat := max t.done (min n (t.done + 1))

/-- The port with `n` words of a granted tenure done (R182). -/
def Port.reach (p : Port) (n : Nat) (m : Memory) : Port :=
  if p.state = .transferring then { p with current := p.current.map fun t => t.underWay n m } else p

/-- The tenure in hand when `n` of its words are done (R182). -/
def tenureAt (n : Nat) (s : Block) : Option Tenure := (s.port.reach n s.mem).current

/-- MREQ: asserted from the start of a tenure to its end (R184). -/
def mreqPin (p : Port) : Bool := p.state != .idle

/-- MLOCK: asserted through a granted read-modify-write (R184). -/
def mlockPin (p : Port) : Bool :=
  match p.state, p.current with
  | .transferring, some ⟨_, .modify _ _ _, _, _⟩ => true
  | _, _ => false

/-! ### Addresses of the post table (R170) -/

/-- The address of slot `i`'s word in the state row. -/
def stateWordAddress (a : Anchor) (i : Fin 32) : Word := a.postTable + BitVec.ofNat 32 (4 * i.val)

/-- The address of word `k`, 1 to 15, of slot `i`. -/
def bodyWordAddress (a : Anchor) (i : Fin 32) (k : Nat) : Word :=
  a.postTable + BitVec.ofNat 32 (4 * a.slots + 60 * i.val + 4 * (k - 1))

/-- The words of a slot that the part reads, 1 to 11 (R170). -/
abbrev requestWords : Nat := 11

/-- The words of slot `i`'s request as memory holds them. -/
def requestOf (a : Anchor) (i : Fin 32) (m : Memory) : List Word := m.readBurst (bodyWordAddress a i 1) requestWords

/-- A scan's step when the first `n` words of a tenure have been performed: a request not yet read has what the part itself has stored to
its words, and nothing else (R170; that the part's own stores reach it is notes/assumptions/34.md). -/
def ScanStep.withOwnStores (st : ScanStep) (a : Anchor) (k : TenureKind) (n : Nat) (m : Memory) : ScanStep :=
  match st with
  | .idle => .idle
  | .row words => .row words
  | .claim i rest taken => .claim i rest taken
  | .body i rest taken request =>
    .body i rest taken <| request.mapIdx fun j w =>
      let here := burstAddress (bodyWordAddress a i 1) j
      if here ∈ storedTo k n m then (performWords k n m).load here else w

/-- Slot states (R170). -/
def slotPosted : Word := 1
def slotTaken : Word := 2
def slotDone : Word := 3

/-! ### Completions (R175, R176) -/

/-- Whether slot `i` holds a place of the result queue, reserved or waiting to be written (R172, R175). -/
def holdsPlace (i : Fin 32) (s : Block) : Bool :=
  s.results.reserved.contains i || s.results.queue.any fun c => c.slot == i

/-- The free places of the result queue (R175). -/
def freePlaces (s : Block) : Nat := Config.resultPlaces - (s.results.queue.length + s.results.reserved.length)

/-- Reserves a place for a slot taken (R172). -/
def reservePlace (i : Fin 32) (s : Block) : Block :=
  { s with results := { s.results with reserved := s.results.reserved ++ [i] } }

/-- The burst that writes words 12 to 15 of the head's slot (R176). -/
def valuesBurst (a : Anchor) (c : Completion) : TenureKind :=
  .write (bodyWordAddress a c.slot 12) [BitVec.ofNat 32 c.code.code, c.v1, c.v2, c.v3]

/-- The burst that writes DONE to a slot's state word (R176). -/
def doneBurst (a : Anchor) (c : Completion) : TenureKind := .write (stateWordAddress a c.slot) [slotDone]

/-- An idle result writer starts on the head of the queue, while the engine is RUNNING or STOPPING (R176). -/
def startWriter (s : Block) : Block :=
  match s.results.writer, s.results.queue with
  | .idle, c :: _ =>
    if s.engine.state = .running ∨ s.engine.state = .stopping then
      ask .results (valuesBurst s.anchor c) { s with results := { s.results with writer := .values } }
    else s
  | _, _ => s

/-- A request from post slot `i` completes: its completion takes the place reserved for it and joins the tail of the result queue
(R175).  In HALTED it is discarded (R176); so is one whose reservation HALTED has removed (notes/assumptions/12.md). -/
def complete (i : Fin 32) (code : ResultCode) (v1 v2 v3 : Word) (s : Block) : Block :=
  let freed := { s with results := { s.results with reserved := s.results.reserved.erase i } }
  if s.results.reserved.contains i then
    if s.engine.state = .halted then freed
    else startWriter { freed with results := { freed.results with queue := freed.results.queue ++ [⟨i, code, v1, v2, v3⟩] } }
  else s

/-- A completion with result values 0. -/
def completePlain (i : Fin 32) (code : ResultCode) (s : Block) : Block := complete i code 0 0 0 s

/-- A completion goes where its origin says: a post slot's to the result queue, any other is discarded (R8). -/
def completeOrigin (o : Origin) (code : ResultCode) (v1 v2 : Word) (s : Block) : Block :=
  match o with
  | .post i => complete i code v1 v2 0 s
  | .trigger _ => s
  | .follow => s

/-! ### Places in the state -/

/-- The part with playback `p` replaced. -/
def setPlayback (p : Fin 8) (x : Playback) (s : Block) : Block := { s with playbacks := setAt s.playbacks p x }

/-- The part with playback `p` changed by `f`. -/
def modPlayback (p : Fin 8) (f : Playback → Playback) (s : Block) : Block := { s with playbacks := modAt s.playbacks p f }

/-- The part with line `l` changed by `f`. -/
def modLine (l : Fin 4) (f : Line → Line) (s : Block) : Block := { s with lines := modAt s.lines l f }

/-- The part with trigger `t` changed by `f`. -/
def modTrigger (t : Fin 8) (f : Trigger → Trigger) (s : Block) : Block := { s with triggers := modAt s.triggers t f }

/-- Playback `p`, line `l` and trigger `t` of the part. -/
def playbackOf (s : Block) (p : Fin 8) : Playback := getAt s.playbacks p
def lineOf (s : Block) (l : Fin 4) : Line := getAt s.lines l
def triggerOf (s : Block) (t : Fin 8) : Trigger := getAt s.triggers t

/-! ### When events are taken (notes/assumptions/1.md, 19.md) -/

/-- No reset is applied. -/
def live (s : Block) : Bool := s.engine.phase == .released

/-- No reset is applied and the clocks run (R99). -/
def clocked (s : Block) : Bool := live s && s.time.ready

/-- The answer of a command: the part after `f` when the event can fall in this state, and the part as it was when it cannot. -/
def answer (taken : Bool) (f : Block → Block) (s : State) : Host.Outcome State Fault Refusal :=
  .next { s with block := if taken then f s.block else s.block }

end Sys2Proof.Machine
end

