-- ==== Sys2Proof/Machine/Operands.lean ====
section
/-! DEFINITION. The operand forms: parameters of requests as their words give them (R174), and the records read from shared memory,
bit by bit (R181). -/

namespace Sys2Proof.Machine

/-! ### Fields of a word -/

/-- Bits `lo` to `lo + n − 1` of a word, as a number. -/
def field (w : Word) (lo n : Nat) : Nat := w.toNat / 2 ^ lo % 2 ^ n

/-- Word `k` of a list of words read; a list is always as long as its record. -/
def wordAt (ws : List Word) (k : Nat) : Word := ws[k]?.getD 0

/-! ### Parameters of requests (R174) -/

/-- A time, time override or bank parameter that may be absent: 0xFFFFFFFF means absent (R174). -/
def optionalWord (w : Word) : Option Nat := if w = 0xFFFFFFFF then none else some w.toNat

/-- A target below `n` (R174). -/
def target (n : Nat) (w : Word) : Option (Fin n) := if h : w.toNat < n then some ⟨w.toNat, h⟩ else none

/-- An optional time within 0 to 3,600,000 ms (R6, R16, R167). -/
def timeInRange (t : Option Nat) : Bool :=
  match t with
  | none => true
  | some n => n ≤ Config.maxTime

def lineModeOf (w : Word) : Option LineMode :=
  match w.toNat with
  | 0 => some .off
  | 1 => some .send
  | 2 => some .receive
  | 3 => some .loop
  | _ => none

def lineRateOf (w : Word) : Option LineRate :=
  match w.toNat with
  | 0 => some .slow
  | 1 => some .fast
  | _ => none

def flagOf (w : Word) : Option Bool :=
  match w.toNat with
  | 0 => some false
  | 1 => some true
  | _ => none

def lossActionOf (w : Word) : Option LossAction :=
  match w.toNat with
  | 0 => some .hold
  | 1 => some .clear
  | _ => none

/-- A parameter that must lie in `lo` to `hi`. -/
def ranged (w : Word) (lo hi : Nat) : Option Nat := if lo ≤ w.toNat ∧ w.toNat ≤ hi then some w.toNat else none

/-- The number of the first parameter out of range, or what the parameters say. -/
abbrev Checked (α : Type) := Except Nat α

/-- A parameter, or its number when it is out of range. -/
def orNumber {α : Type} (n : Nat) (x : Option α) : Checked α :=
  match x with
  | some v => .ok v
  | none => .error n

/-- The seven parameters of a SET LINE, checked in order; talkback is on only with SEND (R120). -/
def lineConfigOf (mode rate count talkback base timeout action : Word) : Checked LineConfig := do
  let m ← orNumber 1 (lineModeOf mode)
  let r ← orNumber 2 (lineRateOf rate)
  let n ← orNumber 3 (ranged count 1 256)
  let tb ← orNumber 4 (flagOf talkback)
  let b ← orNumber 5 (ranged base 0 1023)
  let t ← orNumber 6 (ranged timeout 100 5000)
  let a ← orNumber 7 (lossActionOf action)
  return ⟨m, r, n, tb && decide (m = .send), b, t, a⟩

def edgeSelectOf (w : Word) : Option EdgeSelect :=
  match w.toNat with
  | 0 => some .none
  | 1 => some .rising
  | 2 => some .falling
  | 3 => some .both
  | _ => none

def triggerActionOf (w : Word) : Option TriggerAction :=
  match w.toNat with
  | 0 => some .note
  | 1 => some .go
  | 2 => some .goNext
  | 3 => some .pause
  | 4 => some .resume
  | 5 => some .release
  | 6 => some .blackoutToggle
  | _ => none

/-- A time that may be absent, within its range. -/
def optionalTime (w : Word) : Option (Option Nat) := if timeInRange (optionalWord w) then some (optionalWord w) else none

/-- The seven parameters of a SET TRIGGER, checked in order (R167). -/
def triggerRecordOf (edge debounce action playback bank cue time : Word) : Checked TriggerRecord := do
  let e ← orNumber 1 (edgeSelectOf edge)
  let d ← orNumber 2 (ranged debounce 0 255)
  let a ← orNumber 3 (triggerActionOf action)
  let p ← orNumber 4 (target 8 playback)
  let b ← orNumber 5 (ranged bank 0 15)
  let c ← orNumber 6 (ranged cue 0 65535)
  let t ← orNumber 7 (optionalTime time)
  return ⟨e, d, a, p, b, c, t⟩

def pwmClockOf (w : Word) : Option PwmClock :=
  match w.toNat with
  | 0 => some .low
  | 1 => some .middle
  | 2 => some .high
  | _ => none

/-- A two-bit output mode field; 3 is out of range (R162). -/
def outputModeOf (n : Nat) : Option OutputMode :=
  match n with
  | 0 => some .off
  | 1 => some .pwm
  | 2 => some .switch
  | _ => none

/-- The mode field of output `k`: bits 2k and 2k + 1 (R174). -/
def modeField (modes : Word) (k : Nat) : Option OutputMode := outputModeOf (field modes (2 * k) 2)

/-- The first output whose mode field is out of range (R162). -/
def badMode (modes : Word) : Option Nat := (List.range 16).find? fun k => (modeField modes k).isNone

/-- The output configuration that the parameters of an accepted SET OUTPUTS form (R162). -/
def outputConfigOf (clock : PwmClock) (modes inverts : Word) : OutputConfig :=
  ⟨clock, Vector.ofFn fun k => (modeField modes k.val).getD .off, Vector.ofFn fun k => inverts.getLsbD k.val⟩

/-- Byte `k` of two words that pack bytes four to a word, the lowest byte first (R174). -/
def packedByte (w0 w1 : Word) (k : Nat) : Byte :=
  if k < 4 then BitVec.ofNat 8 (field w0 (8 * k) 8) else BitVec.ofNat 8 (field w1 (8 * (k - 4)) 8)

/-- The parameters of a QUERY, checked in order: address, code and count (R145). -/
def queryOf (slot : Fin 32) (address code count bytes0 bytes4 reply : Word) : Checked Query := do
  let a ← orNumber 1 (ranged address 0 65535)
  let c ← orNumber 2 (ranged code 0 255)
  let n ← orNumber 3 (ranged count 0 8)
  return ⟨slot, a, c, (List.range n).map (packedByte bytes0 bytes4), reply⟩

/-! ### Records in shared memory (R181) -/

/-- The checks of an anchor block of 21 words (R169). -/
def anchorOk (ws : List Word) : Bool :=
  decide ((wordAt ws 0).toNat = Config.anchorMark)
    && decide (4 ≤ (wordAt ws 2).toNat) && decide ((wordAt ws 2).toNat ≤ 32)
    && decide (1 ≤ (wordAt ws 4).toNat) && decide ((wordAt ws 4).toNat ≤ 16)

/-- The values an anchor block that passes sets (R169). -/
def anchorOf (ws : List Word) : Anchor :=
  ⟨wordAt ws 1, (wordAt ws 2).toNat, wordAt ws 3, (wordAt ws 4).toNat, ws.drop 5⟩

/-- Cue number and record offset of a directory word (R43, R181). -/
def directoryCue (w : Word) : Nat := field w 0 16
def directoryOffset (w : Word) : Nat := field w 16 16

def followModeOf (n : Nat) : Option FollowMode :=
  match n with
  | 0 => some .manual
  | 1 => some .auto
  | 2 => some .link
  | _ => none

/-- A cue header that passes the checks of R53, for the directory entry's number; none when it fails any of them. -/
def cueHeaderOf (number : Nat) (ws : List Word) : Option CueHeader :=
  let cue := field (wordAt ws 0) 0 16
  match followModeOf (field (wordAt ws 0) 16 8) with
  | none => none
  | some follow =>
    let h : CueHeader := ⟨cue, follow, (wordAt ws 1).toNat, (wordAt ws 2).toNat, (wordAt ws 3).toNat, (wordAt ws 4).toNat,
      (wordAt ws 5).toNat, (wordAt ws 6).toNat⟩
    if cue = number ∧ cue ≠ 0 ∧ cue ≠ 65535
        ∧ h.up ≤ Config.maxTime ∧ h.down ≤ Config.maxTime ∧ h.hold ≤ Config.maxTime ∧ h.delay ≤ Config.maxDelay
        ∧ h.count ≤ 1024 ∧ (follow = .link → 1 ≤ h.linkCue ∧ h.linkCue ≤ 65534)
    then some h else none

/-- A cue's entry word: level, channel, snap flag; none when the channel is 1024 or more (R55, R181). -/
def incomingOf (w : Word) : Option IncomingEntry :=
  if h : field w 16 15 < 1024 then some ⟨⟨field w 16 15, h⟩, field w 0 16, w.getLsbD 31⟩ else none

/-- A destination field of a patch record; none when it is out of range (R88, R181). -/
def destinationOf (f : Nat) : Option Destination :=
  let line := f / 2 ^ 8 % 2 ^ 3
  let slot := f % 2 ^ 8
  let width := f / 2 ^ 11 % 2 ^ 2
  let kind := f / 2 ^ 14 % 2 ^ 2
  if kind = 1 then
    if h : line < 4 ∧ slot < 256 then
      if width = 0 then some (.line ⟨line, h.1⟩ ⟨slot, h.2⟩ false)
      else if width = 1 ∧ slot ≤ 254 then some (.line ⟨line, h.1⟩ ⟨slot, h.2⟩ true)
      else none
    else none
  else if kind = 2 then
    if h : slot < 16 then some (.output ⟨slot, h⟩) else none
  else none

def mergeRuleOf (n : Nat) : Option MergeRule :=
  match n with
  | 0 => some .max
  | 1 => some .latest
  | _ => none

/-- Every value of a list of options, or none when one is missing. -/
def allSome {α : Type} : List (Option α) → Option (List α)
  | [] => some []
  | none :: _ => none
  | some x :: rest =>
    match allSome rest with
    | none => none
    | some xs => some (x :: xs)

/-- A patch record of three words, or none when it fails the checks of R88; destination fields beyond the count are not examined. -/
def patchRecordOf (w0 w1 w2 : Word) : Option PatchRecord :=
  let fields := [field w1 0 16, field w1 16 16, field w2 0 16, field w2 16 16]
  let count := field w0 24 4
  match mergeRuleOf (field w0 17 2) with
  | none => none
  | some rule =>
    if h : field w0 0 16 < 1024 ∧ field w0 20 4 < 8 then
      if count ≤ 4 then
        match allSome ((fields.take count).map destinationOf) with
        | some ds => some ⟨⟨field w0 0 16, h.1⟩, ⟨w0.getLsbD 16, rule, ⟨field w0 20 4, h.2⟩, ds⟩⟩
        | none => none
      else none
    else none

/-- The records of a patch list, three words each, in list order (R87). -/
def patchRecordsOf : List Word → List (Option PatchRecord)
  | w0 :: w1 :: w2 :: rest => patchRecordOf w0 w1 w2 :: patchRecordsOf rest
  | _ => []

/-- The address of a curve's or a list's word `k`. -/
def wordOffset (a : Word) (k : Nat) : Word := a + BitVec.ofNat 32 (4 * k)

end Sys2Proof.Machine
end

