-- ==== Sys2Proof/Machine/Fade.lean ====
section
/-! DEFINITION. Fade arithmetic: fade values, master values, the crossfade build and the release build, and the scene pool's counts
(02_scene_sets_and_fade_arithmetic.md). -/

namespace Sys2Proof.Machine

/-! ### Fade values (R37) -/

/-- The fade time: the paused value while PAUSED, and otherwise the time since the fade start (R37). -/
def FadeTiming.elapsed (tm : FadeTiming) (now : Time) : Int := tm.paused.getD (showDiff now tm.start)

/-- `start` plus the part `e / d` of the way to `goal`, truncated toward zero (R37). -/
def interpolate (start goal : Nat) (e : Int) (d : Nat) : Nat :=
  ((start : Int) + Int.tdiv (((goal : Int) - start) * e) d).toNat

/-- The duration of a fade class; SNAP has none (R37). -/
def FadeTiming.duration (tm : FadeTiming) : FadeClass → Nat
  | .up => tm.up
  | .down => tm.down
  | .snap => 0

/-- The fade value of a set entry (R37).  With a duration of 0, as SNAP has, the target holds from `e = 0`. -/
def fadeValue (tm : FadeTiming) (now : Time) (x : SetEntry) : Nat :=
  let e := tm.elapsed now - tm.delay
  let d := tm.duration x.fadeClass
  if e < 0 then x.start
  else if d = 0 ∨ (d : Int) ≤ e then x.target
  else interpolate x.start x.target e d

/-- The present value of a master or grand master fade record (R19, R77).  With duration 0 the target holds, at the start time too
(notes/assumptions/9.md). -/
def FadeRecord.value (r : FadeRecord) (now : Time) : Nat :=
  let e := showDiff now r.time
  if r.duration = 0 then r.target
  else if e ≤ 0 then r.start
  else if (r.duration : Int) ≤ e then r.target
  else interpolate r.start r.target e r.duration

/-- The record rewritten to fade from its present value to `level` over `time` (R18, R78). -/
def FadeRecord.rewrite (r : FadeRecord) (now : Time) (level time : Nat) : FadeRecord := ⟨r.value now, level, now, time⟩

/-- Whether a fade with a duration above 0 has reached it (R19, R77). -/
def FadeRecord.due (r : FadeRecord) (now : Time) : Bool :=
  decide (0 < r.duration) && decide ((r.duration : Int) ≤ showDiff now r.time)

/-- The settled record (R19, R77). -/
def FadeRecord.settle (r : FadeRecord) : FadeRecord := { r with start := r.target, duration := 0 }

/-- A playback's contribution: fade value times master, divided by 65535 and truncated (R39). -/
def contribution (fade master : Nat) : Nat := fade * master / Config.full

/-! ### Ordered collections (R28, R29) -/

/-- The set with an entry put in its channel's place, replacing the channel's entry if it has one (R28). -/
def putEntry (x : SetEntry) : List SetEntry → List SetEntry
  | [] => [x]
  | y :: ys =>
    if x.channel < y.channel then x :: y :: ys
    else if x.channel = y.channel then x :: ys
    else y :: putEntry x ys

/-- The incoming list with an entry put in its channel's place; a repeated channel replaces what is there (R29). -/
def putIncoming (x : IncomingEntry) : List IncomingEntry → List IncomingEntry
  | [] => [x]
  | y :: ys =>
    if x.channel < y.channel then x :: y :: ys
    else if x.channel = y.channel then x :: ys
    else y :: putIncoming x ys

/-- The entry of a set for a channel. -/
def entryOf (entries : List SetEntry) (c : Channel) : Option SetEntry := entries.find? fun x => x.channel == c

/-! ### The crossfade build (R33, R35) -/

/-- The new entry of a channel of the old set that is not in the incoming list: fading out from its present value (R33). -/
def leavingEntry (value : Nat) (x : SetEntry) : SetEntry :=
  { x with start := value, target := 0, fadeClass := if value = 0 then .up else .down, leaving := true }

/-- The new entry of a channel in the incoming list, from the level it starts at (R33). -/
def takenEntry (start stamp : Nat) (x : IncomingEntry) : SetEntry :=
  ⟨x.channel, start, x.level, if x.snap then .snap else if start ≤ x.level then .up else .down, stamp, false⟩

/-- The start level of a channel: the old entry's present value, or 0 (R33). -/
def startLevel (tm : FadeTiming) (now : Time) (old : List SetEntry) (c : Channel) : Nat :=
  match entryOf old c with
  | some x => fadeValue tm now x
  | none => 0

/-- The set a crossfade build makes of the old set and the incoming list (R33). -/
def crossfadeSet (tm : FadeTiming) (now : Time) (stamp : Nat) (old : List SetEntry) (incoming : List IncomingEntry) : List SetEntry :=
  incoming.foldl (fun acc x => putEntry (takenEntry (startLevel tm now old x.channel) stamp x) acc)
    (old.map fun x => leavingEntry (fadeValue tm now x) x)

/-- The largest duration among the fade classes present in a set (R35). -/
def longest (up down : Nat) (entries : List SetEntry) : Nat :=
  let has := fun c : FadeClass => entries.any fun x => x.fadeClass == c
  max (if has .up then up else 0) (if has .down then down else 0)

/-- The fade timing record a crossfade build writes (R35). -/
def crossfadeTiming (now : Time) (delay up down : Nat) (entries : List SetEntry) : FadeTiming :=
  ⟨now, delay, up, down, now + BitVec.ofNat 32 (delay + longest up down entries), none⟩

/-! ### The release build (R17, R36) -/

/-- An entry turned into one fading out by a release (R36). -/
def releasedEntry (value : Nat) (x : SetEntry) : SetEntry :=
  { x with start := value, target := 0, fadeClass := .down, leaving := true }

/-- The set a release build makes (R36). -/
def releaseSet (tm : FadeTiming) (now : Time) (old : List SetEntry) : List SetEntry :=
  old.map fun x => releasedEntry (fadeValue tm now x) x

/-- The fade timing record a release build writes; the up time stays (R17, R36). -/
def releaseTiming (tm : FadeTiming) (now : Time) (down : Nat) (old : List SetEntry) : FadeTiming :=
  ⟨now, 0, tm.up, down, if old.isEmpty then now else now + BitVec.ofNat 32 down, none⟩

/-! ### Fade end (R20) -/

/-- A settled entry: its start level is its target (R20, R28). -/
def settledEntry (x : SetEntry) : SetEntry := { x with start := x.target }

/-- The set a FADING to HOLDING fade end leaves: leaving entries removed, the rest settled (R20). -/
def settledSet (entries : List SetEntry) : List SetEntry := (entries.filter fun x => !x.leaving).map settledEntry

/-! ### The scene pool's counts (R27) -/

/-- Entries in a playback's use: its set, its incoming list and its reservation (R27). -/
def Playback.held (x : Playback) : Nat := x.entries.length + x.incoming.length + x.reservation

/-- Set entries, incoming entries and reservations of all playbacks (R27). -/
def poolHeld (s : Block) : Nat := (allPlaybacks.map fun p => (playbackOf s p).held).sum

/-- Entries awaiting landing (R27, R41). -/
def poolAwaiting (s : Block) : Nat := (s.mixer.held.map fun e => e.freed).sum

/-- The free count (R27). -/
def poolFree (s : Block) : Nat := Config.poolSize - (poolHeld s + poolAwaiting s)

/-! ### Edits (R40, R41) -/

/-- What the mixer reads of a playback (R40). -/
def Playback.view (x : Playback) : PlaybackView := ⟨x.entries, x.timing, x.master⟩

/-- A playback's change becomes an edit: it lands at once between passes, and is held during one, with the entries it frees
(R40, R41). -/
def edit (p : Fin 8) (freed : Nat) (s : Block) : Block :=
  let view := (playbackOf s p).view
  match s.mixer.pass with
  | none => { s with mixer := { s.mixer with views := setAt s.mixer.views p view } }
  | some _ => { s with mixer := { s.mixer with held := s.mixer.held ++ [⟨p, view, freed⟩] } }

/-- The mixer's views after held edits land in order (R40). -/
def landEdits (views : Vector PlaybackView 8) : List HeldEdit → Vector PlaybackView 8
  | [] => views
  | e :: rest => landEdits (setAt views e.playback e.view) rest

/-- The value of a playback's fade and follow timers (R1): armed to the fade end time while FADING or RELEASING, and to the follow
deadline while a follow is armed and the playback is not PAUSED. -/
def Playback.fadeTimer (x : Playback) : Option Time :=
  match x.fade with
  | .fading => some x.timing.fadeEnd
  | .releasing => some x.timing.fadeEnd
  | _ => none

def Playback.followTimer (x : Playback) : Option Time := if x.fade = .paused then none else x.follow

/-- Whether an armed timer has reached its time. -/
def timerDue (now : Time) (t : Option Time) : Bool :=
  match t with
  | some t => reached now t
  | none => false

end Sys2Proof.Machine
end

