-- ==== Sys2Proof/Machine/Playbacks.lean ====
section
/-! DEFINITION. The playback units and the loader queue they submit to (01_playbacks.md; R46 to R48).  The commands GO, GO NEXT, PAUSE,
RESUME, RELEASE and SET MASTER, the fade end, follow expiry and master settling have their meanings in Requests.lean and Timers.lean
over the operations here. -/

namespace Sys2Proof.Machine

/-! ### The loader queue (R46, R48) -/

/-- The base address of a bank (R43). -/
def bankBase (s : Block) (bank : Nat) : Word := s.anchor.banks[bank]?.getD 0

/-- Lock word values (R43). -/
def lockFree : Word := 0
def lockHost : Word := 1
def lockPart : Word := 2

/-- The loader's acquire of a bank's lock word (R49). -/
def acquireTenure (s : Block) (bank : Nat) : TenureKind := .modify (bankBase s bank) lockFree lockPart

/-- An IDLE loader takes the eligible job nearest the head: the job leaves the queue, its playback becomes READING, and the acquire
is requested (R48).  In HALTED no tenure is issued, so no job is taken (R60). -/
def takeLoadJob (s : Block) : Block :=
  if s.engine.state = .halted then s
  else match s.loader.current, s.loader.queue.find? fun j => !j.deferred with
  | none, some j =>
    let taken := { s with loader := { s.loader with
      queue := s.loader.queue.eraseP fun k => !k.deferred
      current := some ⟨j, .lock, false, false, none, none⟩ } }
    ask .loader (acquireTenure s j.bank) (modPlayback j.playback (fun x => { x with load := .reading }) taken)
  | _, _ => s

/-- A playback submits a load job: it joins the tail, the load state becomes WAITING, and an IDLE loader takes it (R9, R46). -/
def submitLoad (p : Fin 8) (bank : Nat) (search : Search) (s : Block) : Block :=
  let queued := { s with loader := { s.loader with queue := s.loader.queue ++ [⟨p, bank, search, 0, false⟩] } }
  takeLoadJob (modPlayback p (fun x => { x with load := .waiting }) queued)

/-! ### Fade end and follow (R20, R21, R22) -/

/-- The expiry of a follow timer: the follow is disarmed; with an empty queue an internal GO NEXT becomes the head, and otherwise the
follow is counted as superseded (R22).  The caller then serves the head. -/
def followEnd (p : Fin 8) (s : Block) : Block :=
  let x := playbackOf s p
  if x.queue.isEmpty then
    setPlayback p { x with follow := none, queue := [⟨.follow, .goNext none⟩] } s
  else { setPlayback p { x with follow := none } s with superseded := countUp s.superseded }

/-- A follow timer that has reached its deadline expires at once (R21, R102). -/
def followIfDue (p : Fin 8) (s : Block) : Block :=
  if timerDue s.time.clock (playbackOf s p).followTimer then followEnd p s else s

/-- The follow armed at a FADING to HOLDING fade end: the fade end time plus the hold time, for AUTO and LINK (R21). -/
def armedFollow (x : Playback) : Option Time :=
  match x.lastCue with
  | some c => if c.follow = .manual then none else some (x.timing.fadeEnd + BitVec.ofNat 32 c.hold)
  | none => none

/-- The playback after a FADING to HOLDING fade end (R20, R21). -/
def Playback.toHolding (x : Playback) : Playback :=
  { x with fade := .holding, entries := settledSet x.entries, follow := armedFollow x }

/-- The playback after a RELEASING to IDLE fade end (R20). -/
def Playback.toIdle (x : Playback) : Playback :=
  { x with fade := .idle, remembered := none, entries := [], timing := .cleared, follow := none }

/-- The fade end of a playback: FADING becomes HOLDING and arms its follow, RELEASING becomes IDLE; PLAYBACK is raised, and a follow
deadline already reached expires at once (R20, R21). -/
def fadeEnds (p : Fin 8) (s : Block) : Block :=
  let x := playbackOf s p
  match x.fade with
  | .fading =>
    followIfDue p (raiseInt .playback
      (edit p (x.entries.length - (settledSet x.entries).length) (setPlayback p x.toHolding s)))
  | .releasing => raiseInt .playback (edit p x.entries.length (setPlayback p x.toIdle s))
  | _ => s

/-- A fade timer that has reached its time expires at once, as part of the event that armed it (R102). -/
def fadeEndIfDue (p : Fin 8) (s : Block) : Block :=
  if timerDue s.time.clock (playbackOf s p).fadeTimer then fadeEnds p s else s

/-! ### Serving the head of a queue (R7) -/

/-- The head completes and leaves the queue (R7, R8). -/
def finishHead (p : Fin 8) (code : ResultCode) (v1 v2 : Word) (s : Block) : Block :=
  match (playbackOf s p).queue with
  | r :: rest => completeOrigin r.origin code v1 v2 (modPlayback p (fun x => { x with queue := rest }) s)
  | [] => s

/-- A PAUSE at the head (R14).  A time is given as a 32-bit word. -/
def servePause (p : Fin 8) (s : Block) : Block :=
  let x := playbackOf s p
  let now := s.time.clock
  let pausedAs := fun (r : Remembered) (v : Int) =>
    finishHead p .ok (BitVec.ofInt 32 v) 0
      (edit p 0 (setPlayback p { x with fade := .paused, remembered := some r, timing := { x.timing with paused := some v } } s))
  match x.fade, x.follow with
  | .fading, _ => pausedAs .fading (showDiff now x.timing.start)
  | .releasing, _ => pausedAs .releasing (showDiff now x.timing.start)
  | .holding, some t => pausedAs .holding (showDiff t now)
  | _, _ => finishHead p .badState 0 0 s

/-- The fade timing record after a RESUME to FADING or RELEASING: the fade start is now less the paused value, and the fade end time
keeps its distance from it (R15). -/
def FadeTiming.resumed (tm : FadeTiming) (now : Time) : FadeTiming :=
  let start := now - BitVec.ofInt 32 (tm.paused.getD 0)
  { tm with start := start, fadeEnd := tm.fadeEnd + (start - tm.start), paused := none }

/-- A RESUME at the head (R15).  A timer it arms to a time already reached expires after the RESUME has left the queue
(notes/assumptions/8.md). -/
def serveResume (p : Fin 8) (s : Block) : Block :=
  let x := playbackOf s p
  let now := s.time.clock
  let fades := fun (st : FadeState) =>
    fadeEndIfDue p (finishHead p .ok 0 0
      (edit p 0 (setPlayback p { x with fade := st, remembered := none, timing := x.timing.resumed now } s)))
  match x.fade, x.remembered with
  | .paused, some .fading => fades .fading
  | .paused, some .releasing => fades .releasing
  | .paused, some .holding =>
    followIfDue p (finishHead p .ok 0 0
      (edit p 0 (setPlayback p { x with
        fade := .holding
        remembered := none
        timing := { x.timing with paused := none }
        follow := some (now + BitVec.ofInt 32 (x.timing.paused.getD 0)) } s)))
  | _, _ => finishHead p .badState 0 0 s

/-- The bank and search a GO NEXT chooses from the last cue record (R12). -/
def nextTarget (last : Option LastCue) (bank : Option Nat) : Option (Nat × Search) :=
  match last, bank with
  | some c, _ => if c.follow = .link then some (c.bank, .exactly c.linkCue) else some (c.bank, .above c.cue)
  | none, some b => some (b, .first)
  | none, none => none

/-- A GO or GO NEXT at the head, with the target it chose: any armed follow is disarmed; without a target it completes CUE_MISSING, in
HALTED it completes BUS_FAULT, and otherwise its load job is submitted (R9, R12, R13, R25). -/
def serveLoad (p : Fin 8) (choice : Option (Nat × Search)) (s : Block) : Block :=
  let disarmed := modPlayback p (fun x => { x with follow := none }) s
  if s.engine.state = .halted then finishHead p .busFault 0 0 disarmed
  else match choice with
    | some (bank, search) => submitLoad p bank search disarmed
    | none => finishHead p .cueMissing 0 0 disarmed

/-- The head of a queue is served (R7). -/
def serveHead (p : Fin 8) (s : Block) : Block :=
  let x := playbackOf s p
  match x.queue with
  | [] => s
  | r :: _ =>
    match r.kind with
    | .go bank cue _ => serveLoad p (some (bank, .exactly cue)) s
    | .goNext bank => serveLoad p (nextTarget x.lastCue bank) s
    | .pause => servePause p s
    | .resume => serveResume p s

/-- Heads are served while the load state is NONE and the queue is not empty, at most `n` of them (R7). -/
def serveUpTo (n : Nat) (p : Fin 8) (s : Block) : Block :=
  match n with
  | 0 => s
  | n + 1 =>
    if (playbackOf s p).load = .none ∧ (playbackOf s p).queue ≠ [] then serveUpTo n p (serveHead p s) else s

/-- The playback serves its queue (R7).  Each head served leaves the queue or starts a load, and only the last one that leaves can let
a follow append one more, so the queue's length and two suffice. -/
def serve (p : Fin 8) (s : Block) : Block := serveUpTo ((playbackOf s p).queue.length + 2) p s

/-! ### Arrivals (R6, R16, R18) -/

/-- A trigger request that finds the queue full is dropped and counted; a post slot's completes QUEUE_FULL (R6). -/
def queueFull (o : Origin) (s : Block) : Block :=
  match o with
  | .post i => completePlain i .queueFull s
  | .trigger t => modTrigger t (fun g => { g with dropped := countUp g.dropped }) s
  | .follow => s

/-- The parameter check of a request that queues (R6). -/
def kindOk (bankCount : Nat) (k : QueuedKind) : Bool :=
  match k with
  | .go bank cue t => decide (bank < bankCount) && decide (1 ≤ cue) && decide (cue ≤ 65534) && timeInRange t
  | .goNext none => true
  | .goNext (some bank) => decide (bank < bankCount)
  | .pause => true
  | .resume => true

/-- A GO, GO NEXT, PAUSE or RESUME arrives: its parameters are checked, then the room, and a head just appended is served (R6, R7). -/
def arriveQueued (p : Fin 8) (o : Origin) (k : QueuedKind) (s : Block) : Block :=
  if kindOk s.anchor.bankCount k then
    if (playbackOf s p).queue.length < Config.queuePlaces then
      serve p (modPlayback p (fun x => { x with queue := x.queue ++ [⟨o, k⟩] }) s)
    else queueFull o s
  else completeOrigin o .badParam 0 0 s

/-- Requests behind the one in service, or all when none is in service (R16, R24). -/
def waitingRequests (x : Playback) : List QueuedRequest := if x.load = .none then x.queue else x.queue.drop 1

/-- The request in service, alone in the queue (R16, R24). -/
def inService (x : Playback) : List QueuedRequest := if x.load = .none then [] else x.queue.take 1

/-- Every listed request completes CANCELLED (R16, R24).  That they do so in queue order is the model's choice
(notes/assumptions/22.md). -/
def cancelRequests (rs : List QueuedRequest) (s : Block) : Block :=
  rs.foldl (fun t r => completeOrigin r.origin .cancelled 0 0 t) s

/-- The loader's current job gets its abandon mark, when it is playback `p`'s (R16, R59). -/
def markAbandoned (p : Fin 8) (s : Block) : Block :=
  match s.loader.current with
  | some c =>
    if c.job.playback = p then { s with loader := { s.loader with current := some { c with abandon := true } } } else s
  | none => s

/-- Step 2 of R16: a WAITING job leaves the loader queue and its request completes ABANDONED at once; a READING job is handed to the
loader to abandon. -/
def abandonLoad (p : Fin 8) (s : Block) : Block :=
  match (playbackOf s p).load with
  | .none => s
  | .waiting =>
    let removed := { s with loader := { s.loader with queue := s.loader.queue.filter fun j => j.playback != p } }
    finishHead p .abandoned 0 0 (modPlayback p (fun x => { x with load := .none }) removed)
  | .reading => markAbandoned p s

/-- Steps 1 and 2 of R16 and of R24: the waiting requests are cancelled and a load is abandoned. -/
def cancelAndAbandon (p : Fin 8) (s : Block) : Block :=
  let x := playbackOf s p
  abandonLoad p (cancelRequests (waitingRequests x) (setPlayback p { x with queue := inService x } s))

/-- The release time: the one given, or the last cue's down time (R17; notes/assumptions/27.md). -/
def releaseTime (x : Playback) (time : Option Nat) : Nat :=
  match time, x.lastCue with
  | some t, _ => t
  | none, some c => c.down
  | none, none => 0

/-- The release build (R17, R36). -/
def releaseBuild (p : Fin 8) (time : Option Nat) (s : Block) : Block :=
  let x := playbackOf s p
  let now := s.time.clock
  edit p 0 (setPlayback p { x with
    fade := .releasing
    remembered := none
    entries := releaseSet x.timing now x.entries
    timing := releaseTiming x.timing now (releaseTime x time) x.entries
    follow := none } s)

/-- A RELEASE arrives (R16, R17). -/
def arriveRelease (p : Fin 8) (o : Origin) (time : Option Nat) (s : Block) : Block :=
  if timeInRange time then
    let cleared := modPlayback p (fun x => { x with follow := none }) (cancelAndAbandon p s)
    if (playbackOf cleared p).fade = .idle then completeOrigin o .ok 0 0 cleared
    else
      completeOrigin o .ok (BitVec.ofNat 32 (playbackOf cleared p).entries.length) 0
        (fadeEndIfDue p (releaseBuild p time cleared))
  else completeOrigin o .badParam 0 0 s

/-- A SET MASTER arrives (R18). -/
def arriveSetMaster (p : Fin 8) (slot : Fin 32) (level time : Word) (s : Block) : Block :=
  if level.toNat ≤ Config.full ∧ time.toNat ≤ Config.maxTime then
    let x := playbackOf s p
    let now := s.time.clock
    complete slot .ok (BitVec.ofNat 32 (x.master.value now)) 0 0
      (edit p 0 (setPlayback p { x with master := x.master.rewrite now level.toNat time.toNat } s))
  else completePlain slot .badParam s

/-- The clearing of R24: queue, load, set, timers and last cue record; the master fade record is kept. -/
def clearPlayback (p : Fin 8) (s : Block) : Block :=
  let t := cancelAndAbandon p s
  let x := playbackOf t p
  edit p x.entries.length (setPlayback p { x with
    fade := .idle
    remembered := none
    entries := []
    timing := .cleared
    follow := none
    lastCue := none } t)

/-- Every playback is cleared, in ascending number (R193, R194). -/
def clearPlaybacks (s : Block) : Block := allPlaybacks.foldl (fun t p => clearPlayback p t) s

/-! ### The loader's reports (R10, R11, R16) -/

/-- The take stamp counter after a build (R32). -/
def nextStamp (n : Nat) : Nat := if n < Config.maxStamp then n + 1 else n

/-- The time override of the request in service (R9, R10). -/
def overrideOf (x : Playback) : Option Nat :=
  match x.queue with
  | ⟨_, .go _ _ t⟩ :: _ => t
  | _ => none

/-- The last cue record of a completed load (R3). -/
def CueHeader.lastCue (h : CueHeader) (bank : Nat) : LastCue := ⟨bank, h.cue, h.follow, h.linkCue, h.hold, h.down⟩

/-- The playback after the crossfade build of a completed load, its request still at the head (R10, R33 to R35). -/
def Playback.crossfaded (x : Playback) (now : Time) (stamp bank : Nat) (h : CueHeader) : Playback :=
  let entries := crossfadeSet x.timing now stamp x.entries x.incoming
  let up := (overrideOf x).getD h.up
  let down := (overrideOf x).getD h.down
  { x with
    fade := .fading
    remembered := none
    load := .none
    entries := entries
    incoming := []
    timing := crossfadeTiming now h.delay up down entries
    follow := none
    lastCue := some (h.lastCue bank) }

/-- The playback takes the loader's report of a completed load: the crossfade build, the completion, a fade end that is due, and then
the next head (R10). -/
def loadCompleted (p : Fin 8) (bank : Nat) (h : CueHeader) (s : Block) : Block :=
  let x := playbackOf s p
  let y := x.crossfaded s.time.clock s.mixer.takeStamp bank h
  let built := edit p (x.entries.length + x.incoming.length - y.entries.length)
    (setPlayback p y { s with mixer := { s.mixer with takeStamp := nextStamp s.mixer.takeStamp } })
  serve p (fadeEndIfDue p (finishHead p .ok (BitVec.ofNat 32 h.cue) (BitVec.ofNat 32 y.entries.length) built))

/-- The playback takes the report of a failed or abandoned load: load state NONE, the request completes with the code, and the next
head is served (R11, R16). -/
def loadEnded (p : Fin 8) (code : ResultCode) (s : Block) : Block :=
  serve p (finishHead p code 0 0 (modPlayback p (fun x => { x with load := .none }) s))

end Sys2Proof.Machine
end

