-- ==== Sys2Proof/Machine/Loader.lean ====
section
/-! DEFINITION. The cue loader: the stages of a job, its failures, its abandonment and its end at a halt
(03_cue_banks_and_the_cue_loader.md). -/

namespace Sys2Proof.Machine

/-- The part with the loader's current job replaced. -/
def setCurrent (c : CurrentLoad) (s : Block) : Block := { s with loader := { s.loader with current := some c } }

/-- The incoming list and the reservation of a playback return to free (R31). -/
def freeLoad (p : Fin 8) (s : Block) : Block := modPlayback p (fun x => { x with incoming := [], reservation := 0 }) s

/-- One more stuck lock (R58). -/
def countStuck (s : Block) : Block := { s with loader := { s.loader with stuck := countUp s.loader.stuck } }

/-- The current job ends: the loader is IDLE, the job's playback takes the report, and the next eligible job is taken (R48, R56,
R57). -/
def endJob (report : Block → Block) (s : Block) : Block :=
  takeLoadJob (report { s with loader := { s.loader with current := none } })

/-- The code with which a job that does not complete ends: ABANDONED whatever else happened, when it is abandoned (R59). -/
def endCode (c : CurrentLoad) (code : ResultCode) : ResultCode := if c.abandon then .abandoned else c.failed.getD code

/-- The current job ends without completing, and is reported. -/
def endUnfinished (c : CurrentLoad) (code : ResultCode) (s : Block) : Block :=
  endJob (loadEnded c.job.playback (endCode c code)) s

/-- The loader enters UNLOCK and asks for the release write of FREE (R56, R57). -/
def enterUnlock (c : CurrentLoad) (s : Block) : Block :=
  ask .loader (.write (bankBase s c.job.bank) [lockFree]) (setCurrent { c with stage := .unlock } s)

/-- The job fails with a code, or stops as abandoned: its list and reservation are freed, and a held lock is released before the end
is reported (R57, R59). -/
def failLoad (c : CurrentLoad) (code : ResultCode) (s : Block) : Block :=
  let freed := freeLoad c.job.playback s
  if c.lockHeld then enterUnlock { c with failed := some (c.failed.getD code) } freed
  else endUnfinished c code freed

/-- The loader asks for its next read of the job's bank, `words` words from word `k` of the bank, in the given stage. -/
def readBank (c : CurrentLoad) (stage : LoadStage) (k words : Nat) (s : Block) : Block :=
  ask .loader (.read (bankBase s c.job.bank + BitVec.ofNat 32 (4 * k)) words) (setCurrent { c with stage := stage } s)

/-! ### LOCK (R49, R50) -/

/-- The job is put back at the tail, deferred, with one more attempt (R50). -/
def putBack (c : CurrentLoad) (s : Block) : Block :=
  let job := { c.job with attempts := c.job.attempts + 1, deferred := true }
  let waiting := modPlayback c.job.playback (fun x => { x with load := .waiting }) s
  takeLoadJob { waiting with loader := { waiting.loader with queue := waiting.loader.queue ++ [job], current := none } }

/-- The end of the acquire, which read `value` (R49, R50, R59). -/
def lockDone (c : CurrentLoad) (value : Word) (s : Block) : Block :=
  if value = lockFree then
    let held := { c with lockHeld := true }
    if c.abandon then failLoad held .abandoned s else readBank held .seekCount 1 1 s
  else if c.abandon then failLoad c .abandoned s
  else if c.job.attempts < Config.lastAttempt then putBack c s
  else failLoad c .bankBusy s

/-! ### SEEK (R51, R52) -/

/-- Whether a search stops at a directory word (R51). -/
def stopsAt (search : Search) (w : Word) : Bool :=
  match search with
  | .exactly n => n ≤ directoryCue w
  | .above n => n < directoryCue w
  | .first => true

/-- Whether a search that stopped at a word has found its cue (R51). -/
def foundAt (search : Search) (w : Word) : Bool :=
  match search with
  | .exactly n => directoryCue w == n
  | .above _ => true
  | .first => true

/-- Words of the next burst when `rest` words remain (R51, R55, R87, R93). -/
def burstLength (rest : Nat) : Nat := min Config.burst rest

/-- The cue count has been read (R51). -/
def countRead (c : CurrentLoad) (n : Nat) (s : Block) : Block :=
  if Config.maxCues < n then failLoad c .badCue s
  else if n = 0 then failLoad c .cueMissing s
  else readBank c (.seekDirectory n 0) 2 (burstLength n) s

/-- A directory burst has been read: the search stops, goes on with the next burst, or has reached the end (R51, R52). -/
def directoryRead (c : CurrentLoad) (count position : Nat) (words : List Word) (s : Block) : Block :=
  match words.find? (stopsAt c.job.search) with
  | some w =>
    if foundAt c.job.search w then
      if directoryOffset w < 2 + count then failLoad c .badCue s
      else readBank c (.header (directoryCue w) (directoryOffset w) count) (directoryOffset w) 8 s
    else failLoad c .cueMissing s
  | none =>
    let next := position + words.length
    if next < count then readBank c (.seekDirectory count next) (2 + next) (burstLength (count - next)) s
    else failLoad c .cueMissing s

/-! ### HEADER and ENTRIES (R53 to R55) -/

/-- The header has been read: it is checked, and its entries are reserved (R30, R53, R54). -/
def headerRead (c : CurrentLoad) (number offset : Nat) (words : List Word) (s : Block) : Block :=
  match cueHeaderOf number words with
  | none => failLoad c .badCue s
  | some h =>
    if h.count ≤ poolFree s then
      let kept := { c with header := some h }
      let reserved := modPlayback c.job.playback (fun x => { x with reservation := h.count }) s
      if h.count = 0 then enterUnlock kept reserved
      else readBank kept (.entries offset 0) (offset + 8) (burstLength h.count) reserved
    else failLoad c .noRoom s

/-- An entry is inserted into a playback's incoming list: a new channel uses a reserved entry (R29). -/
def insertIncoming (x : Playback) (e : IncomingEntry) : Playback :=
  { x with
    incoming := putIncoming e x.incoming
    reservation := if x.incoming.any fun y => y.channel == e.channel then x.reservation else x.reservation - 1 }

/-- The entries of a burst are inserted in the order read, up to the first whose channel is out of range; the flag says that there
was none (R55). -/
def takeEntries (x : Playback) : List Word → Playback × Bool
  | [] => (x, true)
  | w :: rest =>
    match incomingOf w with
    | some e => takeEntries (insertIncoming x e) rest
    | none => (x, false)

/-- An entry burst has been read: it holds no more entries than remain (R55). -/
def entriesRead (c : CurrentLoad) (offset position : Nat) (words : List Word) (s : Block) : Block :=
  let count := (c.header.map CueHeader.count).getD 0
  let taken := takeEntries (playbackOf s c.job.playback) (words.take (count - position))
  let filled := setPlayback c.job.playback taken.1 s
  let next := position + words.length
  if taken.2 then
    if next < count then readBank c (.entries offset next) (offset + 8 + next) (burstLength (count - next)) filled
    else enterUnlock c filled
  else failLoad c .badCue filled

/-! ### UNLOCK (R56) -/

/-- The release write has ended without a fault: the job is reported completed, failed or abandoned (R56, R57, R59). -/
def unlockDone (c : CurrentLoad) (s : Block) : Block :=
  match c.abandon, c.failed, c.header with
  | false, none, some h =>
    endJob (loadCompleted c.job.playback c.job.bank h)
      (modPlayback c.job.playback (fun x => { x with reservation := 0 }) s)
  | _, _, _ => endUnfinished c .abandoned (freeLoad c.job.playback s)

/-! ### What a tenure's end does (R49 to R59) -/

/-- A tenure of the current job has ended Done, with the words read.  An abandoned job stops in whatever stage it stands (R59). -/
def loaderDone (words : List Word) (s : Block) : Block :=
  match s.loader.current with
  | none => s
  | some c =>
    match c.stage with
    | .lock => lockDone c (wordAt words 0) s
    | .unlock => unlockDone c s
    | .seekCount => if c.abandon then failLoad c .abandoned s else countRead c (wordAt words 0).toNat s
    | .seekDirectory count position =>
      if c.abandon then failLoad c .abandoned s else directoryRead c count position words s
    | .header number offset _ => if c.abandon then failLoad c .abandoned s else headerRead c number offset words s
    | .entries offset position => if c.abandon then failLoad c .abandoned s else entriesRead c offset position words s

/-- A tenure of the current job has faulted; `read` says that a read-modify-write had read its value, FREE, before its write faulted
(R58).  A lock given up counts as stuck. -/
def loaderFault (read : Bool) (s : Block) : Block :=
  match s.loader.current with
  | none => s
  | some c =>
    match c.stage with
    | .lock => endUnfinished c .busFault (freeLoad c.job.playback (if read then countStuck s else s))
    | .unlock => endUnfinished c .busFault (freeLoad c.job.playback (countStuck s))
    | .seekCount => failLoad c .busFault s
    | .seekDirectory _ _ => failLoad c .busFault s
    | .header _ _ _ => failLoad c .busFault s
    | .entries _ _ => failLoad c .busFault s

/-! ### HALTED (R60) -/

/-- Queued jobs end BUS_FAULT in queue order, on entry into HALTED (R60). -/
def haltJobs (jobs : List LoadJob) (s : Block) : Block := jobs.foldl (fun t j => loadEnded j.playback .busFault t) s

/-- The current job ends on entry into HALTED: a lock it holds is given up as stuck, and it ends ABANDONED or BUS_FAULT (R60). -/
def haltCurrent (s : Block) : Block :=
  match s.loader.current with
  | none => s
  | some c =>
    let counted := if c.lockHeld then countStuck s else s
    loadEnded c.job.playback (if c.abandon then .abandoned else .busFault)
      (freeLoad c.job.playback { counted with loader := { counted.loader with current := none } })

/-- The loader's end on entry into HALTED (R60). -/
def loaderHalt (s : Block) : Block :=
  haltCurrent (haltJobs s.loader.queue { s with loader := { s.loader with queue := [] } })

/-- A frame boundary clears every deferred mark, and an IDLE loader takes the eligible job nearest the head (R47, R48). -/
def loaderBoundary (s : Block) : Block :=
  takeLoadJob { s with loader := { s.loader with queue := s.loader.queue.map fun j => { j with deferred := false } } }

end Sys2Proof.Machine
end

