-- ==== Sys2Proof/Machine/Tables.lean ====
section
/-! DEFINITION. The table loader and the installs of patch and curves (05_patch_table_and_response_curves.md). -/

namespace Sys2Proof.Machine

/-! ### The slot owner map (R83) -/

/-- The elements a destination occupies (R83); a 16-bit one never starts at slot 255 (R82). -/
def Destination.elements : Destination → List Element
  | .line l slot wide => .slot l slot :: if wide then [.slot l (Fin.ofNat 256 (slot.val + 1))] else []
  | .output n => [.output n]

/-- The channel that an element names. -/
def OwnerMap.owner (m : OwnerMap) : Element → Option Channel
  | .slot l slot => getAt (getAt m.slots l) slot
  | .output n => getAt m.outputs n

/-- The map with one element changed. -/
def OwnerMap.put (m : OwnerMap) (c : Option Channel) : Element → OwnerMap
  | .slot l slot => { m with slots := modAt m.slots l fun v => setAt v slot c }
  | .output n => { m with outputs := setAt m.outputs n c }

/-- The map with the elements of a list of destinations changed. -/
def OwnerMap.putAll (m : OwnerMap) (c : Option Channel) (ds : List Destination) : OwnerMap :=
  (ds.flatMap Destination.elements).foldl (fun acc e => acc.put c e) m

/-! ### The checks of a PATCH list (R88, R89) -/

/-- The list's records with their indexes. -/
def indexed {α : Type} (xs : List α) : List (Nat × α) := (List.range xs.length).zip xs

/-- The first record of a list that fails the range check (R88). -/
def firstBad (records : List (Option PatchRecord)) : Option Nat := records.findIdx? Option.isNone

/-- The records that stand: the last of each channel, in list order, with their indexes (R89). -/
def standing : List (Nat × PatchRecord) → List (Nat × PatchRecord)
  | [] => []
  | r :: rest => if rest.any fun q => q.2.channel == r.2.channel then standing rest else r :: standing rest

/-- A destination to be claimed: the index of its record, its channel and itself (R89). -/
def claimsOf (replacements : List (Nat × PatchRecord)) : List (Nat × Channel × Destination) :=
  replacements.flatMap fun r => r.2.entry.destinations.map fun d => (r.1, r.2.channel, d)

/-- The channel that holds an element against a claim: one visited earlier, or an installed owner that is not replaced (R89). -/
def holderOf (m : OwnerMap) (replaced : Channel → Bool) (visited : List (Element × Channel)) (e : Element) : Option Channel :=
  match visited.find? fun v => v.1 == e with
  | some v => some v.2
  | none => (m.owner e).filter fun c => !replaced c

/-- The first claim that fails, as its record's index and the channel that holds the element (R89); of a 16-bit destination's two
elements the lower is looked at first (notes/assumptions/30.md). -/
def firstClash (m : OwnerMap) (replaced : Channel → Bool) :
    List (Element × Channel) → List (Nat × Channel × Destination) → Option (Nat × Channel)
  | _, [] => none
  | visited, (k, c, d) :: rest =>
    match d.elements.findSome? (holderOf m replaced visited) with
    | some holder => some (k, holder)
    | none => firstClash m replaced (visited ++ d.elements.map fun e => (e, c)) rest

/-- The second check of a list whose records have passed the first (R89). -/
def claimCheck (m : OwnerMap) (replacements : List (Nat × PatchRecord)) : Option (Nat × Channel) :=
  firstClash m (fun c => replacements.any fun r => r.2.channel == c) [] (claimsOf replacements)

/-! ### The reader (R84 to R87, R93, R94) -/

/-- The shadow of a curve. -/
def shadowOf (s : Block) (k : Fin 7) : Shadow := getAt s.tables.shadows k

/-- The part with a curve's shadow replaced. -/
def setShadow (k : Fin 7) (x : Shadow) (s : Block) : Block :=
  { s with tables := { s.tables with shadows := setAt s.tables.shadows k x } }

/-- The part with the patch staging replaced. -/
def setStaging (x : Staging) (s : Block) : Block := { s with tables := { s.tables with staging := x } }

/-- Points of a curve (R91). -/
def curvePoints : Nat := 65

/-- The request that owns a READY shadow completes with a code; the shadow becomes EMPTY by what follows (R94, R97, R98). -/
def endShadow (x : Shadow) (code : ResultCode) (s : Block) : Block :=
  match x with
  | .ready owner _ => completePlain owner code s
  | .filling _ => s
  | .empty => s

/-- The request that owns a READY staging completes with a code (R97, R98). -/
def endStaging (x : Staging) (code : ResultCode) (s : Block) : Block :=
  match x with
  | .ready owner _ => completePlain owner code s
  | .filling _ => s
  | .empty => s

/-- The reader begins a job: its staging or shadow is FILLING, a READY shadow of the same curve is superseded, and the first burst
is asked for (R86, R87, R93, R94). -/
def beginTable (j : TableJob) (s : Block) : Block :=
  match j with
  | .patch _ address count => ask .tables (.read address (burstLength (3 * count))) (setStaging (.filling []) s)
  | .curve _ k address =>
    ask .tables (.read address (burstLength curvePoints)) (setShadow k (.filling []) (endShadow (shadowOf s k) .cancelled s))

/-- Whether a job can start: a PATCH needs an EMPTY staging (R86). -/
def canStart (j : TableJob) (staging : Staging) : Bool :=
  match j with
  | .patch _ _ _ => staging == .empty
  | .curve _ _ _ => true

/-- An IDLE reader takes the head job when it can start (R86).  In HALTED no tenure is issued, so none is taken (R98). -/
def takeTableJob (s : Block) : Block :=
  if s.engine.state = .halted then s
  else match s.tables.reader, s.tables.queue with
  | none, j :: rest =>
    if canStart j s.tables.staging then
      beginTable j { s with tables := { s.tables with queue := rest, reader := some j } }
    else s
  | _, _ => s

/-- A job joins the tail of the queue, or completes QUEUE_FULL (R85). -/
def submitTable (slot : Fin 32) (j : TableJob) (s : Block) : Block :=
  if s.tables.queue.length < Config.queuePlaces then
    takeTableJob { s with tables := { s.tables with queue := s.tables.queue ++ [j] } }
  else completePlain slot .queueFull s

/-- A PATCH arrives (R85). -/
def arrivePatch (slot : Fin 32) (address count : Word) (s : Block) : Block :=
  match ranged count 1 1024 with
  | some n => submitTable slot (.patch slot address n) s
  | none => completePlain slot .badParam s

/-- A LOAD CURVE arrives (R85). -/
def arriveCurve (slot : Fin 32) (curve address : Word) (s : Block) : Block :=
  if h : 1 ≤ curve.toNat ∧ curve.toNat ≤ 7 then
    submitTable slot (.curve slot ⟨curve.toNat - 1, by omega⟩ address) s
  else completePlain slot .badTarget s

/-- The reader returns to IDLE and takes the next head that can start (R86). -/
def readerIdle (s : Block) : Block := takeTableJob { s with tables := { s.tables with reader := none } }

/-- The staging or shadow that a job is filling becomes EMPTY. -/
def emptyFilling (j : TableJob) (s : Block) : Block :=
  match j with
  | .patch _ _ _ => setStaging .empty s
  | .curve _ k _ => setShadow k .empty s

/-- The post slot of a table job. -/
def TableJob.slot : TableJob → Fin 32
  | .patch slot _ _ => slot
  | .curve slot _ _ => slot

/-- The current job ends with a code and two values, and nothing is handed over (R87, R93, R96, R97). -/
def failTable (j : TableJob) (code : ResultCode) (v1 v2 : Word) (s : Block) : Block :=
  readerIdle (complete j.slot code v1 v2 0 (emptyFilling j s))

/-- A whole PATCH list has been read: it is validated, and refused or handed over (R87 to R89). -/
def validatePatch (slot : Fin 32) (j : TableJob) (words : List Word) (s : Block) : Block :=
  let records := patchRecordsOf words
  match firstBad records with
  | some k => failTable j .badParam (BitVec.ofNat 32 k) 0 s
  | none =>
    let replacements := standing (indexed (records.filterMap id))
    match claimCheck s.mixer.owners replacements with
    | some (k, holder) => failTable j .slotTaken (BitVec.ofNat 32 k) (BitVec.ofNat 32 holder.val) s
    | none => readerIdle (setStaging (.ready slot (replacements.map Prod.snd)) s)

/-- A burst of a PATCH list has been read (R87). -/
def patchRead (j : TableJob) (slot : Fin 32) (address : Word) (count : Nat) (words : List Word) (s : Block) : Block :=
  let all := (match s.tables.staging with | .filling ws => ws | _ => []) ++ words
  if all.length < 3 * count then
    ask .tables (.read (wordOffset address all.length) (burstLength (3 * count - all.length))) (setStaging (.filling all) s)
  else validatePatch slot j all s

/-- A burst of a curve has been read (R93). -/
def curveRead (j : TableJob) (slot : Fin 32) (k : Fin 7) (address : Word) (words : List Word) (s : Block) : Block :=
  let all := (match shadowOf s k with | .filling ps => ps | _ => []) ++ words.map BitVec.toNat
  match all.findIdx? fun p => decide (Config.full < p) with
  | some i => failTable j .badParam (BitVec.ofNat 32 i) 0 s
  | none =>
    if all.length < curvePoints then
      ask .tables (.read (wordOffset address all.length) (burstLength (curvePoints - all.length))) (setShadow k (.filling all) s)
    else readerIdle (setShadow k (.ready slot all) s)

/-- A tenure of the reader has ended Done (R87, R93); an abandoned job ends ABANDONED (R97).  A current job is abandoned exactly when
the engine is STOPPING, since no job is taken there and STOPPED is entered only with the reader IDLE. -/
def tablesDone (words : List Word) (s : Block) : Block :=
  match s.tables.reader with
  | none => s
  | some j =>
    if s.engine.state = .stopping then failTable j .abandoned 0 0 s
    else match j with
      | .patch slot address count => patchRead j slot address count words s
      | .curve slot k address => curveRead j slot k address words s

/-- A tenure of the reader has faulted: the job fails BUS_FAULT, or ends ABANDONED in STOPPING (R96, R97). -/
def tablesFault (s : Block) : Block :=
  match s.tables.reader with
  | none => s
  | some j => failTable j (if s.engine.state = .stopping then .abandoned else .busFault) 0 0 s

/-! ### STOPPING and HALTED (R97, R98) -/

/-- The numbers of the curve shadows. -/
def allShadows : List (Fin 7) := [0, 1, 2, 3, 4, 5, 6]

/-- Queued jobs and READY staging and shadows end with a code; a FILLING one stays (R97, R98).  The jobs complete in queue order; that
the staging's request comes next and the shadows' follow in ascending curve number is the model's choice
(notes/assumptions/22.md). -/
def endTables (code : ResultCode) (s : Block) : Block :=
  let jobs := s.tables.queue.foldl (fun t j => completePlain j.slot code t) { s with tables := { s.tables with queue := [] } }
  let keep := fun x : Staging => match x with | .filling ws => Staging.filling ws | _ => .empty
  let keepShadow := fun x : Shadow => match x with | .filling ps => Shadow.filling ps | _ => .empty
  let staged := setStaging (keep s.tables.staging) (endStaging s.tables.staging code jobs)
  allShadows.foldl (fun t k => setShadow k (keepShadow (shadowOf s k)) (endShadow (shadowOf s k) code t)) staged

/-- The table loader's end on entry into STOPPING: the current job, if any, goes on to the end of its tenure (R97). -/
def tablesStop (s : Block) : Block := endTables .cancelled s

/-- The table loader's end on entry into HALTED: every job and what is READY end BUS_FAULT, and each staging and shadow becomes EMPTY
(R98). -/
def tablesHalt (s : Block) : Block :=
  let ended := endTables .busFault s
  let reader := match s.tables.reader with
    | none => ended
    | some j => completePlain j.slot .busFault ended
  { reader with tables := .idle }

/-! ### Installs at a pass start (R90, R95) -/

/-- The owner map after an install: the old destinations of every replaced channel are given up, then the new ones are taken
(R90, notes/assumptions/31.md). -/
def installedOwners (patch : Vector PatchEntry 1024) (m : OwnerMap) (list : List PatchRecord) : OwnerMap :=
  list.foldl (fun acc r => acc.putAll (some r.channel) r.entry.destinations)
    (list.foldl (fun acc r => acc.putAll none (getAt patch r.channel).destinations) m)

/-- The patch table after an install (R90). -/
def installedPatch (patch : Vector PatchEntry 1024) (list : List PatchRecord) : Vector PatchEntry 1024 :=
  list.foldl (fun acc r => setAt acc r.channel r.entry) patch

/-- How many destinations the replaced channels now hold in all (R90). -/
def destinationCount (list : List PatchRecord) : Nat := (list.map fun r => r.entry.destinations.length).sum

/-- A READY patch staging is installed (R90). -/
def installPatch (s : Block) : Block :=
  match s.tables.staging with
  | .ready owner list =>
    let put := { s with mixer := { s.mixer with
      patch := installedPatch s.mixer.patch list
      owners := installedOwners s.mixer.patch s.mixer.owners list } }
    complete owner .ok (BitVec.ofNat 32 list.length) (BitVec.ofNat 32 (destinationCount list)) 0 (setStaging .empty put)
  | _ => s

/-- A READY shadow of curve `k + 1` is installed (R95). -/
def installCurve (k : Fin 7) (s : Block) : Block :=
  match shadowOf s k with
  | .ready owner points =>
    complete owner .ok (BitVec.ofNat 32 (k.val + 1)) 0 0
      (setShadow k .empty { s with mixer := { s.mixer with curves := setAt s.mixer.curves k points } })
  | _ => s

/-- Everything the table loader has handed over is installed, and a PATCH that waits for the staging can then start (R65, R86, R90,
R95).  The staging's PATCH completes before the curves' requests, by number (notes/assumptions/22.md). -/
def installTables (s : Block) : Block :=
  takeTableJob (allShadows.foldl (fun t k => installCurve k t) (installPatch s))

end Sys2Proof.Machine
end

