-- ==== Sys2Proof/Machine/Images.lean ====
section
/-! DEFINITION. The frame store's two images and the computation of one image by a pass (04_the_mixer_and_the_frame_store.md, R66 to
R72; R92). -/

namespace Sys2Proof.Machine

/-! ### The two images (R72) -/

/-- The presented image. -/
def FrameStore.presented (f : FrameStore) : Image := if f.aPresented then f.a else f.b

/-- The working image. -/
def FrameStore.working (f : FrameStore) : Image := if f.aPresented then f.b else f.a

/-- The frame store with the working image rewritten. -/
def FrameStore.putWorking (f : FrameStore) (x : Image) : FrameStore := if f.aPresented then { f with b := x } else { f with a := x }

/-- The presented byte of a line's slot (R76). -/
def slotByte (s : Block) (l : Fin 4) (slot : Fin 256) : Byte := getAt (getAt s.store.presented.slots l) slot

/-! ### Curves (R92) -/

/-- A point of a curve; a curve has 65. -/
def curvePoint (points : List Nat) (i : Nat) : Nat := points[i]?.getD 0

/-- A level passed through a curve (R92). -/
def curveValue (points : List Nat) (level : Nat) : Nat :=
  interpolate (curvePoint points (level / 1024)) (curvePoint points (level / 1024 + 1)) (level % 1024 : Nat) 1024

/-- The points of a curve by number; curve 0 is fixed (R91). -/
def curveOf (m : Mixer) (k : Fin 8) : List Nat :=
  if h : k.val = 0 then curveZero else getAt m.curves ⟨k.val - 1, by omega⟩

/-! ### One channel (R68 to R71) -/

/-- A playback that holds a channel: its contribution and its entry's stamp (R39, R68). -/
structure Holder where
  contribution : Nat
  stamp : Nat
  deriving DecidableEq, Repr

/-- What a playback, as the pass reads it, gives to a channel. -/
def holderIn (now : Time) (c : Channel) (v : PlaybackView) : Option Holder :=
  (entryOf v.entries c).map fun x => ⟨contribution (fadeValue v.timing now x) (v.master.value now), x.stamp⟩

/-- The holders of a channel, in ascending playback number (R68). -/
def holdersOf (now : Time) (views : Vector PlaybackView 8) (c : Channel) : List Holder :=
  allPlaybacks.filterMap fun p => holderIn now c (getAt views p)

/-- The largest of a list of values, 0 for none. -/
def largest (xs : List Nat) : Nat := xs.foldl max 0

/-- The holder with the largest stamp, the earliest among equals (R68). -/
def latestHolder : List Holder → Option Holder
  | [] => none
  | h :: rest =>
    match latestHolder rest with
    | none => some h
    | some g => if h.stamp < g.stamp then some g else some h

/-- The playback value of a channel (R68). -/
def playbackValue (rule : MergeRule) (holders : List Holder) : Nat :=
  match rule with
  | .max => largest (holders.map Holder.contribution)
  | .latest => ((latestHolder holders).map Holder.contribution).getD 0

/-- What an input layer gives to a channel, when it maps a slot to it (R69). -/
def inputOf (c : Channel) (v : InputView) : Option Nat :=
  if h : v.base ≤ c.val ∧ c.val - v.base < 256 then some ((getAt v.bytes ⟨c.val - v.base, h.2⟩).toNat * 257) else none

/-- The input value of a channel (R69). -/
def inputValue (inputs : List InputView) (c : Channel) : Nat := largest (inputs.filterMap (inputOf c))

/-- The level before the grand master (R70). -/
def mergedLevel (rule : MergeRule) (holders : List Holder) (input : Nat) : Nat :=
  match rule with
  | .max => max (playbackValue .max holders) input
  | .latest => if holders.isEmpty then input else playbackValue .latest holders

/-- The level a pass stores for a channel (R70). -/
def channelLevel (m : Mixer) (latch : PassLatch) (c : Channel) : Nat :=
  let entry := getAt m.patch c
  let level := mergedLevel entry.merge (holdersOf latch.time m.views c) (inputValue latch.inputs c)
  if entry.intensity then level * latch.grand / Config.full else level

/-- The output value of a channel (R71). -/
def outputValue (m : Mixer) (latch : PassLatch) (c : Channel) : Nat :=
  let entry := getAt m.patch c
  if entry.intensity && latch.blackout then 0 else curveValue (curveOf m entry.curve) (channelLevel m latch c)

/-! ### Destinations (R71) -/

/-- The byte that an output value gives to a slot through a line destination: its upper byte, and in the second slot of a 16-bit pair
its lower one (R71). -/
def destinationByte (v : Nat) (l : Fin 4) (slot : Fin 256) (d : Destination) : Option Byte :=
  match d with
  | .line l' slot' wide =>
    if l' = l ∧ slot' = slot then some (BitVec.ofNat 8 (v / 256))
    else if l' = l ∧ wide = true ∧ slot'.val + 1 = slot.val then some (BitVec.ofNat 8 (v % 256))
    else none
  | .output _ => none

/-- The slot byte a pass writes: 0 for a slot that no channel drives (R71, R83). -/
def imageSlot (m : Mixer) (latch : PassLatch) (l : Fin 4) (slot : Fin 256) : Byte :=
  match m.owners.owner (.slot l slot) with
  | none => 0
  | some c => ((getAt m.patch c).destinations.findSome? (destinationByte (outputValue m latch c) l slot)).getD 0

/-- The local output value a pass writes: 0 for an output that no channel drives (R71, R83). -/
def imageOutput (m : Mixer) (latch : PassLatch) (n : Fin 16) : Nat :=
  match m.owners.owner (.output n) with
  | none => 0
  | some c => outputValue m latch c

/-- The image a pass computes (R66 to R71). -/
def imageOf (m : Mixer) (latch : PassLatch) : Image where
  levels := Vector.ofFn fun c => channelLevel m latch c
  slots := Vector.ofFn fun l => Vector.ofFn fun slot => imageSlot m latch l slot
  outputs := Vector.ofFn fun n => imageOutput m latch n

end Sys2Proof.Machine
end

