-- ==== Sys2Proof/Machine/Outputs.lean ====
section
/-! DEFINITION. The local output unit (10_local_outputs_and_trigger_inputs.md, R158 to R162). -/

namespace Sys2Proof.Machine

/-- A pending output configuration installed, when there is one (R159). -/
def LocalOutputs.install (o : LocalOutputs) : LocalOutputs :=
  match o.pending with
  | some c => { o with config := c, pending := none }
  | none => o

/-- The outputs whose load flag is set take their values from the presented image (R159, R161). -/
def LocalOutputs.loadFrom (o : LocalOutputs) (image : Image) : LocalOutputs :=
  { o with
    compare := Vector.ofFn fun n => if getAt o.load n then getAt image.outputs n else getAt o.compare n
    load := Vector.replicate 16 false }

/-- The end of a PWM period: install, load, and a new period from count 0 (R159). -/
def periodEnds (s : Block) : Block :=
  { s with outputs := { s.outputs.install.loadFrom s.store.presented with counter := 0 } }

/-- A swap sets every load flag (R161). -/
def setLoadFlags (s : Block) : Block := { s with outputs := { s.outputs with load := Vector.replicate 16 true } }

/-- The duty count of a compare value (R160). -/
def dutyCount (v : Nat) : Nat := v / 64

/-- The level of a pin with invert clear at a count of the period (R160). -/
def plainLevel (mode : OutputMode) (v count : Nat) : Bool :=
  match mode with
  | .off => false
  | .pwm => if dutyCount v = 1023 then true else decide (count < dutyCount v)
  | .switch => decide (32768 ≤ v)

/-- The level of output pin `n` at count `count` of the period in progress: that of OFF while a reset is applied and until the clocks
run (R158, R160). -/
def outputPin (s : Block) (n : Fin 16) (count : Nat) : Bool :=
  let o := s.outputs
  let level := if clocked s then plainLevel (getAt o.config.modes n) (getAt o.compare n) count else false
  level != getAt o.config.inverts n

/-- A SET OUTPUTS arrives (R162). -/
def arriveSetOutputs (slot : Fin 32) (clock modes inverts : Word) (s : Block) : Block :=
  match pwmClockOf clock, badMode modes with
  | none, _ => complete slot .badParam 1 0 0 s
  | some _, some k => complete slot .badParam 2 (BitVec.ofNat 32 k) 0 s
  | some c, none =>
    completePlain slot .ok { s with outputs := { s.outputs with pending := some (outputConfigOf c modes inverts) } }

end Sys2Proof.Machine
end

