-- ==== Sys2Proof/Machine/StatusPage.lean ====
section
/-! DEFINITION. The status writer: the status page, its jobs, and SNAPSHOT (11_the_post_table_results_and_status_page.md, R177 to R181;
01_playbacks.md, R26). -/

namespace Sys2Proof.Machine

/-! ### Codes of the page (R181) -/

def FadeState.code : FadeState → Nat
  | .idle => 0
  | .fading => 1
  | .holding => 2
  | .paused => 3
  | .releasing => 4

def LoadState.code : LoadState → Nat
  | .none => 0
  | .waiting => 1
  | .reading => 2

def LineMode.code : LineMode → Nat
  | .off => 0
  | .send => 1
  | .receive => 2
  | .loop => 3

def SignalState.code : SignalState → Nat
  | .none => 0
  | .present => 1
  | .lost => 2

def LastFrame.code : LastFrame → Nat
  | .none => 0
  | .ok => 1
  | .error .framing => 2
  | .error .check => 3
  | .error .short => 4
  | .error .unexpected => 5
  | .error .overrun => 6

/-! ### Progress (R26) -/

/-- The part of the way from the fade start to the fade end, in thousandths (R26). -/
def FadeTiming.progress (tm : FadeTiming) (now : Time) : Nat :=
  let span := showDiff tm.fadeEnd tm.start
  if span = 0 then 1000 else min 1000 (Int.tdiv (tm.elapsed now * 1000) span).toNat

/-- The progress of a playback (R26). -/
def Playback.progress (x : Playback) (now : Time) : Nat :=
  match x.fade, x.remembered with
  | .idle, _ => 0
  | .fading, _ => x.timing.progress now
  | .releasing, _ => x.timing.progress now
  | .holding, _ => 1000
  | .paused, some .holding => 1000
  | .paused, _ => x.timing.progress now

/-! ### The page's words (R181) -/

/-- A word from its fields: each with the place of its lowest bit. -/
def packed (fields : List (Nat × Nat)) : Word := BitVec.ofNat 32 (fields.map fun f => f.1 * 2 ^ f.2).sum

/-- A count as a word. -/
def countWord (n : Nat) : Word := BitVec.ofNat 32 n

/-- The four words of a playback (R26, R181). -/
def playbackWords (now : Time) (x : Playback) : List Word :=
  let bank := (x.lastCue.map LastCue.bank).getD 65535
  let cue := (x.lastCue.map LastCue.cue).getD 65535
  [packed [(x.fade.code, 0), (x.load.code, 8), (x.queue.length, 16)],
   packed [(bank, 0), (cue, 16)],
   packed [(x.progress now, 0), (x.master.value now, 16)],
   countWord x.entries.length]

/-- The eleven words of a line (R126, R143, R157, R181). -/
def lineWords (x : Line) : List Word :=
  [packed [(x.config.mode.code, 0), (x.signal.code, 8), (x.lastFrame.code, 16), (x.queries.length, 24)],
   countWord x.errors.summary,
   countWord x.sent, countWord x.received,
   countWord x.errors.framing.count, countWord x.errors.check.count, countWord x.errors.short.count,
   countWord x.errors.unexpected.count, countWord x.errors.overrun.count,
   countWord x.foreign, countWord x.stray]

/-- The settled pin levels, one bit a trigger (R168, R181). -/
def settledWord (s : Block) : Word := packed (allTriggers.map fun t => (bit (triggerOf s t).settled, t.val))

/-- Words 1 to 103 of a page, latched now (R178, R181). -/
def pageBody (s : Block) : List Word :=
  [packed [(s.engine.state.code, 0), (s.engine.fault.code, 8)], s.time.clock, s.time.frames,
   countWord s.mixer.lateMixes, countWord s.status.skipped, countWord s.port.faults,
   countWord s.loader.sweeps, countWord s.loader.stuck, countWord s.superseded, countWord (poolFree s)]
  ++ allPlaybacks.flatMap (fun p => playbackWords s.time.clock (playbackOf s p))
  ++ allLines.flatMap (fun l => lineWords (lineOf s l))
  ++ allTriggers.flatMap (fun t => [countWord (triggerOf s t).accepted, countWord (triggerOf s t).dropped])
  ++ [settledWord s]

/-! ### The STATUS client's jobs (R178, R180) -/

/-- Part of a list of words: `n` of them from place `k`. -/
def slice (ws : List Word) (k n : Nat) : List Word := (ws.drop k).take n

/-- Burst `burst`, 0 to 8, of a page job (R178). -/
def pageBurst (s : Block) (j : PageJob) : TenureKind :=
  if j.burst = 0 then .write s.anchor.statusPage [s.status.edition + 1]
  else if j.burst < 8 then .write (wordOffset s.anchor.statusPage (16 * (j.burst - 1) + 1)) (slice j.body (16 * (j.burst - 1)) 16)
  else .write s.anchor.statusPage [s.status.edition + 2]

/-- Burst `burst`, 0 to 31, of a snapshot (R180). -/
def snapshotBurst (address : Word) (buffer : List Word) (burst : Nat) : TenureKind :=
  .write (wordOffset address (16 * burst)) (slice buffer (16 * burst) 16)

/-- The part with the status writer changed. -/
def modStatus (f : StatusWriter → StatusWriter) (s : Block) : Block := { s with status := f s.status }

/-- The burst that the first job of the order is at. -/
def statusBurst (s : Block) : Option TenureKind :=
  match s.status.order, s.status.page, s.status.snapshot with
  | .page :: _, some j, _ => some (pageBurst s j)
  | .snapshot :: _, _, some ⟨_, address, .writing buffer burst⟩ => some (snapshotBurst address buffer burst)
  | _, _, _ => none

/-- The STATUS client asks for the burst its first job is at. -/
def askStatus (s : Block) : Block :=
  match statusBurst s with
  | some k => ask .status k s
  | none => s

/-- A job joins the order in which the jobs run; with no other job its first burst is asked for (R180). -/
def joinStatus (j : StatusJob) (s : Block) : Block :=
  let joined := modStatus (fun w => { w with order := w.order ++ [j] }) s
  if s.status.order.isEmpty then askStatus joined else joined

/-- The first job leaves the order, and the next one, if any, begins (R180). -/
def leaveStatus (s : Block) : Block := askStatus (modStatus (fun w => { w with order := w.order.drop 1 }) s)

/-- A page job begins: every value is latched (R178). -/
def beginPage (s : Block) : Block := joinStatus .page (modStatus (fun w => { w with page := some ⟨pageBody s, 0⟩ }) s)

/-- A status write falls due (R177). -/
def statusDue (s : Block) : Block :=
  if s.engine.state = .halted then s
  else match s.status.page with
  | some _ => modStatus (fun w => { w with skipped := countUp w.skipped }) s
  | none => beginPage s

/-- The edition counter takes the even value that ends a page job, and the job is removed (R178). -/
def endPage (s : Block) : Block := modStatus (fun w => { w with edition := w.edition + 2, page := none }) s

/-- The snapshot job ends with a code (R180). -/
def endSnapshot (code : ResultCode) (s : Block) : Block :=
  match s.status.snapshot with
  | some j => completePlain j.slot code (modStatus (fun w => { w with snapshot := none }) s)
  | none => s

/-- A burst of the STATUS client has ended Done (R178, R180). -/
def statusDone (s : Block) : Block :=
  match s.status.order, s.status.page, s.status.snapshot with
  | .page :: _, some j, _ =>
    if j.burst < 8 then askStatus (modStatus (fun w => { w with page := some { j with burst := j.burst + 1 } }) s)
    else leaveStatus (raiseInt .status (endPage s))
  | .snapshot :: _, _, some ⟨slot, address, .writing buffer burst⟩ =>
    if burst < 31 then
      askStatus (modStatus (fun w => { w with snapshot := some ⟨slot, address, .writing buffer (burst + 1)⟩ }) s)
    else leaveStatus (endSnapshot .ok s)
  | _, _, _ => s

/-- A burst of the STATUS client has faulted (R178, R180). -/
def statusFault (s : Block) : Block :=
  match s.status.order with
  | .page :: _ => leaveStatus (endPage s)
  | .snapshot :: _ => leaveStatus (endSnapshot .busFault s)
  | [] => s

/-- The status writer's end on entry into HALTED: a page job and a snapshot job of any kind end (R178, R180). -/
def statusHalt (s : Block) : Block :=
  let paged := if s.status.page.isSome then endPage s else s
  modStatus (fun w => { w with order := [] }) (endSnapshot .busFault paged)

/-- The status writer on entry into STOPPING: a WAITING snapshot completes CANCELLED (R180). -/
def statusStop (s : Block) : Block :=
  match s.status.snapshot with
  | some ⟨_, _, .waiting⟩ => endSnapshot .cancelled s
  | _ => s

/-- The status countdown at a boundary, which has installed new frame values or not (R105, R177). -/
def countStatus (installed : Bool) (s : Block) : Block :=
  let counts := s.engine.state = .running ∨ s.engine.state = .stopping ∨ s.engine.state = .halted
  let n := s.status.countdown
  let due := decide counts && decide (n = 1)
  let next := if due || installed then s.time.inForce.status else if counts then n - 1 else n
  let counted := modStatus (fun w => { w with countdown := next }) s
  if due then statusDue counted else counted

/-! ### SNAPSHOT (R179) -/

/-- The words of a snapshot: two levels a word (R181). -/
def snapshotWords (image : Image) : List Word :=
  (List.range 512).map fun k =>
    packed [(getAt image.levels (Fin.ofNat 1024 (2 * k)), 0), (getAt image.levels (Fin.ofNat 1024 (2 * k + 1)), 16)]

/-- A SNAPSHOT arrives (R179). -/
def arriveSnapshot (slot : Fin 32) (address : Word) (s : Block) : Block :=
  match s.status.snapshot with
  | some _ => completePlain slot .busy s
  | none => modStatus (fun w => { w with snapshot := some ⟨slot, address, .waiting⟩ }) s

/-- At a swap a WAITING job copies the levels of the newly presented image and becomes WRITING (R179). -/
def copySnapshot (s : Block) : Block :=
  match s.status.snapshot with
  | some ⟨slot, address, .waiting⟩ =>
    joinStatus .snapshot
      (modStatus (fun w => { w with snapshot := some ⟨slot, address, .writing (snapshotWords s.store.presented) 0⟩ }) s)
  | _ => s

end Sys2Proof.Machine
end

