-- ==== Sys2Proof/Machine/Mixer.lean ====
section
/-! DEFINITION. The mixer's passes, the swap, the grand master and blackout (04_the_mixer_and_the_frame_store.md, R64 to R81). -/

namespace Sys2Proof.Machine

/-- The part with the mixer changed. -/
def modMixer (f : Mixer → Mixer) (s : Block) : Block := { s with mixer := f s.mixer }

/-- The part with the frame store changed. -/
def modStore (f : FrameStore → FrameStore) (s : Block) : Block := { s with store := f s.store }

/-- The engine states in which passes start and late mixes count (R65, R73). -/
def mixes (s : Block) : Bool :=
  s.engine.state == .running || s.engine.state == .stopping || s.engine.state == .halted

/-! ### The frame boundary at the frame store and the mixer (R73, R74) -/

/-- Whether the images swap (R74). -/
def swaps (s : Block) : Bool :=
  (s.engine.state == .running || s.engine.state == .halted) && !s.store.hold && s.store.complete

/-- The swap: the images change places, every load flag is set, and a WAITING snapshot is copied (R74, R161, R179). -/
def swap (s : Block) : Block :=
  copySnapshot (setLoadFlags (modStore (fun f => { f with aPresented := !f.aPresented, complete := false }) s))

/-- The input layers a pass reads: those of lines whose mode is RECEIVE or LOOP (R66). -/
def passInputs (s : Block) : List InputView :=
  allLines.filterMap fun l =>
    let x := lineOf s l
    if x.config.mode = .receive ∨ x.config.mode = .loop then some ⟨x.config.base, x.layer⟩ else none

/-- Blackout is effective when either claim is set (R79). -/
def effectiveBlackout (s : Block) : Bool := s.control.blackout || s.mixer.blackoutRequest

/-- What a pass latches now (R65). -/
def latchOf (s : Block) : PassLatch :=
  ⟨s.time.clock, s.mixer.grand.value s.time.clock, effectiveBlackout s, passInputs s, false⟩

/-- A pass starts: the working image is not complete, handed-over changes are installed, and the latch is filled (R65). -/
def passStarts (s : Block) : Block :=
  let installed := installTables (modStore (fun f => { f with complete := false }) s)
  modMixer (fun m => { m with pass := some (latchOf installed) }) installed

/-- The frame store and the mixer take a frame boundary (R73, R74). -/
def mixerBoundary (s : Block) : Block :=
  match s.mixer.pass with
  | some _ => if mixes s then modMixer (fun m => { m with lateMixes := countUp m.lateMixes }) s else s
  | none =>
    let swapped := if swaps s then swap s else s
    if mixes s then passStarts swapped else swapped

/-- The mixer's part of mix-complete: the image is written and marked complete, the pass ends, and the held edits land (R67, R40). -/
def passEnds (latch : PassLatch) (s : Block) : Block :=
  { s with
    store := { s.store.putWorking (imageOf s.mixer latch) with complete := if latch.restarted then s.store.complete else true }
    mixer := { s.mixer with pass := none, views := landEdits s.mixer.views s.mixer.held, held := [] } }

/-! ### Requests (R78, R80) -/

/-- A SET GRAND arrives (R78). -/
def arriveSetGrand (slot : Fin 32) (level time : Word) (s : Block) : Block :=
  if level.toNat ≤ Config.full ∧ time.toNat ≤ Config.maxTime then
    let now := s.time.clock
    complete slot .ok (BitVec.ofNat 32 (s.mixer.grand.value now)) 0 0
      (modMixer (fun m => { m with grand := m.grand.rewrite now level.toNat time.toNat }) s)
  else completePlain slot .badParam s

/-- The blackout request state after a request's action on it; none for an action out of range (R80). -/
def blackoutAfter (action : Word) (now : Bool) : Option Bool :=
  match action.toNat with
  | 0 => some false
  | 1 => some true
  | 2 => some (!now)
  | _ => none

/-- A BLACKOUT arrives (R80). -/
def arriveBlackout (slot : Fin 32) (action : Word) (s : Block) : Block :=
  let before := s.mixer.blackoutRequest
  match blackoutAfter action before with
  | some after =>
    complete slot .ok (BitVec.ofNat 32 (bit after)) (BitVec.ofNat 32 (bit before)) 0
      (modMixer (fun m => { m with blackoutRequest := after }) s)
  | none => completePlain slot .badParam s

/-- A trigger's BLACKOUT TOGGLE (R81). -/
def toggleBlackout (s : Block) : Block := modMixer (fun m => { m with blackoutRequest := !m.blackoutRequest }) s

/-- The grand master settles (R77). -/
def grandSettles (s : Block) : Block := modMixer (fun m => { m with grand := m.grand.settle }) s

end Sys2Proof.Machine
end

