-- ==== Sys2Proof/Machine/Lines.lean ====
section
/-! DEFINITION. The line units: configuration and budget, transmission, reception and commits (06_frame_timing_and_the_show_clock.md,
R106, R107; 07_lighting_lines_transmission.md; 08_lighting_lines_reception_and_input_layers.md). -/

namespace Sys2Proof.Machine

/-! ### Line time and budget (R106, R107) -/

/-- A line that sends level frames: SEND or LOOP (R116). -/
def LineMode.sends (m : LineMode) : Bool := m == .send || m == .loop

/-- A line whose receiver takes frames: RECEIVE or LOOP (R128). -/
def LineMode.receives (m : LineMode) : Bool := m == .receive || m == .loop

/-- The bit count of a configuration (R106). -/
def bitCount (c : LineConfig) : Nat := 20 + 11 * (c.slots + 3) + if c.talkback then Config.queryWindow else 0

/-- Microseconds of a bit time (R113). -/
def LineRate.bitTime : LineRate → Nat
  | .slow => 2
  | .fast => 1

/-- The line time in µs, 0 for a line that sends no frame (R106). -/
def lineTime (c : LineConfig) : Nat := if c.mode.sends then bitCount c * c.rate.bitTime else 0

/-- The smallest period a sending configuration fits, in µs (R106). -/
def smallestPeriod (c : LineConfig) : Nat := lineTime c + Config.guardTime

/-- Whether a configuration fits a frame period (R106). -/
def fits (c : LineConfig) (period : Nat) : Bool := !c.mode.sends || decide (smallestPeriod c ≤ period)

/-- The period that the next boundary leaves in force (R107). -/
def checkedPeriod (s : Block) : Nat :=
  match s.time.pending with
  | some (v, _) => v.period
  | none => s.time.inForce.period

/-- The configuration that the next boundary leaves a line in (R107). -/
def checkedConfig (x : Line) : LineConfig :=
  match x.pending with
  | some (c, _) => c
  | none => x.config

/-! ### SET LINE and its install (R120 to R123) -/

/-- A SET LINE that passes its checks supersedes a pending one and becomes the owner (R122). -/
def placeLine (l : Fin 4) (slot : Fin 32) (c : LineConfig) (s : Block) : Block :=
  let superseded :=
    match (lineOf s l).pending with
    | some (_, owner) => completePlain owner .cancelled s
    | none => s
  modLine l (fun x => { x with pending := some (c, slot) }) superseded

/-- A SET LINE arrives at its line (R120 to R122). -/
def arriveSetLine (l : Fin 4) (slot : Fin 32) (mode rate count talkback base timeout action : Word) (s : Block) : Block :=
  match lineConfigOf mode rate count talkback base timeout action with
  | .error n => complete slot .badParam (BitVec.ofNat 32 n) 0 0 s
  | .ok c =>
    if fits c (checkedPeriod s) then placeLine l slot c s
    else complete slot .budget (BitVec.ofNat 32 (smallestPeriod c)) (BitVec.ofNat 32 (checkedPeriod s)) 0 s

/-- Every query of a list completes with a code, in order (R154 to R156). -/
def endQueries (code : ResultCode) (qs : List Query) (s : Block) : Block := qs.foldl (fun t q => completePlain q.slot code t) s

/-- A staging buffer without the frame being received; a complete one stays (R123, R134). -/
def LineStaging.dropFilling (b : LineStaging) : LineStaging :=
  match b with
  | .filling _ => .empty
  | .empty => .empty
  | .complete bs => .complete bs

/-- The receive side after the install of a configuration (R123): a change of mode clears it, a change of rate in RECEIVE or LOOP
discards the frame being received. -/
def installReceiver (old new : LineConfig) (x : Line) : Line :=
  if old.mode ≠ new.mode then
    { x with rx := .hunt, staging := .empty, layer := Vector.replicate 256 0, signal := .none, signalTimer := none }
  else if new.mode.receives ∧ old.rate ≠ new.rate then { x with rx := .hunt, staging := x.staging.dropFilling }
  else x

/-- The driver between frames (R112, R118). -/
def restDriver (c : LineConfig) : Bool := c.mode == .send && !c.talkback

/-- A line after the install of a configuration (R123). -/
def installedLine (c : LineConfig) (x : Line) : Line :=
  let received := installReceiver x.config c x
  { received with
    config := c
    pending := none
    queries := if c.talkback then x.queries else []
    driver := restDriver c }

/-- A pending configuration is installed (R123). -/
def installLine (l : Fin 4) (s : Block) : Block :=
  let x := lineOf s l
  match x.pending with
  | none => s
  | some (c, owner) =>
    let cancelled := if c.talkback then s else endQueries .cancelled x.queries s
    complete owner .ok (BitVec.ofNat 32 (lineTime c)) (BitVec.ofNat 32 c.mode.code) 0 (modLine l (installedLine c) cancelled)

/-! ### Characters and frames (R113, R114, R147) -/

/-- A character of a line: its flag and its data value. -/
abbrev Character := Bool × Byte

/-- Bit times of a character, of a break and of the mark after it (R113, R114). -/
def characterBits : Nat := 11
def breakBits : Nat := 16
def markBits : Nat := 4

/-- The level of a character at each of its bit times: start low, the data bits from the least significant, flag, stop high (R113). -/
def characterLevel (c : Character) (k : Nat) : Bool :=
  if k = 0 then false
  else if k ≤ 8 then c.2.getLsbD (k - 1)
  else if k = 9 then c.1
  else true

/-- The value that makes a sum of data values a multiple of 256 (R114). -/
def checkByte (bytes : List Byte) : Byte := 0 - BitVec.ofNat 8 (bytes.map BitVec.toNat).sum

/-- The characters of a frame: a flagged header, the others unflagged, the check last (R113, R114, R147). -/
def frameOf (header : Byte) (body : List Byte) : List Character :=
  (true, header) :: (body ++ [checkByte (header :: body)]).map fun d => (false, d)

/-- The characters of a level frame: header, count, slots, check (R114). -/
def levelFrame (slots : List Byte) : List Character := frameOf Config.levelHeader (BitVec.ofNat 8 (slots.length - 1) :: slots)

/-- The characters of a query frame: header, address, code, count, parameters, check (R147). -/
def queryFrame (q : Query) : List Character :=
  frameOf Config.queryHeader ([BitVec.ofNat 8 (q.address / 256), BitVec.ofNat 8 (q.address % 256), BitVec.ofNat 8 q.code,
    BitVec.ofNat 8 q.bytes.length] ++ q.bytes)

/-- The bit times of a frame (R114, R147). -/
def frameBits (cs : List Character) : Nat := breakBits + markBits + characterBits * cs.length

/-- The level of a frame `n` bit times after its start: break, mark, the characters back to back; at mark after its end
(R113, R114). -/
def frameLevel (cs : List Character) (n : Nat) : Bool :=
  if n < breakBits then false
  else if n < breakBits + markBits then true
  else match cs[(n - (breakBits + markBits)) / characterBits]? with
    | some c => characterLevel c ((n - (breakBits + markBits)) % characterBits)
    | none => true

/-! ### The transmitter (R112, R115 to R119) -/

/-- The slot bytes a level frame of `n` slots sends, as presented now (R117). -/
def sentSlots (s : Block) (l : Fin 4) (n : Nat) : List Byte := (List.range n).map fun k => slotByte s l (Fin.ofNat 256 k)

/-- The characters of the level frame a line sends now. -/
def lineFrame (s : Block) (l : Fin 4) : List Character := levelFrame (sentSlots s l (lineOf s l).config.slots)

/-- The state in a frame `n` bit times after its start: BREAK, MARK, CHARACTERS with its index, and then `last` for one character time
when there is one (R115, R147). -/
def frameStateAt (cs : List Character) (last : Option TxState) (n : Nat) : TxState :=
  if n < breakBits then .brk
  else if n < breakBits + markBits then .mark
  else if n < frameBits cs then .characters ((n - (breakBits + markBits)) / characterBits)
  else if n < frameBits cs + characterBits then last.getD .idle
  else .idle

/-- The state of a line's transmitter `n` bit times after the start of the frame it is sending (R115, R147). -/
def txStateAt (s : Block) (l : Fin 4) (n : Nat) : TxState :=
  let x := lineOf s l
  let level := frameStateAt (lineFrame s l) (if x.config.talkback then some .trail else none) n
  match x.tx with
  | .brk => level
  | .mark => level
  | .characters _ => level
  | .query q => frameStateAt (queryFrame q) (some .turnaround) n
  | .idle => .idle
  | .trail => .trail
  | .turnaround => .turnaround

/-- The output of a line's transmitter `n` bit times after the start of the frame it is sending; at mark while it sends none
(R113, R115). -/
def transmitterLevel (s : Block) (l : Fin 4) (n : Nat) : Bool :=
  match (lineOf s l).tx with
  | .brk => frameLevel (lineFrame s l) n
  | .mark => frameLevel (lineFrame s l) n
  | .characters _ => frameLevel (lineFrame s l) n
  | .query q => frameLevel (queryFrame q) n
  | .idle => true
  | .trail => true
  | .turnaround => true

/-- The level of a line's transmit pin `n` bit times after the start of the frame its transmitter is sending: a SEND line's output, and
mark on every other line, whose output stays inside (R112, R119). -/
def transmitPin (s : Block) (l : Fin 4) (n : Nat) : Bool :=
  if (lineOf s l).config.mode = .send then transmitterLevel s l n else true

/-- Whether the engine state and CONTROL.HOLD let a line start a level frame (R116). -/
def sendsNow (s : Block) : Bool :=
  match s.engine.state with
  | .running => true
  | .stopping => true
  | .halted => true
  | .stopped => s.control.hold
  | .starting => false

/-- A level frame starts at a boundary when R116 allows; a SEND line's driver is enabled with the break (R116, R118). -/
def startFrame (l : Fin 4) (s : Block) : Block :=
  if (lineOf s l).config.mode.sends && sendsNow s then
    modLine l (fun x => { x with tx := .brk, driver := x.config.mode == .send }) s
  else s

/-- A line takes a frame boundary: it installs a pending configuration, and then starts a frame (R116, R123). -/
def lineBoundary (l : Fin 4) (s : Block) : Block := startFrame l (installLine l s)

/-! ### Commit (R135, R138) -/

/-- The input layer that a frame's bytes make (R135). -/
def layerOf (bytes : List Byte) : Vector Byte 256 := Vector.ofFn fun k => bytes[k.val]?.getD 0

/-- The line after the commit of a frame at show time `now` (R135, R138). -/
def committedLine (now : Time) (bytes : List Byte) (x : Line) : Line :=
  { x with
    layer := layerOf bytes
    staging := .empty
    signalTimer := some (now + BitVec.ofNat 32 x.config.lossTimeout)
    signal := .present }

/-- A COMPLETE staging frame is committed; LINE is raised when the signal state changes (R135, R138). -/
def commit (l : Fin 4) (s : Block) : Block :=
  let x := lineOf s l
  match x.staging with
  | .complete bytes =>
    let moved := modLine l (committedLine s.time.clock bytes) s
    if x.signal = .present then moved else raiseInt .line moved
  | _ => s

/-- Mix-complete: the pass ends, and every waiting frame is committed (R67, R136). -/
def mixCompletes (latch : PassLatch) (s : Block) : Block := allLines.foldl (fun t l => commit l t) (passEnds latch s)

/-! ### Loss of signal (R138, R139) -/

/-- The line after a loss of signal (R138, R139). -/
def lostLine (x : Line) : Line :=
  { x with
    signal := .lost
    signalTimer := none
    layer := if x.config.lossAction = .clear then Vector.replicate 256 0 else x.layer }

/-- The signal timer expires; it runs only while the state is PRESENT (R138). -/
def signalExpires (l : Fin 4) (s : Block) : Block :=
  if (lineOf s l).signal = .present then raiseInt .line (modLine l lostLine s)
  else modLine l (fun x => { x with signalTimer := none }) s

/-! ### The receiver (R129 to R134) -/

/-- A frame ends in an error of kind `k`, and the receiver goes to `next` (R134). -/
def frameError (k : ErrorKind) (next : Receiver) (x : Line) : Line :=
  { x with
    rx := next
    errors := x.errors.hit k
    lastFrame := .error k
    staging := x.staging.dropFilling }

/-- The receiver with its low and gap measurements and its state as given. -/
def Receiver.at (r : Receiver) (st : RxState) (low gap : Bool) : Receiver := { r with state := st, low := low, gap := gap }

/-- The receiver in BREAK: the low goes on (R130). -/
def Receiver.inBreak : Receiver := { Receiver.hunt with state := .brk, low := true }

/-- A break is detected on a RECEIVE or LOOP line (R130). -/
def lineBreak (x : Line) : Line :=
  match x.rx.state with
  | .hunt => { x with rx := .inBreak }
  | .brk => x
  | .mark => x
  | .header => frameError .short .inBreak x
  | .count => frameError .short .inBreak x
  | .slots => frameError .short .inBreak x
  | .check => frameError .short .inBreak x

/-- The rise that ends a break (R130). -/
def lineBreakEnd (x : Line) : Line :=
  match x.rx.state with
  | .brk => { x with rx := x.rx.at .mark false true, tx := if x.config.mode = .loop then .mark else x.tx }
  | _ => { x with rx := { x.rx with low := false } }

/-- A fall from high to low: the low is measured, a gap ends, and in MARK the header character begins (R129, R130).  On a LOOP line
the transmitter has then left MARK too (notes/assumptions/18.md). -/
def lineFall (x : Line) : Line :=
  match x.rx.state with
  | .mark => { x with rx := x.rx.at .header true false, tx := if x.config.mode = .loop then .characters 0 else x.tx }
  | _ => { x with rx := { x.rx with low := true, gap := false } }

/-- A low stop on a RECEIVE or LOOP line (R130). -/
def lineLowStop (x : Line) : Line :=
  match x.rx.state with
  | .hunt => { x with rx := { x.rx with low := false } }
  | .brk => x
  | .mark => x
  | .header => frameError .framing .hunt x
  | .count => frameError .framing .hunt x
  | .slots => frameError .framing .hunt x
  | .check => frameError .framing .hunt x

/-- A gap expiry on a RECEIVE or LOOP line; it is measured in MARK, COUNT, SLOTS and CHECK (R129, R130). -/
def lineGap (x : Line) : Line :=
  match x.rx.state with
  | .mark => frameError .short .hunt x
  | .count => frameError .short .hunt x
  | .slots => frameError .short .hunt x
  | .check => frameError .short .hunt x
  | .hunt => x
  | .brk => x
  | .header => x

/-- The header character of a frame (R131). -/
def lineHeader (flag : Bool) (data : Byte) (x : Line) : Line :=
  if flag = true ∧ data = Config.levelHeader then { x with rx := ⟨.count, 0, 0, data.toNat, false, true⟩ }
  else { x with rx := .hunt, foreign := countUp x.foreign }

/-- The count character of a frame (R132). -/
def lineCount (flag : Bool) (data : Byte) (x : Line) : Line :=
  if flag then frameError .unexpected .hunt x
  else { x with rx := ⟨.slots, data.toNat + 1, 0, x.rx.sum + data.toNat, false, true⟩ }

/-- A slot byte placed in the staging buffer; after the last one the receiver enters CHECK (R132). -/
def placeSlot (data : Byte) (before : List Byte) (x : Line) : Line :=
  { x with
    staging := .filling (before ++ [data])
    rx := ⟨if x.rx.position + 1 < x.rx.count then .slots else .check, x.rx.count, x.rx.position + 1,
      x.rx.sum + data.toNat, false, true⟩ }

/-- A slot character of a frame (R132). -/
def lineSlot (flag : Bool) (data : Byte) (x : Line) : Line :=
  if flag then frameError .unexpected .hunt x
  else match x.staging with
  | .complete _ => frameError .overrun .hunt x
  | .empty => placeSlot data [] x
  | .filling bytes => placeSlot data bytes x

/-- A valid frame is complete (R133). -/
def validFrame (x : Line) : Line :=
  { x with
    rx := .hunt
    staging := match x.staging with | .filling bytes => .complete bytes | b => b
    received := countUp x.received
    lastFrame := .ok }

/-- The check character of a frame (R133). -/
def lineCheck (flag : Bool) (data : Byte) (x : Line) : Line :=
  if flag then frameError .unexpected .hunt x
  else if (x.rx.sum + data.toNat) % 256 = 0 then validFrame x
  else frameError .check .hunt x

/-- A character taken on a RECEIVE or LOOP line (R130). -/
def lineCharacter (flag : Bool) (data : Byte) (x : Line) : Line :=
  match x.rx.state with
  | .hunt => { x with rx := { x.rx with low := false } }
  | .brk => x
  | .mark => x
  | .header => lineHeader flag data x
  | .count => lineCount flag data x
  | .slots => lineSlot flag data x
  | .check => lineCheck flag data x

/-- The place, in the frame, of the character that a receiver is to take (R130). -/
def Receiver.place (r : Receiver) (slots : Nat) : Nat :=
  match r.state with
  | .count => 1
  | .slots => 2 + r.position
  | .check => 2 + slots
  | .hunt => 0
  | .brk => 0
  | .mark => 0
  | .header => 0

/-- The character that a LOOP line's transmitter gives its receiver, by the place of the frame the receiver is at (R114, R119,
notes/assumptions/18.md). -/
def loopedCharacter (s : Block) (l : Fin 4) : Character :=
  let x := lineOf s l
  (lineFrame s l)[x.rx.place x.config.slots]?.getD (true, Config.levelHeader)

/-- The transmitter of a LOOP line after a character of its frame has been taken (R115, notes/assumptions/18.md). -/
def TxState.next : TxState → TxState
  | .characters k => .characters (k + 1)
  | t => t

/-- A character taken on a RECEIVE or LOOP line: on a LOOP line it is the transmitter's own.  A frame that becomes COMPLETE between
passes is committed at once (R133, R136). -/
def receiveCharacter (l : Fin 4) (flag : Bool) (data : Byte) (s : Block) : Block :=
  let x := lineOf s l
  let looped := x.config.mode = .loop
  let c := if looped then loopedCharacter s l else (flag, data)
  let taken := modLine l (fun y => { lineCharacter c.1 c.2 y with tx := if looped then y.tx.next else y.tx }) s
  if x.rx.state = .check ∧ s.mixer.pass = none then commit l taken else taken

/-- A change of the receive side of a RECEIVE or LOOP line; other lines take no notice (R128). -/
def receiving (l : Fin 4) (f : Line → Line) (s : Block) : Block :=
  if (lineOf s l).config.mode.receives then modLine l f s else s

/-! ### CLEAR LINE STATUS (R142) -/

/-- The line with its counts and its error summary cleared (R142). -/
def clearedLine (x : Line) : Line := { x with errors := .clear, received := 0, foreign := 0, stray := 0, sent := 0 }

/-- A CLEAR LINE STATUS arrives at its line (R142). -/
def arriveClearLine (l : Fin 4) (slot : Fin 32) (s : Block) : Block :=
  let x := lineOf s l
  complete slot .ok (BitVec.ofNat 32 x.received) (BitVec.ofNat 32 x.sent) 0 (modLine l clearedLine s)

/-! ### STOPPING and leaving HALTED (R124) -/

/-- A line's pending configuration is removed, and its SET LINE completes CANCELLED (R124). -/
def dropPendingLine (l : Fin 4) (s : Block) : Block :=
  match (lineOf s l).pending with
  | some (_, owner) => completePlain owner .cancelled (modLine l (fun x => { x with pending := none }) s)
  | none => s

/-- Every line's pending configuration is removed (R124). -/
def dropPendingLines (s : Block) : Block := allLines.foldl (fun t l => dropPendingLine l t) s

end Sys2Proof.Machine
end

