-- ==== Sys2Proof/Machine/Talkback.lean ====
section
/-! DEFINITION. Talkback: queries, replies and reply writes (09_talkback_queries.md, R144 to R157; 08, R140). -/

namespace Sys2Proof.Machine

/-! ### QUERY and its start (R145, R146) -/

/-- A QUERY arrives at its line (R145).  Talkback is on only in SEND (R111). -/
def arriveQuery (l : Fin 4) (slot : Fin 32) (address code count bytes0 bytes4 reply : Word) (s : Block) : Block :=
  let x := lineOf s l
  if x.config.talkback then
    match queryOf slot address code count bytes0 bytes4 reply with
    | .error n => complete slot .badParam (BitVec.ofNat 32 n) 0 0 s
    | .ok q =>
      if x.queries.length < Config.queuePlaces then modLine l (fun y => { y with queries := y.queries ++ [q] }) s
      else completePlain slot .queueFull s
  else completePlain slot .badTarget s

/-- A line whose head query, if the conditions of R146 hold, becomes the query in flight. -/
def startQuery (now : Time) (x : Line) : Line :=
  match x.queries, x.inFlight, x.reply with
  | q :: rest, none, none => { x with queries := rest, inFlight := some ⟨q, .gap, now, [], false, false⟩ }
  | _, _, _ => x

/-- Whether a level frame is going out (R115, notes/assumptions/18.md). -/
def inLevelFrame (x : Line) : Bool :=
  match x.tx with
  | .brk => true
  | .mark => true
  | .characters _ => true
  | .idle => false
  | .trail => false
  | .query _ => false
  | .turnaround => false

/-- The line at the check stop bit of its level frame: the frame is counted, and with talkback on the line enters TRAIL and starts a
query (R115, R126, R146).  DESIGN CHOICE (unsafe): a frame begun in another state that ends in STARTING, or in STOPPED with HOLD clear,
is counted as every other, though the last sentence of R126 says the count does not rise there (notes/assumptions/36.md). -/
def levelFrameEnded (now : Time) (x : Line) : Line :=
  let counted := { x with sent := countUp x.sent }
  if x.config.talkback then startQuery now { counted with tx := .trail } else { counted with tx := .idle }

/-! ### The query frame (R147) -/

/-- The line with its query in flight at another stage. -/
def atStage (st : QueryStage) (x : Line) : Line := { x with inFlight := x.inFlight.map fun f => { f with stage := st } }

/-- The query in flight of a line, when it is at a stage. -/
def flightAt (st : QueryStage) (x : Line) : Option InFlight := x.inFlight.filter fun f => f.stage == st

/-- The end of TRAIL: a query started goes on into its frame, and otherwise the driver is released (R115, R118, R147). -/
def trailEnded (x : Line) : Line :=
  match flightAt .gap x with
  | some f => atStage .sending { x with tx := .query f.query }
  | none => { x with tx := .idle, driver := false }

/-- The driver is released after a query frame; a query that waits for a reply enters AWAITING (R147, R149). -/
def turnaroundEnded (x : Line) : Line :=
  let released := { x with tx := .idle, driver := false }
  match flightAt .turnaround x with
  | some _ => atStage .awaiting released
  | none => released

/-! ### The end of a query (R151, R155, R156) -/

/-- The query in flight leaves the line, and completes: CANCELLED when it is marked cancelled, whatever its outcome (R155). -/
def endQuery (l : Fin 4) (code : ResultCode) (v1 v2 : Word) (s : Block) : Block :=
  match (lineOf s l).inFlight with
  | none => s
  | some f =>
    let ended := modLine l (fun x => { x with inFlight := none }) s
    if f.cancelled then completePlain f.query.slot .cancelled ended
    else if f.halted ∧ code = .ok then completePlain f.query.slot .busFault ended
    else complete f.query.slot code v1 v2 0 ended

/-- The query frame has ended and the line is held at mark: a broadcast in flight ends OK, and another query waits for its turnaround
(R147, R148). -/
def queryFrameEnded (l : Fin 4) (s : Block) : Block :=
  let held := modLine l (fun x => { x with tx := .turnaround }) s
  match flightAt .sending (lineOf s l) with
  | none => held
  | some f => if f.query.address = Config.broadcast then endQuery l .ok 0 0 held else modLine l (atStage .turnaround) held

/-! ### Replies (R150 to R153) -/

/-- The reasons of a BAD_REPLY (R151). -/
inductive BadReply
  | header
  | flag
  | address
  | count
  | check
  | gap
  | window
  deriving DecidableEq, Repr

/-- The first result value of a BAD_REPLY (R151). -/
def BadReply.code : BadReply → Nat
  | .header => 1
  | .flag => 2
  | .address => 3
  | .count => 4
  | .check => 5
  | .gap => 6
  | .window => 7

/-- What a reply character does: the reply goes on, is whole, or fails (R150). -/
inductive ReplyStep
  | more
  | whole
  | bad (reason : BadReply)
  deriving DecidableEq, Repr

/-- A data value taken before, by its place in the reply. -/
def takenAt (taken : List Byte) (k : Nat) : Byte := taken[k]?.getD 0

/-- What the next character of a reply does, after `taken` (R150).  The flag is examined before the value; a flagged check character
fails as FLAG too (notes/assumptions/32.md). -/
def replyStep (q : Query) (taken : List Byte) (flag : Bool) (data : Byte) : ReplyStep :=
  let k := taken.length
  let sum := (taken.map BitVec.toNat).sum + data.toNat
  if k = 0 then (if flag = true ∧ data = Config.replyHeader then .more else .bad .header)
  else if flag then .bad .flag
  else if k = 1 then (if data.toNat = q.address / 256 then .more else .bad .address)
  else if k = 2 then (if data.toNat = q.address % 256 then .more else .bad .address)
  else if k = 3 then .more
  else if k = 4 then (if data.toNat ≤ 32 then .more else .bad .count)
  else if k < 5 + (takenAt taken 4).toNat then .more
  else if sum % 256 = 0 then .whole
  else .bad .check

/-- The reply that the characters of a whole reply make; its check character is not among them (R144, R152). -/
def replyOf (q : Query) (taken : List Byte) : Reply := ⟨q.slot, q.address, takenAt taken 3, taken.drop 5, q.area⟩

/-- Bytes packed four to a word, the first lowest, unused bytes 0 (R153, R181). -/
def packBytes : List Byte → List Word
  | [] => []
  | [a] => [packed [(a.toNat, 0)]]
  | [a, b] => [packed [(a.toNat, 0), (b.toNat, 8)]]
  | [a, b, c] => [packed [(a.toNat, 0), (b.toNat, 8), (c.toNat, 16)]]
  | a :: b :: c :: d :: rest => packed [(a.toNat, 0), (b.toNat, 8), (c.toNat, 16), (d.toNat, 24)] :: packBytes rest

/-- The words of a reply area (R153, R181). -/
def replyWords (r : Reply) : List Word :=
  packed [(r.echoed, 0), (r.status.toNat, 16), (r.data.length, 24)] :: packBytes r.data

/-- The TALKBACK client asks for the write of the first reply in its order (R153). -/
def askTalkback (s : Block) : Block :=
  match s.talkback with
  | l :: _ =>
    match (lineOf s l).reply with
    | some r => ask .talkback (.write r.area (replyWords r)) s
    | none => s
  | [] => s

/-- A reply becomes FULL and joins the TALKBACK client's order (R152, R153). -/
def placeReply (l : Fin 4) (r : Reply) (s : Block) : Block :=
  let placed := modLine l (fun x => { x with inFlight := none, reply := some r }) { s with talkback := s.talkback ++ [l] }
  if s.talkback.isEmpty then askTalkback placed else placed

/-- A reply is whole and the query ends OK on the line (R152); a cancelled or halted one places no reply (R155, R156). -/
def replyWhole (l : Fin 4) (f : InFlight) (s : Block) : Block :=
  if f.cancelled ∨ f.halted then endQuery l .ok 0 0 s else placeReply l (replyOf f.query f.taken) s

/-- A query ends with a failing event of its reply: its code, the reason as first value, and as second the number of characters taken
before (R151, notes/assumptions/33.md). -/
def failReply (l : Fin 4) (f : InFlight) (code : ResultCode) (reason : Nat) (s : Block) : Block :=
  endQuery l code (BitVec.ofNat 32 reason) (BitVec.ofNat 32 f.taken.length) s

/-- A character of a reply is taken in RECEIVING (R150, R151). -/
def replyCharacter (l : Fin 4) (f : InFlight) (flag : Bool) (data : Byte) (s : Block) : Block :=
  match replyStep f.query f.taken flag data with
  | .more => modLine l (fun x => { x with inFlight := some { f with taken := f.taken ++ [data] } }) s
  | .whole => replyWhole l f s
  | .bad reason => failReply l f .badReply reason.code s

/-- A stray character (R140). -/
def countStray (l : Fin 4) (s : Block) : Block := modLine l (fun x => { x with stray := countUp x.stray }) s

/-- A character taken on a line with talkback on while its driver is released: the reply's in RECEIVING, and otherwise stray.  In
AWAITING no character comes before the fall that begins the reply (R140, R149, R150). -/
def talkbackCharacter (l : Fin 4) (flag : Bool) (data : Byte) (s : Block) : Block :=
  let x := lineOf s l
  if x.config.talkback && !x.driver then
    match flightAt .receiving x, flightAt .awaiting x with
    | some f, _ => replyCharacter l f flag data s
    | none, some _ => s
    | none, none => countStray l s
  else s

/-- The first fall of a reply (R149). -/
def replyStarts (l : Fin 4) (s : Block) : Block :=
  match flightAt .awaiting (lineOf s l) with
  | some _ => modLine l (atStage .receiving) s
  | none => s

/-- The start timeout of a reply (R149). -/
def replyTimesOut (l : Fin 4) (s : Block) : Block :=
  match flightAt .awaiting (lineOf s l) with
  | some _ => endQuery l .noReply 0 0 s
  | none => s

/-- The first result value of a COLLISION (R151). -/
def collisionValue : CollisionKind → Nat
  | .framing => 1
  | .low => 2

/-- A low stop or a break in a reply (R151). -/
def replyCollides (l : Fin 4) (kind : CollisionKind) (s : Block) : Block :=
  match flightAt .receiving (lineOf s l) with
  | some f => failReply l f .collision (collisionValue kind) s
  | none => s

/-- A gap expiry in a reply; it is measured only after a character has been taken (R150, R151). -/
def replyGap (l : Fin 4) (s : Block) : Block :=
  match flightAt .receiving (lineOf s l) with
  | some f => if f.taken.isEmpty then s else failReply l f .badReply BadReply.gap.code s
  | none => s

/-- The end of the query window (R151). -/
def windowEnds (l : Fin 4) (s : Block) : Block :=
  match flightAt .receiving (lineOf s l) with
  | some f => failReply l f .badReply BadReply.window.code s
  | none => s

/-! ### The reply write (R153) -/

/-- The head of the TALKBACK client's order leaves it, its reply buffer EMPTY, and its query completes; the next reply's write is
asked for (R153). -/
def endReply (code : ResultCode) (s : Block) : Block :=
  match s.talkback with
  | [] => s
  | l :: rest =>
    let emptied := modLine l (fun x => { x with reply := none }) { s with talkback := rest }
    match (lineOf s l).reply with
    | none => askTalkback emptied
    | some r =>
      askTalkback (match code with
        | .ok => complete r.slot .ok (BitVec.ofNat 32 r.status.toNat) (BitVec.ofNat 32 r.data.length) 0 emptied
        | _ => completePlain r.slot code emptied)

/-! ### STOPPING and HALTED (R155, R156) -/

/-- A line's queries on entry into STOPPING: the queue completes CANCELLED, and a query in flight is marked (R155). -/
def stopQueries (l : Fin 4) (s : Block) : Block :=
  let x := lineOf s l
  modLine l (fun y => { y with queries := [], inFlight := y.inFlight.map fun f => { f with cancelled := true } })
    (endQueries .cancelled x.queries s)

/-- A line's talkback on entry into HALTED: the queue and a FULL reply end BUS_FAULT, and a query in flight is marked (R156). -/
def haltQueries (l : Fin 4) (s : Block) : Block :=
  let x := lineOf s l
  let queued := endQueries .busFault x.queries s
  let replied := match x.reply with | some r => completePlain r.slot .busFault queued | none => queued
  modLine l (fun y => { y with
    queries := []
    inFlight := y.inFlight.map fun f => { f with halted := true }
    reply := none }) replied

/-- Every line on entry into STOPPING (R155).  That the lines follow one another in ascending number is the model's choice
(notes/assumptions/22.md). -/
def talkbackStop (s : Block) : Block := allLines.foldl (fun t l => stopQueries l t) s

/-- Every line, and the TALKBACK client, on entry into HALTED (R156). -/
def talkbackHalt (s : Block) : Block := { allLines.foldl (fun t l => haltQueries l t) s with talkback := [] }

/-- When RUN is cleared in HALTED no line holds a query: one in flight is gone, its completion having no place to go, and the
transmitter ends the frame it is sending (R156, R115, notes/assumptions/13.md). -/
def forgetQueries (s : Block) : Block := { s with lines := mapAll s.lines fun x => { x with inFlight := none } }

end Sys2Proof.Machine
end

