-- ==== Sys2Proof/Machine/Triggers.lean ====
section
/-! DEFINITION. The trigger unit (10_local_outputs_and_trigger_inputs.md, R163 to R168). -/

namespace Sys2Proof.Machine

/-- Whether an edge select enables an edge to a level (R165). -/
def EdgeSelect.enables (e : EdgeSelect) (rising : Bool) : Bool :=
  match e with
  | .none => false
  | .rising => rising
  | .falling => !rising
  | .both => true

/-- The action of an accepted edge (R23, R166). -/
def performAction (t : Fin 8) (r : TriggerRecord) (s : Block) : Block :=
  match r.action with
  | .note => s
  | .go => arriveQueued r.playback (.trigger t) (.go r.bank r.cue r.time) s
  | .goNext => arriveQueued r.playback (.trigger t) (.goNext (some r.bank)) s
  | .pause => arriveQueued r.playback (.trigger t) .pause s
  | .resume => arriveQueued r.playback (.trigger t) .resume s
  | .release => arriveRelease r.playback (.trigger t) r.time s
  | .blackoutToggle => toggleBlackout s

/-- An edge is examined: an accepted one is counted, raises TRIGGER, and performs its action while the engine is RUNNING (R165). -/
def examineEdge (t : Fin 8) (level : Bool) (s : Block) : Block :=
  let r := (triggerOf s t).record
  if r.edge.enables level then
    let accepted := raiseInt .trigger (modTrigger t (fun g => { g with accepted := countUp g.accepted }) s)
    if s.engine.state = .running then performAction t r accepted else accepted
  else s

/-- A level settles, the debounce timer stopped, and its edge is examined (R164). -/
def settle (t : Fin 8) (level : Bool) (s : Block) : Block :=
  examineEdge t level (modTrigger t (fun g => { g with settled := level, timer := none }) s)

/-- A trigger pin changes to a level, while the unit reads its pins (R164). -/
def pinChanges (t : Fin 8) (level : Bool) (s : Block) : Block :=
  let g := triggerOf s t
  let moved := modTrigger t (fun g => { g with pin := level }) s
  if level = g.pin then s
  else if level = g.settled then modTrigger t (fun g => { g with timer := none }) moved
  else if g.record.debounce = 0 then settle t level moved
  else modTrigger t (fun g => { g with timer := some (s.time.clock + BitVec.ofNat 32 g.record.debounce) }) moved

/-- A debounce timer expires, the pin having held its level (R164). -/
def debounceEnds (t : Fin 8) (s : Block) : Block := settle t (triggerOf s t).pin s

/-- Every settled level is taken from its pin, and no edge is counted (R163). -/
def takeSettled (s : Block) : Block := { s with triggers := mapAll s.triggers fun g => { g with settled := g.pin } }

/-- A SET TRIGGER arrives (R167). -/
def arriveSetTrigger (t : Fin 8) (slot : Fin 32) (edge debounce action playback bank cue time : Word) (s : Block) : Block :=
  match triggerRecordOf edge debounce action playback bank cue time with
  | .error n => complete slot .badParam (BitVec.ofNat 32 n) 0 0 s
  | .ok r =>
    let g := triggerOf s t
    complete slot .ok (BitVec.ofNat 32 g.accepted) (BitVec.ofNat 32 g.dropped) 0
      (modTrigger t (fun g => { g with record := r, timer := none, settled := g.pin }) s)

end Sys2Proof.Machine
end

