-- ==== Sys2Proof/Machine/Timebase.lean ====
section
/-! DEFINITION. The time base: SET FRAME, the install of frame values, and the tick (06_frame_timing_and_the_show_clock.md, R99 to
R110). -/

namespace Sys2Proof.Machine

/-- The part with the time base changed. -/
def modTime (f : TimeBase → TimeBase) (s : Block) : Block := { s with time := f s.time }

/-- A tick of the millisecond base: the show clock counts up and wraps (R101). -/
def tick (s : Block) : Block := modTime (fun t => { t with clock := t.clock + 1 }) s

/-- The three parameters of a SET FRAME, checked in order (R108). -/
def frameValuesOf (period scan status : Word) : Checked FrameValues := do
  let p ← orNumber 1 (ranged period 4000 100000)
  let k ← orNumber 2 (ranged scan 1 8)
  let n ← orNumber 3 (ranged status 0 255)
  return ⟨p, k, n⟩

/-- The lowest-numbered line whose configuration, as the next boundary leaves it, does not fit a period (R107, R108). -/
def misfit (period : Nat) (s : Block) : Option (Fin 4) := allLines.find? fun l => !fits (checkedConfig (lineOf s l)) period

/-- A SET FRAME that passes its checks supersedes a pending one and becomes the owner of the pending frame values (R108, R109). -/
def placeFrame (slot : Fin 32) (v : FrameValues) (s : Block) : Block :=
  let superseded :=
    match s.time.pending with
    | some (_, owner) => completePlain owner .cancelled s
    | none => s
  modTime (fun t => { t with pending := some (v, slot) }) superseded

/-- A SET FRAME arrives (R108, R109). -/
def arriveSetFrame (slot : Fin 32) (period scan status : Word) (s : Block) : Block :=
  match frameValuesOf period scan status with
  | .error n => complete slot .badParam (BitVec.ofNat 32 n) 0 0 s
  | .ok v =>
    match misfit v.period s with
    | some l =>
      complete slot .budget (BitVec.ofNat 32 l.val) (BitVec.ofNat 32 (smallestPeriod (checkedConfig (lineOf s l)))) 0 s
    | none => placeFrame slot v s

/-- Pending frame values are installed at an expiry, and their SET FRAME completes OK (R104). -/
def installFrame (s : Block) : Block :=
  match s.time.pending with
  | some (v, owner) =>
    complete owner .ok (BitVec.ofNat 32 v.period) 0 0 (modTime (fun t => { t with inForce := v, pending := none }) s)
  | none => s

/-- Pending frame values are removed, and their SET FRAME completes CANCELLED (R110). -/
def dropPendingFrame (s : Block) : Block :=
  match s.time.pending with
  | some (_, owner) => completePlain owner .cancelled (modTime (fun t => { t with pending := none }) s)
  | none => s

/-- The expiry of the frame timer at the time base: install, reload, count (R104). -/
def frameExpires (s : Block) : Block :=
  modTime (fun t => { t with countdown := t.inForce.period, frames := t.frames + 1 }) (installFrame s)

end Sys2Proof.Machine
end

