-- ==== Sys2Proof/Machine/Scanner.lean ====
section
/-! DEFINITION. The dispatch of requests, the request scanner and the result writer
(11_the_post_table_results_and_status_page.md, R170 to R176). -/

namespace Sys2Proof.Machine

/-! ### Dispatch by kind (R174) -/

/-- A request whose kind names a target goes to its owner, or completes BAD_TARGET (R174). -/
def withTarget (n : Nat) (slot : Fin 32) (w : Word) (f : Fin n → Block → Block) (s : Block) : Block :=
  match target n w with
  | some t => f t s
  | none => completePlain slot .badTarget s

def dispatchSetLine (slot : Fin 32) (line mode rate count talkback base timeout action : Word) (s : Block) : Block :=
  withTarget 4 slot line (fun l => arriveSetLine l slot mode rate count talkback base timeout action) s

def dispatchSetTrigger (slot : Fin 32) (trigger edge debounce action playback bank cue time : Word) (s : Block) : Block :=
  withTarget 8 slot trigger (fun t => arriveSetTrigger t slot edge debounce action playback bank cue time) s

def dispatchClearLine (slot : Fin 32) (line : Word) (s : Block) : Block :=
  withTarget 4 slot line (fun l => arriveClearLine l slot) s

def dispatchQuery (slot : Fin 32) (line address code count bytes0 bytes4 reply : Word) (s : Block) : Block :=
  withTarget 4 slot line (fun l => arriveQuery l slot address code count bytes0 bytes4 reply) s

def dispatchGo (slot : Fin 32) (playback bank cue time : Word) (s : Block) : Block :=
  withTarget 8 slot playback (fun p => arriveQueued p (.post slot) (.go bank.toNat cue.toNat (optionalWord time))) s

def dispatchGoNext (slot : Fin 32) (playback bank : Word) (s : Block) : Block :=
  withTarget 8 slot playback (fun p => arriveQueued p (.post slot) (.goNext (optionalWord bank))) s

def dispatchPause (slot : Fin 32) (playback : Word) (s : Block) : Block :=
  withTarget 8 slot playback (fun p => arriveQueued p (.post slot) .pause) s

def dispatchResume (slot : Fin 32) (playback : Word) (s : Block) : Block :=
  withTarget 8 slot playback (fun p => arriveQueued p (.post slot) .resume) s

def dispatchRelease (slot : Fin 32) (playback time : Word) (s : Block) : Block :=
  withTarget 8 slot playback (fun p => arriveRelease p (.post slot) (optionalWord time)) s

def dispatchSetMaster (slot : Fin 32) (playback level time : Word) (s : Block) : Block :=
  withTarget 8 slot playback (fun p => arriveSetMaster p slot level time) s

/-- The request in words 1 to 11 of a slot goes to its owner by its kind, or completes BAD_KIND (R174). -/
def dispatch (slot : Fin 32) (words : List Word) (s : Block) : Block :=
  let t := wordAt words 2
  let p := fun k : Nat => wordAt words (k + 2)
  match (wordAt words 0).toNat with
  | 1 => arriveSetFrame slot (p 1) (p 2) (p 3) s
  | 2 => dispatchSetLine slot t (p 1) (p 2) (p 3) (p 4) (p 5) (p 6) (p 7) s
  | 3 => arriveSetOutputs slot (p 1) (p 2) (p 3) s
  | 4 => dispatchSetTrigger slot t (p 1) (p 2) (p 3) (p 4) (p 5) (p 6) (p 7) s
  | 5 => arrivePatch slot (p 1) (p 2) s
  | 6 => arriveCurve slot (p 1) (p 2) s
  | 7 => arriveSetGrand slot (p 1) (p 2) s
  | 8 => arriveBlackout slot (p 1) s
  | 9 => arriveSnapshot slot (p 1) s
  | 10 => dispatchClearLine slot t s
  | 11 => dispatchQuery slot t (p 1) (p 2) (p 3) (p 4) (p 5) (p 6) s
  | 12 => dispatchGo slot t (p 1) (p 2) (p 3) s
  | 13 => dispatchGoNext slot t (p 1) s
  | 14 => dispatchPause slot t s
  | 15 => dispatchResume slot t s
  | 16 => dispatchRelease slot t (p 1) s
  | 17 => dispatchSetMaster slot t (p 1) (p 2) s
  | _ => completePlain slot .badKind s

/-! ### The scan (R171, R172) -/

/-- The part with the scanner changed. -/
def modScanner (f : Scanner → Scanner) (s : Block) : Block := { s with scanner := f s.scanner }

/-- A scan starts: the state row is read (R172). -/
def startScan (s : Block) : Block :=
  ask .scanner (.read s.anchor.postTable (burstLength s.anchor.slots)) (modScanner (fun x => { x with step := .row [] }) s)

/-- A scan falls due (R171). -/
def scanDue (s : Block) : Block :=
  if s.scanner.step = .idle then startScan s else modScanner (fun x => { x with scanPending := true }) s

/-- A scan ends: a pending one starts at once while the engine is RUNNING, and the flag is cleared (R171). -/
def endScan (s : Block) : Block :=
  let idle := modScanner (fun x => { x with step := .idle, scanPending := false }) s
  if s.scanner.scanPending = true ∧ s.engine.state = .running then startScan idle else idle

/-- The claim of a slot: TAKEN over POSTED (R172, R183). -/
def claimTenure (a : Anchor) (i : Fin 32) : TenureKind := .modify (stateWordAddress a i) slotPosted slotTaken

/-- The scan goes on to the next slot of `rest`, `taken` slots having been taken; slots that hold a place are passed over, and the scan
ends when none is left, after the eighth take, with fewer than 9 free places, or when the engine has left RUNNING (R172, R173). -/
def visit (taken : Nat) (s : Block) : List (Fin 32) → Block
  | [] => endScan s
  | i :: rest =>
    if s.engine.state ≠ .running ∨ Config.scanTakes ≤ taken then endScan s
    else if holdsPlace i s then visit taken s rest
    else if freePlaces s < Config.scanFreePlaces then endScan s
    else ask .scanner (claimTenure s.anchor i) (modScanner (fun x => { x with step := .claim i rest taken }) s)

/-- The slots whose state word read POSTED, in ascending index (R172). -/
def postedSlots (row : List Word) : List (Fin 32) :=
  (List.range 32).filterMap fun k => if row[k]? = some slotPosted then some (Fin.ofNat 32 k) else none

/-- A burst of the state row has been read (R172). -/
def rowRead (row words : List Word) (s : Block) : Block :=
  let all := row ++ words
  if all.length < s.anchor.slots ∧ s.engine.state = .running then
    ask .scanner (.read (wordOffset s.anchor.postTable all.length) (burstLength (s.anchor.slots - all.length)))
      (modScanner (fun x => { x with step := .row all }) s)
  else visit 0 s (postedSlots all)

/-- A claim has ended, having read `value` (R172); in STOPPING a slot it took completes CANCELLED (R173).  The body is read in a
tenure of its own, and what the host changes in it from here on does not reach the request (R170). -/
def claimDone (i : Fin 32) (rest : List (Fin 32)) (taken : Nat) (value : Word) (s : Block) : Block :=
  if value = slotPosted then
    let reserved := reservePlace i s
    if s.engine.state = .running then
      ask .scanner (.read (bodyWordAddress s.anchor i 1) requestWords)
        (modScanner (fun x => { x with step := .body i rest (taken + 1) (requestOf s.anchor i s.mem) }) reserved)
    else endScan (completePlain i .cancelled reserved)
  else visit taken s rest

/-- The body of a slot taken has been read: its request is dispatched, or in STOPPING completes CANCELLED (R172, R173).  Of the words
read, those that the host has changed since the claim do not reach the request (R170), so it is `request`. -/
def bodyDone (i : Fin 32) (rest : List (Fin 32)) (taken : Nat) (request : List Word) (s : Block) : Block :=
  if s.engine.state = .running then visit taken (dispatch i request s) rest
  else endScan (completePlain i .cancelled s)

/-- A tenure of the scanner has ended Done (R172). -/
def scannerDone (words : List Word) (s : Block) : Block :=
  match s.scanner.step with
  | .idle => s
  | .row row => rowRead row words s
  | .claim i rest taken => claimDone i rest taken (wordAt words 0) s
  | .body i rest taken request => bodyDone i rest taken request s

/-- A tenure of the scanner has faulted: a slot whose body was being read completes BUS_FAULT, or CANCELLED in STOPPING, and the scan
ends (R173). -/
def scannerFault (s : Block) : Block :=
  match s.scanner.step with
  | .body i _ _ _ => endScan (completePlain i (if s.engine.state = .stopping then .cancelled else .busFault) s)
  | _ => endScan s

/-- The scanner's end on entry into HALTED (R173). -/
def scannerHalt (s : Block) : Block :=
  let idle := modScanner (fun x => { x with step := .idle, scanPending := false }) s
  match s.scanner.step with
  | .body i _ _ _ => completePlain i .busFault idle
  | _ => idle

/-- The scan countdown at a boundary, which has installed new frame values or not (R105, R171). -/
def countScan (installed : Bool) (s : Block) : Block :=
  let counts := s.engine.state = .running
  let n := s.scanner.countdown
  let due := decide counts && decide (n = 1)
  let next := if due || installed then s.time.inForce.scan else if counts then n - 1 else n
  let counted := modScanner (fun x => { x with countdown := next }) s
  if due then scanDue counted else counted

/-! ### The result writer (R176) -/

/-- The part with the writer at a step. -/
def setWriter (w : WriterStep) (s : Block) : Block := { s with results := { s.results with writer := w } }

/-- A burst of the result writer has ended Done: after the values DONE is written, and after DONE the head leaves the queue (R176). -/
def resultsDone (s : Block) : Block :=
  match s.results.writer, s.results.queue with
  | .values, c :: _ => ask .results (doneBurst s.anchor c) (setWriter .done s)
  | .done, _ :: rest =>
    startWriter (raiseInt .requestDone { s with results := { s.results with queue := rest, writer := .idle } })
  | _, _ => s

/-- A burst of the result writer has faulted: it waits for a boundary (R176). -/
def resultsFault (s : Block) : Block := setWriter .waiting s

/-- A frame boundary ends the writer's wait (R176). -/
def resultsBoundary (s : Block) : Block :=
  if s.results.writer = .waiting then startWriter (setWriter .idle s) else s

/-- The result writer on entry into HALTED: the queue is emptied with its reservations (R176). -/
def resultsHalt (s : Block) : Block := { s with results := ⟨[], [], .idle⟩ }

end Sys2Proof.Machine
end

