-- ==== Sys2Proof/Machine/Engine.lean ====
section
/-! DEFINITION. The engine controller: start, stop, halt and resets (13_engine_control_and_the_register_window.md, R190 to R195;
03, R62, R63; 12, R187). -/

namespace Sys2Proof.Machine

/-- The part with the engine controller changed. -/
def modEngine (f : Engine → Engine) (s : Block) : Block := { s with engine := f s.engine }

/-- The part with the memory port changed. -/
def modPort (f : Port → Port) (s : Block) : Block := { s with port := f s.port }

/-! ### Starting (R192, R169, R62, R63) -/

/-- Words of the anchor block (R169). -/
def anchorWords : Nat := 21

/-- The engine enters STARTING (R192, R67): the anchor read begins. -/
def enterStarting (s : Block) : Block :=
  ask .scanner (.read s.anchorReg Config.burst) { s with
    engine := { s.engine with state := .starting, fault := .none, start := .anchor [], aborting := false }
    port := { s.port with consecutive := 0 }
    mixer := { s.mixer with takeStamp := 1, pass := s.mixer.pass.map fun l => { l with restarted := true } }
    store := { s.store with hold := false, complete := false } }

/-- STOPPED is left for STARTING when RUN is 1 and clock ready is TRUE (R192). -/
def startIfSet (s : Block) : Block :=
  if s.engine.state = .stopped ∧ s.control.run = true ∧ s.time.ready = true then enterStarting s else s

/-- The engine enters STOPPED, and goes on to STARTING when RUN is still 1 (R192). -/
def enterStopped (s : Block) : Block :=
  startIfSet (modEngine (fun e => { e with state := .stopped, start := .idle, aborting := false }) s)

/-- A start ends with ANCHOR_BAD: RUN is cleared and FAULT raised (R192). -/
def anchorBad (s : Block) : Block :=
  raiseInt .fault { s with
    control := { s.control with run := false }
    engine := { s.engine with state := .stopped, fault := .anchorBad, start := .idle } }

/-- The engine enters RUNNING: both countdowns are loaded (R171, R177, R192). -/
def enterRunning (s : Block) : Block :=
  { s with
    engine := { s.engine with state := .running, start := .idle }
    scanner := { s.scanner with countdown := s.time.inForce.scan }
    status := { s.status with countdown := s.time.inForce.status } }

/-- The sweep's read-modify-write of a bank's lock word (R62). -/
def sweepTenure (s : Block) (bank : Nat) : TenureKind := .modify (bankBase s bank) lockPart lockFree

/-- The sweep goes on with bank `bank`, or is complete and the engine enters RUNNING (R62). -/
def sweepFrom (bank : Nat) (s : Block) : Block :=
  if bank < s.anchor.bankCount then
    ask .loader (sweepTenure s bank) (modEngine (fun e => { e with start := .sweep bank }) s)
  else enterRunning s

/-- A sweep that has freed a lock word counts it (R62). -/
def countSweep (s : Block) : Block := { s with loader := { s.loader with sweeps := countUp s.loader.sweeps } }

/-- A burst of the anchor block has been read (R169). -/
def anchorRead (before words : List Word) (s : Block) : Block :=
  let all := before ++ words
  if all.length < anchorWords then
    ask .scanner (.read (wordOffset s.anchorReg all.length) (burstLength (anchorWords - all.length)))
      (modEngine (fun e => { e with start := .anchor all }) s)
  else if anchorOk all then sweepFrom 0 { s with anchor := anchorOf all }
  else anchorBad s

/-- A tenure of a start has ended Done (R62, R169). -/
def startDone (words : List Word) (s : Block) : Block :=
  match s.engine.start with
  | .idle => s
  | .anchor before => anchorRead before words s
  | .sweep bank => sweepFrom (bank + 1) (if wordAt words 0 = lockPart then countSweep s else s)

/-- A tenure of a start has faulted: the anchor read ends the start, and the sweep goes on with the next bank (R63, R192).
DESIGN CHOICE (unsafe): a sweep's tenure that read PART and faulted on its write, which may have landed, is not counted in the lock sweep
count (notes/assumptions/38.md). -/
def startFault (s : Block) : Block :=
  match s.engine.start with
  | .idle => s
  | .anchor _ => anchorBad s
  | .sweep bank => sweepFrom (bank + 1) s

/-- RUN is cleared in STARTING: a REQUESTING tenure ends at once and the engine enters STOPPED; a TRANSFERRING one, `done` of its words
done, completes the next, the engine entering STOPPED at its end (R187, R192, notes/assumptions/10.md).  Waiting requests are withdrawn.
A tenure that an abort already waits for stands as it is. -/
def abortStart (done : Nat) (s : Block) : Block :=
  if s.port.state = .transferring then
    let held := fun p : Port => if s.engine.aborting then p else p.reach done s.mem
    modEngine (fun e => { e with aborting := true }) (modPort (fun p => (held p).withdraw) s)
  else enterStopped (modPort (fun p => p.withdraw.release) s)

/-! ### Stopping (R193) -/

/-- The engine enters STOPPING (R193): each block ends its work, in the order of the rule. -/
def enterStopping (s : Block) : Block :=
  let stopping := modEngine (fun e => { e with state := .stopping }) s
  let stopped := dropPendingLines (dropPendingFrame (talkbackStop (tablesStop (clearPlaybacks stopping))))
  modStore (fun f => { f with hold := true }) (statusStop stopped)

/-- What STOPPING waits for (R193). -/
def drained (s : Block) : Bool :=
  s.scanner.step == .idle
    && allPlaybacks.all (fun p => (playbackOf s p).load == .none) && s.loader.current.isNone
    && s.tables.reader.isNone
    && allLines.all (fun l => (lineOf s l).inFlight.isNone && (lineOf s l).reply.isNone)
    && s.status.page.isNone && s.status.snapshot.isNone
    && s.results.queue.isEmpty && s.results.reserved.isEmpty

/-! ### HALTED (R194) -/

/-- The blocks end their memory work on entry into HALTED, the engine already HALTED (R25, R60, R98, R156, R173, R176, R178, R180,
R189, R194). -/
def enterHalted (s : Block) : Block :=
  let reported := raiseInt .fault { s with
    engine := { s.engine with state := .halted, fault := .busHalt, start := .idle, aborting := false }
    port := s.port.withdraw }
  resultsHalt (statusHalt (talkbackHalt (tablesHalt (loaderHalt (scannerHalt reported)))))

/-- RUN is written 0 in HALTED: every playback is cleared and pending values are removed, with no result written, every line holds no
query from then on, and the engine enters STOPPED (R156, R194). -/
def leaveHalted (s : Block) : Block := enterStopped (forgetQueries (dropPendingLines (dropPendingFrame (clearPlaybacks s))))

/-! ### CONTROL (R190, R191) -/

/-- The read/write fields of a word written to CONTROL (R190). -/
def controlOf (v : Word) : Control := ⟨v.getLsbD 0, v.getLsbD 1, v.getLsbD 2, (v >>> 4).setWidth 3⟩

/-- A write of CONTROL with SOFT_RESET 0: every field takes its value, and RUN acts on the engine; `done` words of a granted tenure are
done when it falls (R187, R191 to R194). -/
def writeControl (v : Word) (done : Nat) (s : Block) : Block :=
  let written := { s with control := controlOf v }
  match s.engine.state, v.getLsbD 0 with
  | .stopped, true => startIfSet written
  | .starting, false => abortStart done written
  | .running, false => enterStopping written
  | .halted, false => leaveHalted written
  | _, _ => written

/-! ### Resets (R182, R195) -/

/-- How far a tenure's words have come when `landed` words of its write have reached memory: a read-modify-write has its read before
them (R182, R183). -/
def TenureKind.cutAt (k : TenureKind) (landed : Nat) : Nat :=
  match k with
  | .modify _ _ _ => landed + 1
  | .read _ _ => landed
  | .write _ _ => landed

/-- Whether a tenure is the release write of a lock word, which is the only write of the LOADER client (R49, R56, R57, R62). -/
def Tenure.isRelease (t : Tenure) : Bool :=
  match t.client, t.kind with
  | .loader, .write _ _ => true
  | _, _ => false

/-- The memory after a reset cuts the tenure in hand, `landed` words of its write having reached memory (R182); a tenure that an abort
waits for has no more than its word in progress (R187).  A release write cut leaves the lock word as it stands, PART (R61; that R61
decides what R182 leaves open there is DEDUCED, notes/assumptions/37.md). -/
def cutMemory (landed : Nat) (s : Block) : Memory :=
  match s.port.state, s.port.current with
  | .transferring, some t =>
    let n := t.kind.cutAt landed
    if t.isRelease then s.mem else performWords t.kind (if s.engine.aborting then t.lastWord n else n) s.mem
  | _, _ => s.mem

/-- A cold reset is applied (R195): the memory and the pins stand outside the part. -/
def coldReset (landed : Nat) (s : Block) : Block :=
  { Block.reset with
    engine := { Block.reset.engine with phase := .cold }
    mem := cutMemory landed s
    triggers := mapAll s.triggers fun g => { Trigger.reset with pin := g.pin, settled := g.pin } }

/-- A warm reset is applied, with its cause (R195); the values of the anchor block stay until the next anchor read that passes
(R169). -/
def warmReset (cause : ResetCause) (landed : Nat) (s : Block) : Block :=
  { Block.reset with
    anchorReg := s.anchorReg
    anchor := s.anchor
    engine := ⟨.stopped, cause, .none, .warm, .idle, false⟩
    time := ⟨s.time.ready, 0, s.time.inForce, none, s.time.inForce.period, 0⟩
    mem := cutMemory landed s
    mixer := { Mixer.reset with patch := s.mixer.patch, owners := s.mixer.owners, curves := s.mixer.curves }
    lines := mapAll s.lines fun x => { Line.reset with config := x.config }
    outputs := { LocalOutputs.reset with config := s.outputs.install.config }
    triggers := mapAll s.triggers fun g => { Trigger.reset with record := g.record, pin := g.pin, settled := g.pin } }

/-- Counting begins: the frame countdown is loaded, the period counter is 0, and the trigger unit takes its pins (R100, R103, R158,
R163). -/
def beginCounting (s : Block) : Block :=
  takeSettled { s with
    time := { s.time with countdown := s.time.inForce.period }
    outputs := { s.outputs with counter := 0 } }

/-- An applied reset is released: drivers take their rest level, and counting begins when the clocks run (R100, R125, R195). -/
def releaseReset (s : Block) : Block :=
  let released := { modEngine (fun e => { e with phase := .released }) s with
    lines := mapAll s.lines fun x => { x with driver := restDriver x.config } }
  if s.time.ready then beginCounting released else released

/-- The PLL locks (R99, R192): the clocks begin, and a set RUN starts the engine.  While a warm reset is applied only the flag
changes (notes/assumptions/19.md). -/
def clockLocks (s : Block) : Block :=
  let ready := modTime (fun t => { t with ready := true }) s
  if live s then startIfSet (beginCounting ready) else ready

end Sys2Proof.Machine
end

