-- ==== Sys2Proof/Machine/Port.lean ====
section
/-! DEFINITION. The memory port's tenures: grant, end, fault and the run of faults that halts the engine (12_the_memory_port.md, R182
to R189). -/

namespace Sys2Proof.Machine

/-- MGNT is sampled asserted: other masters' stores are in memory, and the tenure proceeds with the wait states now in CONTROL.WAIT
(R184, notes/assumptions/3.md).  The host's changes to a slot already claimed do not reach its request (R170), which the scanner
holds. -/
def grant (stores : List (Word × Word)) (s : Block) : Block :=
  { s with
    mem := s.mem.storeAll stores
    port := { s.port with state := .transferring, waits := s.control.wait } }

/-- A client is handed the outcome Done with the words read (R183); in STARTING the SCANNER and LOADER clients serve the start
(R188). -/
def clientDone (c : Client) (words : List Word) (s : Block) : Block :=
  match c with
  | .scanner => if s.engine.state = .starting then startDone words s else scannerDone words s
  | .results => resultsDone s
  | .loader => if s.engine.state = .starting then startDone words s else loaderDone words s
  | .tables => tablesDone words s
  | .talkback => endReply .ok s
  | .status => statusDone s

/-- Whether a read-modify-write of the loader had read FREE before its fault (R58). -/
def readFree (words : List Word) : Bool := decide (words = [lockFree])

/-- A client is handed a fault with the words read before it (R183). -/
def clientFault (c : Client) (words : List Word) (s : Block) : Block :=
  match c with
  | .scanner => if s.engine.state = .starting then startFault s else scannerFault s
  | .results => resultsFault s
  | .loader => if s.engine.state = .starting then startFault s else loaderFault (readFree words) s
  | .tables => tablesFault s
  | .talkback => endReply .busFault s
  | .status => statusFault s

/-- The arbiter serves the next waiting client of an IDLE port (R188). -/
def serveNext (s : Block) : Block := modPort Port.arbitrate s

/-- The part with the first `n` words of a tenure performed: they are in memory, and a request the scanner has still to read has the part's
own stores (R170, R183, notes/assumptions/34.md). -/
def perform (k : TenureKind) (n : Nat) (s : Block) : Block :=
  { s with
    mem := performWords k n s.mem
    scanner := { s.scanner with step := s.scanner.step.withOwnStores s.anchor k n s.mem } }

/-- A tenure ends Done: its words are performed, the count of consecutive faults becomes 0, the client is handed the outcome, and the
arbiter serves the next (R184, R188, R189). -/
def endDone (t : Tenure) (s : Block) : Block :=
  let whole := t.reach (tenureLength t.kind s.mem) s.mem
  serveNext (clientDone t.client (whole.wordsRead s.mem)
    { perform whole.kind whole.done s with port := { s.port.release with consecutive := 0 } })

/-- The count of consecutive faults after one more (R182, R189). -/
def oneMoreFault (n : Nat) : Nat := min Config.faultLimit (n + 1)

/-- The part after a tenure that faulted at the words it has done has been counted and the port released; `landed` says whether the
faulted word of a write reached memory (R185, R186, R189, notes/assumptions/4.md). -/
def countFault (t : Tenure) (landed : Bool) (s : Block) : Block :=
  { perform t.kind (t.done + bit landed) s with
    port := { s.port.release with
      consecutive := oneMoreFault s.port.consecutive
      faults := countUp s.port.faults } }

/-- A tenure ends BUS_TIMEOUT or BUS_ERROR.  At the third fault in a row the engine is HALTED: the client takes its fault first, and
then every block ends its memory work; otherwise the arbiter serves the next client (R189, R194).  A fault in the tenure that an abort
of a start waits for ends the start (R187). -/
def endFaulted (t : Tenure) (done : Nat) (landed : Bool) (s : Block) : Block :=
  let stopped := t.underWay done s.mem
  let words := stopped.wordsRead s.mem
  let counted := countFault stopped landed s
  if counted.port.consecutive = Config.faultLimit then
    enterHalted (clientFault t.client words (modEngine (fun e => { e with state := .halted }) counted))
  else if s.engine.aborting then enterStopped counted
  else serveNext (clientFault t.client words counted)

/-- No grant came in time: no word has been transferred (R185). -/
def grantTimesOut (s : Block) : Block :=
  match s.port.current with
  | some t => endFaulted t 0 false s
  | none => s

/-- A tenure that an abort of a start waits for ends, `done` words completed, none of them begun after the abort: it is no fault, and a
sweep that has freed its lock word counts it (R62, R187, notes/assumptions/11.md).  In STARTING no scan exists (R188). -/
def endAborted (done : Nat) (s : Block) : Block :=
  match s.port.current with
  | none => s
  | some t =>
    let stopped := t.reach (t.lastWord done) s.mem
    let ended := { s with mem := performWords stopped.kind stopped.done s.mem, port := s.port.release.withdraw }
    enterStopped (if stopped.wrote then countSweep ended else ended)

/-- Whether a granted tenure is under way that runs to its own end. -/
def transferring (s : Block) : Bool := s.port.state == .transferring && !s.engine.aborting

end Sys2Proof.Machine
end

