-- ==== Sys2Proof/Machine/Registers.lean ====
section
/-! DEFINITION. The meanings of the commands that reach the engine controller and the register window: resets, clock ready, the
CONTROL rows and the other register writes (13_engine_control_and_the_register_window.md). -/

namespace Sys2Proof.Machine

/-- COLD_RESET: power-on reset is applied, in any state (R195). -/
def execColdReset (landed : Nat) (s : State) : Host.Outcome State Fault Refusal := answer true (coldReset landed) s

/-- RESET_PIN: a warm reset with cause PIN (R195); while a cold reset is applied it adds nothing (notes/assumptions/19.md). -/
def execResetPin (landed : Nat) (s : State) : Host.Outcome State Fault Refusal :=
  answer (s.block.engine.phase != .cold) (warmReset .pin landed) s

/-- SOFT_RESET: a CONTROL write with SOFT_RESET 1; the other fields are not kept (R191). -/
def execSoftReset (_value : Word) (landed : Nat) (s : State) : Host.Outcome State Fault Refusal :=
  answer (live s.block) (warmReset .soft landed) s

/-- RESET_RELEASE: an applied reset is released (R195). -/
def execResetRelease (s : State) : Host.Outcome State Fault Refusal := answer (!live s.block) releaseReset s

/-- CLOCK_READY: the PLL locks after the release of a cold reset (R99). -/
def execClockReady (s : State) : Host.Outcome State Fault Refusal :=
  answer (s.block.engine.phase != .cold && !s.block.time.ready) clockLocks s

/-- A word with its bits RUN and SOFT_RESET as a row names them (notes/assumptions/7.md). -/
def withRun (run : Bool) (v : Word) : Word := if run then (v &&& ~~~0x101#32) ||| 1#32 else v &&& ~~~0x101#32

/-- A word with SOFT_RESET 0 (notes/assumptions/7.md). -/
def withoutReset (v : Word) : Word := v &&& ~~~0x100#32

/-- RUN_SET: a CONTROL write with RUN 1 (R191, R192). -/
def execRunSet (v : Word) (s : State) : Host.Outcome State Fault Refusal :=
  answer (live s.block) (writeControl (withRun true v) 0) s

/-- RUN_CLEAR: a CONTROL write with RUN 0 (R191 to R194). -/
def execRunClear (w : ControlWrite) (s : State) : Host.Outcome State Fault Refusal :=
  answer (live s.block) (writeControl (withRun false w.value) w.done) s

/-- CONTROL_BLACKOUT: a CONTROL write, for BLACKOUT (R79, R191). -/
def execControlBlackout (w : ControlWrite) (s : State) : Host.Outcome State Fault Refusal :=
  answer (live s.block) (writeControl (withoutReset w.value) w.done) s

/-- CONTROL_HOLD: a CONTROL write, for HOLD (R116, R191). -/
def execControlHold (w : ControlWrite) (s : State) : Host.Outcome State Fault Refusal :=
  answer (live s.block) (writeControl (withoutReset w.value) w.done) s

/-- CONTROL_WAIT: a CONTROL write, for WAIT (R184, R191). -/
def execControlWait (w : ControlWrite) (s : State) : Host.Outcome State Fault Refusal :=
  answer (live s.block) (writeControl (withoutReset w.value) w.done) s

/-- STOPPING_DRAINED: everything STOPPING waits for has ended, and the engine enters STOPPED (R193). -/
def execStoppingDrained (s : State) : Host.Outcome State Fault Refusal :=
  answer (live s.block && s.block.engine.state == .stopping && drained s.block) enterStopped s

/-- ANCHOR_WRITE: taken while the engine is STOPPED (R190). -/
def execAnchorWrite (v : Word) (s : State) : Host.Outcome State Fault Refusal :=
  answer (live s.block && s.block.engine.state == .stopped) (fun b => { b with anchorReg := v }) s

/-- NUDGE: while the engine is RUNNING a scan falls due, whatever value is written (R171, R190). -/
def execNudge (_value : Word) (s : State) : Host.Outcome State Fault Refusal :=
  answer (live s.block && s.block.engine.state == .running) scanDue s

/-- INTSTATUS_WRITE: each source written 1 is cleared, but FAULT while HALTED (R194, R196). -/
def execIntstatusWrite (v : Word) (s : State) : Host.Outcome State Fault Refusal :=
  answer (live s.block) (fun b => { b with intStatus := b.intStatus &&& ~~~clearedBits v b.engine.state }) s

/-- INTMASK_WRITE (R196). -/
def execIntmaskWrite (v : Word) (s : State) : Host.Outcome State Fault Refusal :=
  answer (live s.block) (fun b => { b with intMask := v.setWidth 6 }) s

/-- REGISTER_WRITE_OTHER: a write to a read-only register or an unused offset is ignored (R190). -/
def execRegisterWriteOther (_offset _value : Word) (s : State) : Host.Outcome State Fault Refusal :=
  answer (live s.block) (fun b => b) s

end Sys2Proof.Machine
end

