-- ==== Sys2Proof/Machine/Tenures.lean ====
section
/-! DEFINITION. The meanings of the memory port's events (12_the_memory_port.md). -/

namespace Sys2Proof.Machine

/-- MGNT_GRANT: the tenure that is REQUESTING is granted (R184). -/
def execMgntGrant (stores : List (Word × Word)) (s : State) : Host.Outcome State Fault Refusal :=
  answer (live s.block && s.block.port.state == .requesting) (grant stores) s

/-- The tenure in hand ends Done. -/
def endTenure (s : Block) : Block :=
  match s.port.current with
  | some t => endDone t s
  | none => s

/-- TENURE_END: the tenure in hand ends Done (R184). -/
def execTenureEnd (s : State) : Host.Outcome State Fault Refusal :=
  answer (live s.block && transferring s.block) endTenure s

/-- GRANT_TIMEOUT: no grant 500 µs after MREQ (R185). -/
def execGrantTimeout (s : State) : Host.Outcome State Fault Refusal :=
  answer (live s.block && s.block.port.state == .requesting) grantTimesOut s

/-- The tenure in hand faults while TRANSFERRING.  One that an abort of a start waits for faults on the word that was in progress at the
abort (R187). -/
def faultTenure (done : Nat) (landed : Bool) (s : Block) : Block :=
  match s.port.current with
  | some t => endFaulted t (if s.engine.aborting then t.done else done) landed s
  | none => s

/-- READY_TIMEOUT: MRDY low for more than 64 µs in one word (R185). -/
def execReadyTimeout (done : Nat) (landed : Bool) (s : State) : Host.Outcome State Fault Refusal :=
  answer (live s.block && s.block.port.state == .transferring) (faultTenure done landed) s

/-- BUS_ERROR: MERR during a word, or MGNT lost while TRANSFERRING (R186). -/
def execBusError (done : Nat) (landed : Bool) (s : State) : Host.Outcome State Fault Refusal :=
  answer (live s.block && s.block.port.state == .transferring) (faultTenure done landed) s

/-- TENURE_ENDED: the tenure that an abort of a start waits for ends (R187). -/
def execTenureEnded (done : Nat) (s : State) : Host.Outcome State Fault Refusal :=
  answer (live s.block && s.block.port.state == .transferring && s.block.engine.aborting) (endAborted done) s

end Sys2Proof.Machine
end

