-- ==== Sys2Proof/Machine/Requests.lean ====
section
/-! DEFINITION. The meanings of the seventeen requests as they come from a post slot: the slot's claim has reserved a place of the
result queue, and the request is dispatched to its owner (11, R172, R174; notes/assumptions/6.md). -/

namespace Sys2Proof.Machine

/-- Whether the scanner's own claim of a slot is under way. -/
def claims (slot : Fin 32) (s : Block) : Bool :=
  match s.scanner.step with
  | .claim i _ _ => i == slot
  | _ => false

/-- A request can come from a slot of the post table while the engine is RUNNING, the slot holds no place of the result queue, and the
scanner is not itself claiming it (R170, R172). -/
def requestComes (slot : Fin 32) (s : Block) : Bool :=
  live s && s.engine.state == .running && decide (slot.val < s.anchor.slots) && !holdsPlace slot s && !claims slot s

/-- A request from a slot: its place is reserved, and its owner takes it. -/
def request (slot : Fin 32) (owner : Block → Block) (s : State) : Host.Outcome State Fault Refusal :=
  answer (requestComes slot s.block) (fun b => owner (reservePlace slot b)) s

/-- SET FRAME (R108). -/
def execSetFrame (slot : Fin 32) (period scan status : Word) (s : State) : Host.Outcome State Fault Refusal :=
  request slot (arriveSetFrame slot period scan status) s

/-- SET LINE (R120). -/
def execSetLine (slot : Fin 32) (line mode rate count talkback base timeout action : Word) (s : State) :
    Host.Outcome State Fault Refusal :=
  request slot (dispatchSetLine slot line mode rate count talkback base timeout action) s

/-- SET OUTPUTS (R162). -/
def execSetOutputs (slot : Fin 32) (clock modes inverts : Word) (s : State) : Host.Outcome State Fault Refusal :=
  request slot (arriveSetOutputs slot clock modes inverts) s

/-- SET TRIGGER (R167). -/
def execSetTrigger (slot : Fin 32) (trigger edge debounce action playback bank cue time : Word) (s : State) :
    Host.Outcome State Fault Refusal :=
  request slot (dispatchSetTrigger slot trigger edge debounce action playback bank cue time) s

/-- PATCH (R85). -/
def execPatch (slot : Fin 32) (address count : Word) (s : State) : Host.Outcome State Fault Refusal :=
  request slot (arrivePatch slot address count) s

/-- LOAD CURVE (R85). -/
def execLoadCurve (slot : Fin 32) (curve address : Word) (s : State) : Host.Outcome State Fault Refusal :=
  request slot (arriveCurve slot curve address) s

/-- SET GRAND (R78). -/
def execSetGrand (slot : Fin 32) (level time : Word) (s : State) : Host.Outcome State Fault Refusal :=
  request slot (arriveSetGrand slot level time) s

/-- BLACKOUT (R80). -/
def execBlackout (slot : Fin 32) (action : Word) (s : State) : Host.Outcome State Fault Refusal :=
  request slot (arriveBlackout slot action) s

/-- SNAPSHOT (R179). -/
def execSnapshot (slot : Fin 32) (address : Word) (s : State) : Host.Outcome State Fault Refusal :=
  request slot (arriveSnapshot slot address) s

/-- CLEAR LINE STATUS (R142). -/
def execClearLineStatus (slot : Fin 32) (line : Word) (s : State) : Host.Outcome State Fault Refusal :=
  request slot (dispatchClearLine slot line) s

/-- QUERY (R145). -/
def execQuery (slot : Fin 32) (line address code count bytes0 bytes4 reply : Word) (s : State) :
    Host.Outcome State Fault Refusal :=
  request slot (dispatchQuery slot line address code count bytes0 bytes4 reply) s

/-- GO (R9). -/
def execGo (slot : Fin 32) (playback bank cue time : Word) (s : State) : Host.Outcome State Fault Refusal :=
  request slot (dispatchGo slot playback bank cue time) s

/-- GO NEXT (R12). -/
def execGoNext (slot : Fin 32) (playback bank : Word) (s : State) : Host.Outcome State Fault Refusal :=
  request slot (dispatchGoNext slot playback bank) s

/-- PAUSE (R14). -/
def execPause (slot : Fin 32) (playback : Word) (s : State) : Host.Outcome State Fault Refusal :=
  request slot (dispatchPause slot playback) s

/-- RESUME (R15). -/
def execResume (slot : Fin 32) (playback : Word) (s : State) : Host.Outcome State Fault Refusal :=
  request slot (dispatchResume slot playback) s

/-- RELEASE (R16). -/
def execRelease (slot : Fin 32) (playback time : Word) (s : State) : Host.Outcome State Fault Refusal :=
  request slot (dispatchRelease slot playback time) s

/-- SET MASTER (R18). -/
def execSetMaster (slot : Fin 32) (playback level time : Word) (s : State) : Host.Outcome State Fault Refusal :=
  request slot (dispatchSetMaster slot playback level time) s

end Sys2Proof.Machine
end

