-- ==== Sys2Proof/Machine/Timers.lean ====
section
/-! DEFINITION. The meanings of the events of time: the tick, the frame boundary, mix-complete, and the expiries of the playbacks', the
mixer's and the trigger unit's timers, with the trigger pins (R20, R22, R19, R77, R67, R101, R104, R159, R164). -/

namespace Sys2Proof.Machine

/-- MILLISECOND_BASE_TICK (R101). -/
def execMillisecondBaseTick (s : State) : Host.Outcome State Fault Refusal := answer (clocked s.block) tick s

/-- A block takes the boundary as its own event; `installed` says that it has installed new frame values (06, "Who takes the frame
boundary"). -/
def takeBoundary (installed : Bool) (b : BoundaryTaker) (s : Block) : Block :=
  match b with
  | .mixer => mixerBoundary s
  | .loader => loaderBoundary s
  | .line l => lineBoundary l s
  | .scanner => countScan installed s
  | .status => countStatus installed s
  | .results => resultsBoundary s

/-- The order in which the blocks take the boundary: as the command gives it, each once, those it leaves out at the end
(notes/assumptions/5.md). -/
def boundaryOrder (order : List BoundaryTaker) : List BoundaryTaker :=
  order.eraseDups ++ List.filter (fun b => decide (b ∉ order)) BoundaryTaker.all

/-- The frame timer expires, and every block takes the boundary (R104). -/
def frameBoundary (order : List BoundaryTaker) (s : Block) : Block :=
  (boundaryOrder order).foldl (fun t b => takeBoundary s.time.pending.isSome b t) (frameExpires s)

/-- FRAME_BOUNDARY (R104). -/
def execFrameBoundary (order : List BoundaryTaker) (s : State) : Host.Outcome State Fault Refusal :=
  answer (clocked s.block) (frameBoundary order) s

/-- The pass that runs ends. -/
def endPass (s : Block) : Block :=
  match s.mixer.pass with
  | some latch => mixCompletes latch s
  | none => s

/-- MIX_COMPLETE: the pass that runs ends (R67). -/
def execMixComplete (s : State) : Host.Outcome State Fault Refusal :=
  answer (live s.block && s.block.mixer.pass.isSome) endPass s

/-- FADE_END: a fade timer that has reached its time expires, and the playback serves its queue (R20, R21). -/
def execFadeEnd (p : Fin 8) (s : State) : Host.Outcome State Fault Refusal :=
  answer (clocked s.block && timerDue s.block.time.clock (playbackOf s.block p).fadeTimer)
    (fun b => serve p (fadeEnds p b)) s

/-- FOLLOW_EXPIRY: a follow timer that has reached its deadline expires (R22). -/
def execFollowExpiry (p : Fin 8) (s : State) : Host.Outcome State Fault Refusal :=
  answer (clocked s.block && timerDue s.block.time.clock (playbackOf s.block p).followTimer)
    (fun b => serve p (followEnd p b)) s

/-- A master fade record settles, as an edit (R19). -/
def masterSettles (p : Fin 8) (s : Block) : Block :=
  edit p 0 (modPlayback p (fun x => { x with master := x.master.settle }) s)

/-- MASTER_SETTLING (R19). -/
def execMasterSettling (p : Fin 8) (s : State) : Host.Outcome State Fault Refusal :=
  answer (clocked s.block && (playbackOf s.block p).master.due s.block.time.clock) (masterSettles p) s

/-- GRAND_SETTLING (R77). -/
def execGrandSettling (s : State) : Host.Outcome State Fault Refusal :=
  answer (clocked s.block && s.block.mixer.grand.due s.block.time.clock) grandSettles s

/-- PWM_PERIOD_END: the period counter goes from 1023 back to 0 (R159). -/
def execPwmPeriodEnd (s : State) : Host.Outcome State Fault Refusal := answer (clocked s.block) periodEnds s

/-- A pin's level while the unit does not read its pins. -/
def movePin (t : Fin 8) (level : Bool) (s : Block) : Block := modTrigger t (fun g => { g with pin := level }) s

/-- TRIGGER_PIN_CHANGE: the unit takes the change while it reads its pins, and otherwise only the pin has moved (R163, R164). -/
def execTriggerPinChange (t : Fin 8) (level : Bool) (s : State) : Host.Outcome State Fault Refusal :=
  answer true (if clocked s.block then pinChanges t level else movePin t level) s

/-- DEBOUNCE_EXPIRY: a debounce timer that has reached its tick expires (R164). -/
def execDebounceExpiry (t : Fin 8) (s : State) : Host.Outcome State Fault Refusal :=
  answer (clocked s.block && timerDue s.block.time.clock (triggerOf s.block t).timer) (debounceEnds t) s

end Sys2Proof.Machine
end

