-- ==== Sys2Proof/Machine/LineEvents.lean ====
section
/-! DEFINITION. The meanings of the events of the lighting lines (07_lighting_lines_transmission.md;
08_lighting_lines_reception_and_input_layers.md; 09_talkback_queries.md). -/

namespace Sys2Proof.Machine

/-- LEVEL_FRAME_END: the check stop bit of a level frame that goes out (R115). -/
def execLevelFrameEnd (l : Fin 4) (s : State) : Host.Outcome State Fault Refusal :=
  answer (clocked s.block && inLevelFrame (lineOf s.block l)) (fun b => modLine l (levelFrameEnded b.time.clock) b) s

/-- TRAIL_END: TRAIL after a level frame ends (R115, R118). -/
def execTrailEnd (l : Fin 4) (s : State) : Host.Outcome State Fault Refusal :=
  answer (clocked s.block && (lineOf s.block l).tx == .trail) (modLine l trailEnded) s

/-- Whether a query frame is going out (R147). -/
def inQueryFrame (x : Line) : Bool :=
  match x.tx with
  | .query _ => true
  | .idle => false
  | .brk => false
  | .mark => false
  | .characters _ => false
  | .trail => false
  | .turnaround => false

/-- QUERY_FRAME_END: the last stop bit of a query frame (R147, R148). -/
def execQueryFrameEnd (l : Fin 4) (s : State) : Host.Outcome State Fault Refusal :=
  answer (clocked s.block && inQueryFrame (lineOf s.block l)) (queryFrameEnded l) s

/-- TURNAROUND_END: the driver is released after a query frame (R147, R149). -/
def execTurnaroundEnd (l : Fin 4) (s : State) : Host.Outcome State Fault Refusal :=
  answer (clocked s.block && (lineOf s.block l).tx == .turnaround) (modLine l turnaroundEnded) s

/-- REPLY_START: the first fall of a reply (R149). -/
def execReplyStart (l : Fin 4) (s : State) : Host.Outcome State Fault Refusal := answer (clocked s.block) (replyStarts l) s

/-- REPLY_START_TIMEOUT: 44 bit times with no fall (R149). -/
def execReplyStartTimeout (l : Fin 4) (s : State) : Host.Outcome State Fault Refusal :=
  answer (clocked s.block) (replyTimesOut l) s

/-- REPLY_CHARACTER: a character is taken on a talkback line (R150). -/
def execReplyCharacter (l : Fin 4) (flag : Bool) (data : Byte) (s : State) : Host.Outcome State Fault Refusal :=
  answer (clocked s.block) (talkbackCharacter l flag data) s

/-- REPLY_COLLISION: a low stop or a break in a reply (R151). -/
def execReplyCollision (l : Fin 4) (kind : CollisionKind) (s : State) : Host.Outcome State Fault Refusal :=
  answer (clocked s.block) (replyCollides l kind) s

/-- REPLY_GAP_EXPIRY: a gap expires in a reply (R150). -/
def execReplyGapExpiry (l : Fin 4) (s : State) : Host.Outcome State Fault Refusal := answer (clocked s.block) (replyGap l) s

/-- QUERY_WINDOW_END (R151). -/
def execQueryWindowEnd (l : Fin 4) (s : State) : Host.Outcome State Fault Refusal := answer (clocked s.block) (windowEnds l) s

/-- An event of the receiver: a RECEIVE or LOOP line takes it by the table of R130, and a talkback line as the same event of the reply
it is reading; no other line's receiver runs (R128, notes/assumptions/25.md). -/
def receiverEvent (l : Fin 4) (frame : Line → Line) (reply : Block → Block) (s : Block) : Block :=
  let x := lineOf s l
  if x.config.mode.receives then modLine l frame s
  else if x.config.talkback then reply s
  else s

/-- Whether a break, or the rise that ends one, can come: on a LOOP line, whose receiver reads its own transmitter, only while that sends
one (R119, R128, notes/assumptions/18.md). -/
def breakCanCome (x : Line) : Bool := x.config.mode != .loop || x.tx == .brk

/-- Whether a fall can come: on a LOOP line only within its own level frame (R119, R128, notes/assumptions/18.md). -/
def fallCanCome (x : Line) : Bool := x.config.mode != .loop || inLevelFrame x

/-- Whether a character can be taken: on a LOOP line only within its own level frame, whose check character may be taken just after the
transmitter has ended at the same stop bit (R115, R119, R128, notes/assumptions/18.md). -/
def characterCanCome (x : Line) : Bool := fallCanCome x || x.rx.state == .check || x.rx.state == .hunt

/-- Whether a low stop or a gap can come: never on a LOOP line, whose transmitter sends every stop bit high and its characters back to
back (R113, R114, R128, notes/assumptions/18.md). -/
def badCharacterCanCome (x : Line) : Bool := x.config.mode != .loop

/-- RX_BREAK: 12 bit times of low (R129, R130). -/
def execRxBreak (l : Fin 4) (s : State) : Host.Outcome State Fault Refusal :=
  answer (clocked s.block && breakCanCome (lineOf s.block l)) (receiverEvent l lineBreak (replyCollides l .low)) s

/-- RX_BREAK_END: the rise after a break (R130). -/
def execRxBreakEnd (l : Fin 4) (s : State) : Host.Outcome State Fault Refusal :=
  answer (clocked s.block && breakCanCome (lineOf s.block l)) (receiverEvent l lineBreakEnd (fun b => b)) s

/-- RX_CHARACTER: a character is taken at its high stop bit: a frame's on a RECEIVE or LOOP line, a reply's or a stray one on a
talkback line (R130, R140). -/
def execRxCharacter (l : Fin 4) (flag : Bool) (data : Byte) (s : State) : Host.Outcome State Fault Refusal :=
  answer (clocked s.block && characterCanCome (lineOf s.block l))
    (fun b => if (lineOf b l).config.mode.receives then receiveCharacter l flag data b else talkbackCharacter l flag data b) s

/-- RX_LOW_STOP: a stop bit read low, the line rising before 12 bit times (R129, R130). -/
def execRxLowStop (l : Fin 4) (s : State) : Host.Outcome State Fault Refusal :=
  answer (clocked s.block && badCharacterCanCome (lineOf s.block l)) (receiverEvent l lineLowStop (replyCollides l .framing)) s

/-- RX_GAP_EXPIRY: 33 bit times with no fall (R129, R130). -/
def execRxGapExpiry (l : Fin 4) (s : State) : Host.Outcome State Fault Refusal :=
  answer (clocked s.block && badCharacterCanCome (lineOf s.block l))
    (receiverEvent l (fun x => if x.rx.gap then lineGap x else x) (replyGap l)) s

/-- START_OF_A_LOW: a fall of the receiver's source from high to low (R129, R130). -/
def execStartOfALow (l : Fin 4) (s : State) : Host.Outcome State Fault Refusal :=
  answer (clocked s.block && fallCanCome (lineOf s.block l)) (receiverEvent l lineFall (replyStarts l)) s

/-- SIGNAL_TIMER_EXPIRY: a signal timer that has reached its time expires (R138). -/
def execSignalTimerExpiry (l : Fin 4) (s : State) : Host.Outcome State Fault Refusal :=
  answer (clocked s.block && timerDue s.block.time.clock (lineOf s.block l).signalTimer) (signalExpires l) s

end Sys2Proof.Machine
end

