-- ==== Sys2Proof/Machine/Dispatch.lean ====
section
/-! DEFINITION. The meaning of every command: one arm for each constructor of Instr. -/

namespace Sys2Proof.Machine

/-- What a command does to everything but the queue. -/
def exec (i : Instr) (s : State) : Host.Outcome State Fault Refusal :=
  match i with
  | .coldReset landed => Sys2Proof.Machine.execColdReset landed s
  | .resetPin landed => Sys2Proof.Machine.execResetPin landed s
  | .softReset value landed => Sys2Proof.Machine.execSoftReset value landed s
  | .clockReady => Sys2Proof.Machine.execClockReady s
  | .runSet value => Sys2Proof.Machine.execRunSet value s
  | .runClear write => Sys2Proof.Machine.execRunClear write s
  | .stoppingDrained => Sys2Proof.Machine.execStoppingDrained s
  | .controlBlackout write => Sys2Proof.Machine.execControlBlackout write s
  | .controlHold write => Sys2Proof.Machine.execControlHold write s
  | .controlWait write => Sys2Proof.Machine.execControlWait write s
  | .anchorWrite value => Sys2Proof.Machine.execAnchorWrite value s
  | .nudge value => Sys2Proof.Machine.execNudge value s
  | .intstatusWrite value => Sys2Proof.Machine.execIntstatusWrite value s
  | .intmaskWrite value => Sys2Proof.Machine.execIntmaskWrite value s
  | .registerWriteOther offset value => Sys2Proof.Machine.execRegisterWriteOther offset value s
  | .frameBoundary order => Sys2Proof.Machine.execFrameBoundary order s
  | .mixComplete => Sys2Proof.Machine.execMixComplete s
  | .setFrame slot period scan status => Sys2Proof.Machine.execSetFrame slot period scan status s
  | .setLine slot line mode rate count talkback base timeout action => Sys2Proof.Machine.execSetLine slot line mode rate count talkback base timeout action s
  | .setOutputs slot clock modes inverts => Sys2Proof.Machine.execSetOutputs slot clock modes inverts s
  | .setTrigger slot trigger edge debounce action playback bank cue time => Sys2Proof.Machine.execSetTrigger slot trigger edge debounce action playback bank cue time s
  | .patch slot address count => Sys2Proof.Machine.execPatch slot address count s
  | .loadCurve slot curve address => Sys2Proof.Machine.execLoadCurve slot curve address s
  | .setGrand slot level time => Sys2Proof.Machine.execSetGrand slot level time s
  | .blackout slot action => Sys2Proof.Machine.execBlackout slot action s
  | .snapshot slot address => Sys2Proof.Machine.execSnapshot slot address s
  | .clearLineStatus slot line => Sys2Proof.Machine.execClearLineStatus slot line s
  | .query slot line address code count bytes0 bytes4 reply => Sys2Proof.Machine.execQuery slot line address code count bytes0 bytes4 reply s
  | .go slot playback bank cue time => Sys2Proof.Machine.execGo slot playback bank cue time s
  | .goNext slot playback bank => Sys2Proof.Machine.execGoNext slot playback bank s
  | .pause slot playback => Sys2Proof.Machine.execPause slot playback s
  | .resume slot playback => Sys2Proof.Machine.execResume slot playback s
  | .release slot playback time => Sys2Proof.Machine.execRelease slot playback time s
  | .setMaster slot playback level time => Sys2Proof.Machine.execSetMaster slot playback level time s
  | .fadeEnd p => Sys2Proof.Machine.execFadeEnd p s
  | .followExpiry p => Sys2Proof.Machine.execFollowExpiry p s
  | .masterSettling p => Sys2Proof.Machine.execMasterSettling p s
  | .grandSettling => Sys2Proof.Machine.execGrandSettling s
  | .mgntGrant stores => Sys2Proof.Machine.execMgntGrant stores s
  | .tenureEnd => Sys2Proof.Machine.execTenureEnd s
  | .grantTimeout => Sys2Proof.Machine.execGrantTimeout s
  | .readyTimeout done landed => Sys2Proof.Machine.execReadyTimeout done landed s
  | .busError done landed => Sys2Proof.Machine.execBusError done landed s
  | .levelFrameEnd l => Sys2Proof.Machine.execLevelFrameEnd l s
  | .trailEnd l => Sys2Proof.Machine.execTrailEnd l s
  | .queryFrameEnd l => Sys2Proof.Machine.execQueryFrameEnd l s
  | .turnaroundEnd l => Sys2Proof.Machine.execTurnaroundEnd l s
  | .replyStart l => Sys2Proof.Machine.execReplyStart l s
  | .replyStartTimeout l => Sys2Proof.Machine.execReplyStartTimeout l s
  | .replyCharacter l flag data => Sys2Proof.Machine.execReplyCharacter l flag data s
  | .replyCollision l kind => Sys2Proof.Machine.execReplyCollision l kind s
  | .replyGapExpiry l => Sys2Proof.Machine.execReplyGapExpiry l s
  | .queryWindowEnd l => Sys2Proof.Machine.execQueryWindowEnd l s
  | .rxBreak l => Sys2Proof.Machine.execRxBreak l s
  | .rxBreakEnd l => Sys2Proof.Machine.execRxBreakEnd l s
  | .rxCharacter l flag data => Sys2Proof.Machine.execRxCharacter l flag data s
  | .rxLowStop l => Sys2Proof.Machine.execRxLowStop l s
  | .rxGapExpiry l => Sys2Proof.Machine.execRxGapExpiry l s
  | .signalTimerExpiry l => Sys2Proof.Machine.execSignalTimerExpiry l s
  | .pwmPeriodEnd => Sys2Proof.Machine.execPwmPeriodEnd s
  | .triggerPinChange t level => Sys2Proof.Machine.execTriggerPinChange t level s
  | .debounceExpiry t => Sys2Proof.Machine.execDebounceExpiry t s
  | .startOfALow l => Sys2Proof.Machine.execStartOfALow l s
  | .tenureEnded done => Sys2Proof.Machine.execTenureEnded done s
  | .resetRelease => Sys2Proof.Machine.execResetRelease s
  | .millisecondBaseTick => Sys2Proof.Machine.execMillisecondBaseTick s

end Sys2Proof.Machine
end

