-- ==== Sys2Proof/Safety.lean ====
section
/-! DEFINITION. What may be relied on: a command never stops the part, and the invariants that hold of every state the part reaches. -/

namespace Sys2Proof.Machine

/-- An outcome that goes on. -/
def goesOn (o : Host.Outcome State Fault Refusal) : Bool :=
  match o with
  | .next _ => true
  | .fault _ => false
  | .refused _ => false

/-- The port's current tenure is present exactly while the port is not IDLE (R182). -/
def portOk (p : Port) : Bool := p.current.isSome == (p.state != .idle)

/-- While the engine is HALTED the port is IDLE and no request waits at it (R189). -/
def haltedQuiet (s : Block) : Bool :=
  s.engine.state != .halted || (s.port.state == .idle && s.port.nextClient.isNone)

/-- Once the held edits have landed the mixer sees every playback as it is, and between passes no edit is held (R40). -/
def viewsOk (s : Block) : Bool :=
  (s.mixer.pass.isSome || s.mixer.held.isEmpty)
    && allPlaybacks.all fun p => getAt (landEdits s.mixer.views s.mixer.held) p == (playbackOf s p).view

/-- The queues hold at most the entries the manual gives them (R5, R84, R144). -/
def queuesOk (s : Block) : Bool :=
  allPlaybacks.all (fun p => decide ((playbackOf s p).queue.length ≤ Config.queuePlaces))
    && decide (s.tables.queue.length ≤ Config.queuePlaces)
    && allLines.all (fun l => decide ((lineOf s l).queries.length ≤ Config.queuePlaces))

/-- Every set and every incoming list holds its channels in strictly ascending order, so at most one entry of a channel (R28, R29). -/
def listsOk (s : Block) : Bool :=
  allPlaybacks.all fun p =>
    decide (((playbackOf s p).entries.map SetEntry.channel).Pairwise (· < ·))
      && decide (((playbackOf s p).incoming.map IncomingEntry.channel).Pairwise (· < ·))

/-- Entries in sets and incoming lists, reservations and entries awaiting landing stay within the pool (R27). -/
def poolOk (s : Block) : Bool := decide (poolHeld s + poolAwaiting s ≤ Config.poolSize)

/-- Entries of its cue that the current job has still to read (R55). -/
def CurrentLoad.entriesLeft (c : CurrentLoad) : Nat :=
  match c.stage with
  | .entries _ position => (c.header.map CueHeader.count).getD 0 - position
  | .lock => 0
  | .seekCount => 0
  | .seekDirectory _ _ => 0
  | .header _ _ _ => 0
  | .unlock => 0

/-- Entries that the loader has still to read for playback `p` (R55). -/
def entriesLeft (s : Block) (p : Fin 8) : Nat :=
  match s.loader.current with
  | some c => if c.job.playback = p then c.entriesLeft else 0
  | none => 0

/-- Each entry still to be read has a reserved one, so that an insertion always finds one (R29). -/
def entriesReserved (s : Block) : Bool := allPlaybacks.all fun p => decide (entriesLeft s p ≤ (playbackOf s p).reservation)

/-- The load state and the queue of playback `p` are those of the one job it may have in the loader: with none the queue has been served,
WAITING has a job in the loader queue, and READING the current one (R2, R7). -/
def loadOk (s : Block) (p : Fin 8) : Bool :=
  match (playbackOf s p).load with
  | .none => (playbackOf s p).queue.isEmpty
  | .waiting => s.loader.queue.any fun j => j.playback == p
  | .reading => s.loader.current.any fun c => c.job.playback == p

/-- The loads of all playbacks, and the current job's lock, held in every stage but LOCK (R48). -/
def loadsOk (s : Block) : Bool :=
  allPlaybacks.all (loadOk s) && s.loader.current.all fun c => c.lockHeld == (c.stage != .lock)

/-- The slots that hold a place of the result queue (R175). -/
def heldPlaces (s : Block) : List (Fin 32) := s.results.queue.map Completion.slot ++ s.results.reserved

/-- No slot holds two places of the result queue, and a slot being claimed holds none (R172, R175). -/
def placesOk (s : Block) : Bool :=
  decide (heldPlaces s).Nodup &&
    match s.scanner.step with
    | .claim i _ _ => !holdsPlace i s
    | _ => true

end Sys2Proof.Machine
end

