-- ==== Sys2Proof/Certificates/Slice0/Obligations.lean ====
section
/-! DEFINITION. The statements for the provers.  Throughout, `b` is the part before a command, `q` the commands that wait behind it,
and `t` the part after it.  A request's completion is written `complete slot code v1 v2 v3`, which ACompletionTakesItsReservedPlace says whole; `reservePlace slot`
is the place that the slot's claim reserves (R172). -/

open Sys2Proof Sys2Proof.Machine

/-! ### The queue of commands and the outcome of a command -/

/-- A step takes the command at the front of the queue, and an empty queue leaves the part as it is (notes/assumptions/2.md). -/
def Obligations.StepTakesTheFrontCommand : Prop :=
  (∀ (c : Instr) (b : Block) (q : List Instr), step ⟨b, c :: q⟩ = exec c ⟨b, q⟩) ∧ ∀ b : Block, step ⟨b, []⟩ = .next ⟨b, []⟩

/-- Every command answers a next state and leaves the commands that wait as they are.  That a command whose event cannot fall in the
state at hand is a command too, and answers the part as it was, is the model's own choice (notes/assumptions/1.md). -/
def Obligations.EveryCommandGoesOnAndLeavesTheQueue : Prop :=
  ∀ (c : Instr) (b : Block) (q : List Instr), ∃ t : Block, exec c ⟨b, q⟩ = .next ⟨t, q⟩

/-! ### Completions (R175, R176) -/

/-- A completion of a reserved slot joins the tail of the result queue and gives up the reservation; an idle writer that has nothing
else begins with its first burst, in RUNNING and in STOPPING; in HALTED it is discarded; and a completion without a reservation changes nothing
(notes/assumptions/12.md).  Nothing but the result queue and the port changes. -/
def Obligations.ACompletionTakesItsReservedPlace : Prop :=
  ∀ (slot : Fin 32) (code : ResultCode) (v1 v2 v3 : Word) (b : Block),
    let t := complete slot code v1 v2 v3 b
    let done : Completion := ⟨slot, code, v1, v2, v3⟩
    t = { b with results := t.results, port := t.port }
    ∧ (b.results.reserved.contains slot = false → t = b)
    ∧ (b.results.reserved.contains slot = true →
        t.results.reserved = b.results.reserved.erase slot
        ∧ (b.engine.state = .halted → t.results.queue = b.results.queue ∧ t.port = b.port)
        ∧ (b.engine.state ≠ .halted → t.results.queue = b.results.queue ++ [done])
        ∧ (b.engine.state = .running ∨ b.engine.state = .stopping → b.results.writer = .idle → b.results.queue = [] →
            t.results.writer = .values
            ∧ t.port = (ask .results (.write (bodyWordAddress b.anchor slot 12) [BitVec.ofNat 32 code.code, v1, v2, v3]) b).port)
        ∧ (b.results.writer ≠ .idle → t.results.writer = b.results.writer ∧ t.port = b.port))

/-! ### Resets and clocks (R99, R103, R158, R163, R195) -/

/-- What `State.reset` holds (R195 and the reset tables; the value of the countdown before clock ready is notes/assumptions/14.md). -/
def Obligations.ResetStateHoldsTheResetValues : Prop :=
  let b := State.reset.block
  State.reset.pending = []
  ∧ b.engine = ⟨.stopped, .powerOn, .none, .released, .idle, false⟩
  ∧ b.control = ⟨false, false, false, 0⟩ ∧ b.anchorReg = 0 ∧ b.intStatus = 0 ∧ b.intMask = 0 ∧ irqPin b = false
  ∧ readRegister 0x00 b = 0x4842F031 ∧ readRegister 0x08 b = 0
  ∧ b.time = ⟨false, 0, ⟨25000, 1, 40⟩, none, 25000, 0⟩
  ∧ b.port.state = .idle ∧ b.port.pointer = .status ∧ b.port.consecutive = 0 ∧ b.port.faults = 0 ∧ mreqPin b.port = false
  ∧ b.results = ⟨[], [], .idle⟩ ∧ b.scanner = ⟨.idle, false, 0⟩
  ∧ (∀ p, playbackOf b p = Playback.reset) ∧ poolFree b = 3072
  ∧ b.mixer.takeStamp = 1 ∧ b.mixer.blackoutRequest = false ∧ b.mixer.pass = none
  ∧ b.store.aPresented = true ∧ b.store.complete = false ∧ b.store.hold = false
  ∧ (∀ l, (lineOf b l).config = ⟨.off, .slow, 256, false, 0, 1000, .hold⟩ ∧ (lineOf b l).signal = .none)
  ∧ b.outputs.config.clock = .middle ∧ b.outputs.pending = none
  ∧ (∀ i, (triggerOf b i).record.edge = .none ∧ (triggerOf b i).accepted = 0)

/-- The memory after a reset in a state `b`, `landed` words of the write in hand having reached memory: a tenure TRANSFERRING is cut where
it stands, and nothing else is written (R182).  A write of the LOADER client is the release of
a lock word, which keeps PART (R61; that R61 decides here what R182 leaves open is notes/assumptions/37.md).  How many words of another
tenure had landed is given by the command (4.md); of a tenure that an abort of a start waits for they are no more than those done at the abort
and the one in progress then (R187). -/
def TheResetCutsTheTenure (landed : Nat) (b t : Block) : Prop :=
  (b.port.state ≠ .transferring ∨ b.port.current = none → t.mem = b.mem)
  ∧ ∀ tn, b.port.state = .transferring → b.port.current = some tn →
    let words := fun n : Nat => if b.engine.aborting then max tn.done (min n (tn.done + 1)) else n
    (∀ a n, tn.kind = .read a n → t.mem = b.mem)
    ∧ (∀ a ws, tn.kind = .write a ws → tn.client ≠ .loader → t.mem = b.mem.writeBurst a (ws.take (words landed)))
    ∧ (∀ a ws, tn.kind = .write a ws → tn.client = .loader → t.mem = b.mem)
    ∧ ∀ a expect put, tn.kind = .modify a expect put →
        t.mem = if 2 ≤ words (landed + 1) ∧ b.mem.load (wordAddress a) = expect then b.mem.store (wordAddress a) put else b.mem

/-- A cold reset, in any state, gives every item its cold reset value; the memory, but for a write that is cut, and the trigger pins stand
outside the part (R4, R64, R72, R84, R103, R125, R127, R144, R158, R163, R171, R175, R177, R182, R195; values the reset tables do not give are
notes/assumptions/14.md). -/
def Obligations.AColdResetGivesTheDefaults : Prop :=
  ∀ (landed : Nat) (b : Block) (q : List Instr), ∃ t : Block, exec (.coldReset landed) ⟨b, q⟩ = .next ⟨t, q⟩
    ∧ t.engine = ⟨.stopped, .powerOn, .none, .cold, .idle, false⟩
    ∧ t.control = ⟨false, false, false, 0⟩ ∧ t.anchorReg = 0 ∧ t.intStatus = 0 ∧ t.intMask = 0
    ∧ t.time.ready = false ∧ t.time.clock = 0 ∧ t.time.inForce = ⟨25000, 1, 40⟩ ∧ t.time.pending = none ∧ t.time.frames = 0
    ∧ t.port = Port.reset ∧ t.scanner = ⟨.idle, false, 0⟩ ∧ t.results = ⟨[], [], .idle⟩ ∧ t.status = ⟨0, 0, none, 0, none, []⟩
    ∧ (∀ p, playbackOf t p = Playback.reset) ∧ t.superseded = 0 ∧ t.loader = ⟨[], none, 0, 0⟩
    ∧ t.tables = ⟨[], none, .empty, Vector.replicate 7 .empty⟩ ∧ t.mixer = Mixer.reset ∧ t.store = FrameStore.reset
    ∧ (∀ l, lineOf t l = Line.reset) ∧ t.talkback = [] ∧ t.outputs = LocalOutputs.reset
    ∧ (∀ i, triggerOf t i = { Trigger.reset with pin := (triggerOf b i).pin, settled := (triggerOf b i).pin })
    ∧ TheResetCutsTheTenure landed b t

/-- What a warm reset with a cause clears and keeps (R195; the values of the anchor block stay until the next anchor read that passes,
R169; values the reset tables do not give are notes/assumptions/14.md). -/
def WarmResetFrom (cause : ResetCause) (landed : Nat) (b t : Block) : Prop :=
  t.engine = ⟨.stopped, cause, .none, .warm, .idle, false⟩
  ∧ t.control = ⟨false, false, false, 0⟩ ∧ t.intStatus = 0 ∧ t.intMask = 0
  ∧ t.time.clock = 0 ∧ t.time.pending = none ∧ t.time.frames = 0
  ∧ t.port = Port.reset ∧ t.scanner = ⟨.idle, false, 0⟩ ∧ t.results = ⟨[], [], .idle⟩ ∧ t.status = ⟨0, 0, none, 0, none, []⟩
  ∧ (∀ p, playbackOf t p = Playback.reset) ∧ t.superseded = 0 ∧ t.loader = ⟨[], none, 0, 0⟩
  ∧ t.tables = ⟨[], none, .empty, Vector.replicate 7 .empty⟩ ∧ t.store = FrameStore.reset ∧ t.talkback = []
  ∧ t.mixer = { Mixer.reset with patch := b.mixer.patch, owners := b.mixer.owners, curves := b.mixer.curves }
  ∧ t.time.ready = b.time.ready ∧ t.time.inForce = b.time.inForce ∧ t.anchorReg = b.anchorReg ∧ t.anchor = b.anchor
  ∧ (∀ l, lineOf t l = { Line.reset with config := (lineOf b l).config })
  ∧ t.outputs = { LocalOutputs.reset with config := b.outputs.pending.getD b.outputs.config }
  ∧ (∀ i, (triggerOf t i).record = (triggerOf b i).record ∧ (triggerOf t i).pin = (triggerOf b i).pin
      ∧ (triggerOf t i).timer = none ∧ (triggerOf t i).accepted = 0 ∧ (triggerOf t i).dropped = 0)
  ∧ TheResetCutsTheTenure landed b t

/-- RESET_PIN and SOFT_RESET apply a warm reset with their cause, a tenure in hand cut (R182, R191, R195; for a RESET pin while a cold reset is applied see
notes/assumptions/19.md). -/
def Obligations.AWarmResetClearsAndKeeps : Prop :=
  (∀ (landed : Nat) (b : Block) (q : List Instr), b.engine.phase ≠ .cold →
    ∃ t, exec (.resetPin landed) ⟨b, q⟩ = .next ⟨t, q⟩ ∧ WarmResetFrom .pin landed b t)
  ∧ ∀ (v : Word) (landed : Nat) (b : Block) (q : List Instr), b.engine.phase = .released →
    ∃ t, exec (.softReset v landed) ⟨b, q⟩ = .next ⟨t, q⟩ ∧ WarmResetFrom .soft landed b t

/-- The release of a reset sets every driver for its configuration, and with the clocks running loads the frame countdown, restarts
the period counter and takes the settled levels from the pins; the rest stays (R100, R103, R125, R158, R163). -/
def Obligations.AResetReleaseBeginsCounting : Prop :=
  ∀ (b : Block) (q : List Instr), b.engine.phase ≠ .released → ∃ t, exec .resetRelease ⟨b, q⟩ = .next ⟨t, q⟩
    ∧ t = { b with engine := { b.engine with phase := .released }, lines := t.lines, time := t.time, outputs := t.outputs,
                   triggers := t.triggers }
    ∧ (∀ l, lineOf t l = { lineOf b l with
        driver := decide ((lineOf b l).config.mode = .send) && !(lineOf b l).config.talkback })
    ∧ (b.time.ready = true →
        t.time = { b.time with countdown := b.time.inForce.period } ∧ t.outputs = { b.outputs with counter := 0 }
        ∧ ∀ i, triggerOf t i = { triggerOf b i with settled := (triggerOf b i).pin })
    ∧ (b.time.ready = false → t.time = b.time ∧ t.outputs = b.outputs ∧ t.triggers = b.triggers)

/-- A client's request is at the port: it is the tenure just begun, or it waits. -/
def Asks (c : Client) (k : TenureKind) (t : Block) : Prop :=
  t.port.current = some ⟨c, k, 0, none⟩ ∨ t.port.waitingOf c = some k

/-- The result writer has begun a completion: the burst of words 12 to 15 of its slot, the code and the three values, is asked for (R176). -/
def WritesTheValuesOf (c : Completion) (b t : Block) : Prop :=
  t.results.writer = .values
  ∧ Asks .results (.write (bodyWordAddress b.anchor c.slot 12) [BitVec.ofNat 32 c.code.code, c.v1, c.v2, c.v3]) t

/-- The engine, the part `b` before, has entered STARTING: the values of R192 stand, a pass that runs is marked so that its image will not
be complete (R67), the patch, the owner map, the curves, the masters and the held edits are as they were (R82, R91), and the SCANNER client
asks for the anchor block. -/
def TheStartIsEntered (b t : Block) : Prop :=
  t.engine = { b.engine with state := .starting, fault := .none, start := .anchor [], aborting := false }
  ∧ t.port.consecutive = 0 ∧ Asks .scanner (.read b.anchorReg 16) t
  ∧ t.mixer = { b.mixer with takeStamp := 1, pass := b.mixer.pass.map fun latch => { latch with restarted := true } }
  ∧ t.store = { b.store with hold := false, complete := false }

/-- Clock ready: the countdown is loaded, the settled levels are taken, and a set RUN in STOPPED starts the engine (R67, R99, R103, R158,
R163, R192). -/
def Obligations.ClockReadyStartsTheClocks : Prop :=
  ∀ (b : Block) (q : List Instr), b.engine.phase = .released → b.time.ready = false →
    ∃ t, exec .clockReady ⟨b, q⟩ = .next ⟨t, q⟩
      ∧ t.time = { b.time with ready := true, countdown := b.time.inForce.period }
      ∧ (∀ i, triggerOf t i = { triggerOf b i with settled := (triggerOf b i).pin })
      ∧ (b.engine.state = .stopped → b.control.run = true → TheStartIsEntered b t)
      ∧ (b.engine.state ≠ .stopped ∨ b.control.run = false →
          t.engine = b.engine ∧ t.port = b.port ∧ t.mixer = b.mixer ∧ t.store = b.store)
      ∧ t = { b with
          time := t.time, triggers := t.triggers, outputs := { b.outputs with counter := 0 }
          engine := t.engine, port := t.port, mixer := t.mixer, store := t.store }

/-! ### The scene pool and the playbacks' edits (R27, R40, R41) -/

/-- Pool entries in sets and incoming lists, and those reserved (R27). -/
def poolInUse (b : Block) : Nat :=
  (allPlaybacks.map fun p =>
    (playbackOf b p).entries.length + (playbackOf b p).incoming.length + (playbackOf b p).reservation).sum

/-- Pool entries that held edits have removed from a set, awaiting landing (R27, R41). -/
def awaitingLanding (b : Block) : Nat := (b.mixer.held.map HeldEdit.freed).sum

/-- One edit of playback `p`, which removes `freed` entries from its set, reaches the mixer: between passes it lands at once and the
entries are free; during a pass it is the last held edit and they await landing (R27, R40, R41). -/
def AnEditReachesTheMixer (p : Fin 8) (freed : Nat) (b t : Block) : Prop :=
  poolInUse t + freed = poolInUse b
  ∧ (b.mixer.pass = none → t.mixer = { b.mixer with views := setAt b.mixer.views p (playbackOf t p).view }
      ∧ awaitingLanding t = awaitingLanding b)
  ∧ (b.mixer.pass.isSome = true → t.mixer = { b.mixer with held := b.mixer.held ++ [⟨p, (playbackOf t p).view, freed⟩] }
      ∧ awaitingLanding t = awaitingLanding b + freed)

/-- The clearing of every playback reaches the mixer, one edit of each with the entries of its set: at once between passes, and held
during one (R27, R40, R41). -/
def TheClearingReachesTheMixer (b t : Block) : Prop :=
  (b.mixer.pass = none → t.mixer = { b.mixer with views := Vector.ofFn fun p => (playbackOf t p).view })
  ∧ (b.mixer.pass.isSome = true → ∃ edits : List HeldEdit, t.mixer = { b.mixer with held := b.mixer.held ++ edits }
      ∧ edits.Perm (allPlaybacks.map fun p => ⟨p, (playbackOf t p).view, (playbackOf b p).entries.length⟩)
      ∧ awaitingLanding t = awaitingLanding b + (allPlaybacks.map fun p => (playbackOf b p).entries.length).sum)

/-! ### CONTROL and the engine (R190 to R194) -/

/-- The fields a write gives CONTROL, with RUN `run` (R190). -/
def ControlTakes (run : Bool) (v : Word) (c : Control) : Prop :=
  c.run = run ∧ c.blackout = v.getLsbD 1 ∧ c.hold = v.getLsbD 2 ∧ c.wait.toNat = v.toNat / 16 % 8

/-- A CONTROL write that does not change what RUN asks of the engine sets every field and changes nothing else: the rows
CONTROL_BLACKOUT, CONTROL_HOLD and CONTROL_WAIT.  One that does is what RUN_SET or RUN_CLEAR makes of its word (R191; that a row carries
the whole word is notes/assumptions/7.md). -/
def Obligations.AControlWriteSetsItsFields : Prop :=
  ∀ (v : Word) (done : Nat) (b : Block) (q : List Instr), b.engine.phase = .released →
    ((b.engine.state = .stopped ∧ v.getLsbD 0 = false ∨ b.engine.state = .stopping
      ∨ (b.engine.state = .running ∨ b.engine.state = .starting ∨ b.engine.state = .halted) ∧ v.getLsbD 0 = true) →
    ∃ c : Control, ControlTakes (v.getLsbD 0) v c
      ∧ exec (.controlBlackout ⟨v, done⟩) ⟨b, q⟩ = .next ⟨{ b with control := c }, q⟩
      ∧ exec (.controlHold ⟨v, done⟩) ⟨b, q⟩ = .next ⟨{ b with control := c }, q⟩
      ∧ exec (.controlWait ⟨v, done⟩) ⟨b, q⟩ = .next ⟨{ b with control := c }, q⟩)
    ∧ ∀ c ∈ [Instr.controlBlackout ⟨v, done⟩, .controlHold ⟨v, done⟩, .controlWait ⟨v, done⟩],
      exec c ⟨b, q⟩ = if v.getLsbD 0 then exec (.runSet v) ⟨b, q⟩ else exec (.runClear ⟨v, done⟩) ⟨b, q⟩

/-- RUN_SET: in STOPPED with the clocks ready the engine enters STARTING with the values of R192, marks a pass that runs, and asks for the
anchor block, the rest of the part as it was; in every other case only CONTROL changes (R67, R82, R91, R192, R193; that the row acts as a write with RUN 1 and SOFT_RESET 0, whatever those bits of its
word, is notes/assumptions/7.md). -/
def Obligations.SettingRunStartsAStoppedEngine : Prop :=
  ∀ (v : Word) (b : Block) (q : List Instr), b.engine.phase = .released →
    (b.engine.state = .stopped → b.time.ready = true →
      ∃ t, exec (.runSet v) ⟨b, q⟩ = .next ⟨t, q⟩
        ∧ TheStartIsEntered b t ∧ ControlTakes true v t.control
        ∧ (b.port.state = .idle → b.port.nextClient = none →
            t.port.state = .requesting ∧ t.port.current = some ⟨.scanner, .read b.anchorReg 16, 0, none⟩)
        ∧ t = { b with control := t.control, engine := t.engine, port := t.port, mixer := t.mixer, store := t.store })
    ∧ (b.engine.state ≠ .stopped ∨ b.time.ready = false →
      ∃ t, exec (.runSet v) ⟨b, q⟩ = .next ⟨t, q⟩ ∧ t = { b with control := t.control } ∧ ControlTakes true v t.control)

/-- Playback `x` cleared, its master fade record kept: the queue is emptied but for a request whose load is being read, which stays in
service until the loader has abandoned the load (R16, R24). -/
def clearedPlayback (x : Playback) : Playback :=
  { x with
    fade := .idle, remembered := none, entries := [], timing := .cleared, follow := none, lastCue := none
    load := if x.load = .reading then .reading else .none
    queue := if x.load = .reading then x.queue.take 1 else [] }

/-- The requests that entry into STOPPING completes CANCELLED: those of the playbacks' queues that are not in service, the table jobs and
tables handed over, the queued queries, the pending configurations, and a snapshot that waits (R24, R97, R110, R124, R155, R180). -/
def CancelledByStopping (b : Block) (slot : Fin 32) : Prop :=
  (∃ p r, r ∈ (if (playbackOf b p).load = .none then (playbackOf b p).queue else (playbackOf b p).queue.drop 1)
      ∧ r.origin = .post slot)
  ∨ (∃ j ∈ b.tables.queue, j.slot = slot) ∨ (∃ list, b.tables.staging = .ready slot list)
  ∨ (∃ k points, getAt b.tables.shadows k = .ready slot points) ∨ (∃ l, ∃ x ∈ (lineOf b l).queries, x.slot = slot)
  ∨ (∃ v, b.time.pending = some (v, slot)) ∨ (∃ l f, (lineOf b l).pending = some (f, slot))
  ∨ ∃ a, b.status.snapshot = some ⟨slot, a, .waiting⟩

/-- The requests that entry into STOPPING completes ABANDONED: those in service whose load waits (R24). -/
def AbandonedByStopping (b : Block) (slot : Fin 32) : Prop :=
  ∃ p r rest, (playbackOf b p).load = .waiting ∧ (playbackOf b p).queue = r :: rest ∧ r.origin = .post slot

/-- RUN_CLEAR in RUNNING enters STOPPING: every playback is cleared, an edit of each that frees its set's entries, at mix-complete if a
pass runs; no load waits, and one being read is marked for the loader to abandon; the table jobs and what is READY are gone, while what
is FILLING stays; the queries, the pending configurations and a waiting snapshot are gone, a query in flight is marked, and presentation
is held.  A request in service whose load waited completes ABANDONED, every other ended request CANCELLED, with result values 0 (R24, R27,
R40, R41, R59, R97, R110, R124, R155, R180, R193; that the row acts as a write with RUN 0 and SOFT_RESET 0, whatever those bits of its
word, is notes/assumptions/7.md; the values 0 are notes/assumptions/26.md). -/
def Obligations.ClearingRunEntersStopping : Prop :=
  ∀ (v : Word) (done : Nat) (b : Block) (q : List Instr), b.engine.phase = .released → b.engine.state = .running →
    ∃ t, exec (.runClear ⟨v, done⟩) ⟨b, q⟩ = .next ⟨t, q⟩
      ∧ t.engine = { b.engine with state := .stopping } ∧ ControlTakes false v t.control
      ∧ (∀ p, playbackOf t p = clearedPlayback (playbackOf b p))
      ∧ TheClearingReachesTheMixer b t
      ∧ t.loader = { b.loader with
          queue := b.loader.queue.filter fun j => (playbackOf b j.playback).load != .waiting
          current := b.loader.current.map fun cur =>
            if (playbackOf b cur.job.playback).load = .reading then { cur with abandon := true } else cur }
      ∧ t.tables.queue = [] ∧ t.tables.reader = b.tables.reader
      ∧ t.tables.staging = (match b.tables.staging with | .filling words => .filling words | .empty => .empty | .ready _ _ => .empty)
      ∧ (∀ k, getAt t.tables.shadows k
          = match getAt b.tables.shadows k with | .filling points => .filling points | .empty => .empty | .ready _ _ => .empty)
      ∧ (∀ l, lineOf t l = { lineOf b l with
          queries := [], pending := none, inFlight := (lineOf b l).inFlight.map fun f => { f with cancelled := true } })
      ∧ t.time = { b.time with pending := none }
      ∧ t.status = { b.status with
          snapshot := b.status.snapshot.bind fun j => if j.step = .waiting then none else some j }
      ∧ t.store = { b.store with hold := true } ∧ t.mem = b.mem ∧ t.superseded = b.superseded ∧ t.intStatus = b.intStatus
      ∧ t.scanner = b.scanner ∧ t.talkback = b.talkback ∧ t.outputs = b.outputs ∧ t.triggers = b.triggers ∧ t.anchor = b.anchor
      ∧ ∃ ended, t.results.queue = b.results.queue ++ ended
        ∧ (∀ slot, slot ∈ b.results.reserved → CancelledByStopping b slot ∨ AbandonedByStopping b slot → ∃ c ∈ ended, c.slot = slot)
        ∧ ∀ c ∈ ended, c.v1 = 0 ∧ c.v2 = 0 ∧ c.v3 = 0
          ∧ (c.code = .cancelled ∧ CancelledByStopping b c.slot ∨ c.code = .abandoned ∧ AbandonedByStopping b c.slot)

/-- RUN_CLEAR in STARTING: with no granted tenure the engine is STOPPED at once with nothing at the port; a granted one stands at the
words it has done, with the value a read-modify-write has read, and is carried to the end of its word in progress, TENURE_ENDED, which is
no fault and leaves the engine STOPPED, or starts it anew when RUN is 1 again.  No word but the one in progress completes: a sweep's
read-modify-write held in its read makes no write whatever the row says, and one whose write was in progress frees the lock word and is
counted (R62, R182, R187, R192).  That the row acts as a write with RUN 0 and SOFT_RESET 0 is notes/assumptions/7.md, when the engine
enters STOPPED is 10.md, the count of a sweep that ends so is 11.md, and how the words done are given is 4.md. -/
def Obligations.AnAbortedStartEndsInStopped : Prop :=
  (∀ (v : Word) (done : Nat) (b : Block) (q : List Instr), b.engine.phase = .released → b.engine.state = .starting →
    ∃ t, exec (.runClear ⟨v, done⟩) ⟨b, q⟩ = .next ⟨t, q⟩ ∧ ControlTakes false v t.control ∧ t.mem = b.mem ∧ t.port.nextClient = none
      ∧ t.port.consecutive = b.port.consecutive ∧ t.port.faults = b.port.faults
      ∧ t = { b with control := t.control, engine := t.engine, port := t.port }
      ∧ (b.port.state ≠ .transferring →
          t.engine.state = .stopped ∧ t.engine.fault = b.engine.fault ∧ t.port.state = .idle ∧ t.port.current = none)
      ∧ (b.port.state = .transferring →
          t.engine = { b.engine with aborting := true } ∧ t.port.state = .transferring
          ∧ (b.port.current = none ∨ b.engine.aborting = true → t.port.current = b.port.current)
          ∧ ∀ tn, b.engine.aborting = false → b.port.current = some tn → ∃ held, t.port.current = some held
            ∧ held.client = tn.client ∧ held.kind = tn.kind
            ∧ (∀ a n, tn.kind = .read a n → held.done = min done (n - 1) ∧ held.value = none)
            ∧ (∀ a ws, tn.kind = .write a ws → held.done = min done (ws.length - 1) ∧ held.value = none)
            ∧ (∀ a expect put, tn.kind = .modify a expect put →
                let begun := 1 ≤ done ∧ b.mem.load (wordAddress a) = expect
                (begun → held.done = 1 ∧ held.value = some expect) ∧ (¬begun → held.done = 0 ∧ held.value = none))))
  ∧ ∀ (b : Block) (q : List Instr) (tn : Tenure) (done : Nat), b.engine.phase = .released → b.port.state = .transferring →
    b.port.current = some tn → b.engine.aborting = true →
    exec (.tenureEnded done) ⟨b, q⟩ = exec (.tenureEnded (max tn.done (min done (tn.done + 1)))) ⟨b, q⟩
    ∧ ∃ t, exec (.tenureEnded done) ⟨b, q⟩ = .next ⟨t, q⟩ ∧ t.port.faults = b.port.faults
      ∧ (b.control.run = false → t.engine.state = .stopped ∧ t.engine.aborting = false ∧ t.port.state = .idle
          ∧ t.port.current = none ∧ t.port.nextClient = none ∧ t.port.consecutive = b.port.consecutive
          ∧ t.mixer = b.mixer ∧ t.store = b.store)
      ∧ (b.control.run = true → b.time.ready = true → TheStartIsEntered b t
          ∧ t.port.current = some ⟨.scanner, .read b.anchorReg 16, 0, none⟩ ∧ t.port.nextClient = none)
      ∧ t = { b with engine := t.engine, port := t.port, mem := t.mem, loader := { b.loader with sweeps := t.loader.sweeps }
                     mixer := t.mixer, store := t.store }
      ∧ (∀ a n, tn.kind = .read a n → t.mem = b.mem)
      ∧ (∀ a ws, tn.kind = .write a ws → tn.done ≤ done → done ≤ tn.done + 1 → t.mem = b.mem.writeBurst a (ws.take done))
      ∧ (∀ a expect put, tn.kind = .modify a expect put →
          (tn.done = 0 ∨ tn.done = 1 ∧ done ≤ 1 ∨ b.mem.load (wordAddress a) ≠ expect →
              t.mem = b.mem ∧ t.loader.sweeps = b.loader.sweeps)
          ∧ (tn.done = 1 → done = 2 → b.mem.load (wordAddress a) = expect →
              t.mem = b.mem.store (wordAddress a) put ∧ t.loader.sweeps = countUp b.loader.sweeps))

/-- RUN_CLEAR in HALTED enters STOPPED with BUS_HALT kept: every playback is cleared as in STOPPING, an edit of each, pending values are
removed, no line holds a query in flight, no result is queued, and nothing else changes but the reservations (R24, R27, R40, R41, R110,
R124, R156, R194; that the row acts as a write with RUN 0 and SOFT_RESET 0, whatever those bits of its word, is notes/assumptions/7.md).
With no load being read, as in every HALTED (R60), the queue is empty and the load state NONE. -/
def Obligations.ClearingRunLeavesHalted : Prop :=
  ∀ (v : Word) (done : Nat) (b : Block) (q : List Instr), b.engine.phase = .released → b.engine.state = .halted →
    ∃ t, exec (.runClear ⟨v, done⟩) ⟨b, q⟩ = .next ⟨t, q⟩
      ∧ t.engine = { b.engine with state := .stopped, start := .idle, aborting := false } ∧ ControlTakes false v t.control
      ∧ (∀ p, playbackOf t p = clearedPlayback (playbackOf b p)
          ∧ ((playbackOf b p).load ≠ .reading → (playbackOf t p).queue = [] ∧ (playbackOf t p).load = .none))
      ∧ TheClearingReachesTheMixer b t
      ∧ (∀ l, lineOf t l = { lineOf b l with pending := none, inFlight := none })
      ∧ t.results.queue = b.results.queue
      ∧ (b.loader.queue = [] → b.loader.current = none → t.loader = b.loader)
      ∧ t = { b with
          engine := t.engine, control := t.control, playbacks := t.playbacks, mixer := t.mixer, lines := t.lines, loader := t.loader
          time := { b.time with pending := none }, results := { b.results with reserved := t.results.reserved } }

/-- What R193 lists for the end of STOPPING: the scanner IDLE, every load state NONE, the cue loader and the table loader's reader
IDLE, no query in flight and no FULL reply buffer, no page job and no snapshot job, no completion and no reservation. -/
def AtRest (b : Block) : Prop :=
  b.scanner.step = .idle ∧ (∀ p, (playbackOf b p).load = .none) ∧ b.loader.current = none ∧ b.tables.reader = none
    ∧ (∀ l, (lineOf b l).inFlight = none ∧ (lineOf b l).reply = none) ∧ b.status.page = none ∧ b.status.snapshot = none
    ∧ b.results.queue = [] ∧ b.results.reserved = []

/-- STOPPING_DRAINED: with every item of R193 at rest the engine enters STOPPED, or STARTING when RUN is 1 again (R67, R192, R193).  While an
item is not at rest the engine stays in STOPPING: the event cannot fall, and its command changes nothing (notes/assumptions/1.md). -/
def Obligations.ADrainedEngineEntersStopped : Prop :=
  ∀ (b : Block) (q : List Instr), b.engine.phase = .released → b.engine.state = .stopping →
    (AtRest b → b.control.run = false →
      exec .stoppingDrained ⟨b, q⟩
        = .next ⟨{ b with engine := { b.engine with state := .stopped, start := .idle, aborting := false } }, q⟩)
    ∧ (AtRest b → b.control.run = true → b.time.ready = true →
      ∃ t, exec .stoppingDrained ⟨b, q⟩ = .next ⟨t, q⟩ ∧ TheStartIsEntered b t
        ∧ t = { b with engine := t.engine, port := t.port, mixer := t.mixer, store := t.store })
    ∧ (¬AtRest b → exec .stoppingDrained ⟨b, q⟩ = .next ⟨b, q⟩)

/-! ### The other registers (R171, R190, R194, R196) -/

/-- What a read of each register gives, field by field, and of an unused offset; NUDGE reads 0, and a read changes nothing (R190).  That
the bits outside the fields that R190 lists read 0 is notes/assumptions/35.md. -/
def TheRegistersRead : Prop :=
  ∀ b : Block,
    let one := fun x : Bool => if x then 1 else 0
    let state := [EngineState.stopped, .starting, .running, .stopping, .halted].idxOf b.engine.state
    let cause := [ResetCause.powerOn, .pin, .soft].idxOf b.engine.cause
    let fault := [FaultCode.none, .anchorBad, .busHalt].idxOf b.engine.fault
    let sources := [IntSource.requestDone, .status, .line, .trigger, .playback, .fault]
    readRegister 0x00 b = 0x4842F031
    ∧ (readRegister 0x04 b).toNat
        = one b.control.run + 2 ^ 1 * one b.control.blackout + 2 ^ 2 * one b.control.hold + 2 ^ 4 * b.control.wait.toNat
    ∧ (readRegister 0x08 b).toNat = state + 2 ^ 4 * one b.time.ready + 2 ^ 8 * cause + 2 ^ 12 * fault
    ∧ readRegister 0x0C b = b.anchorReg ∧ readRegister 0x10 b = 0
    ∧ (readRegister 0x14 b).toNat = b.intStatus.toNat ∧ (readRegister 0x18 b).toNat = b.intMask.toNat
    ∧ (∀ i : Fin 6, ∃ src, sources[i.val]? = some src ∧ (readRegister 0x14 b).getLsbD i.val = isRaised src b)
    ∧ ∀ o : Word, o ∉ [0x00, 0x04, 0x08, 0x0C, 0x10, 0x14, 0x18] → readRegister o b = 0

/-- The registers read as TheRegistersRead says.  ANCHOR takes a write while the engine is STOPPED and ignores it in every other state; a write to a read-only register or an unused
offset changes nothing; INTSTATUS clears the sources written 1 but FAULT while HALTED, INTMASK takes its bits, and IRQ is asserted
exactly while some set source is masked in (R190, R194, R196).  That ANCHOR keeps the two low bits it is written is
notes/assumptions/15.md.  The row REGISTER_WRITE_OTHER stands for offsets of no writable register: that it changes nothing whatever its
operand is the model's own (notes/assumptions/1.md). -/
def Obligations.TheRegisterWindowIsReadAndWritten : Prop :=
  TheRegistersRead ∧ ∀ (v o : Word) (b : Block) (q : List Instr), b.engine.phase = .released →
    (b.engine.state = .stopped → exec (.anchorWrite v) ⟨b, q⟩ = .next ⟨{ b with anchorReg := v }, q⟩)
    ∧ (b.engine.state ≠ .stopped → exec (.anchorWrite v) ⟨b, q⟩ = .next ⟨b, q⟩)
    ∧ exec (.registerWriteOther o v) ⟨b, q⟩ = .next ⟨b, q⟩
    ∧ (∃ t, exec (.intstatusWrite v) ⟨b, q⟩ = .next ⟨t, q⟩ ∧ t = { b with intStatus := t.intStatus }
      ∧ ∀ src : IntSource, isRaised src t
          = (isRaised src b && !(v.getLsbD src.index && !(decide (src = .fault) && decide (b.engine.state = .halted)))))
    ∧ (∃ t, exec (.intmaskWrite v) ⟨b, q⟩ = .next ⟨t, q⟩ ∧ t = { b with intMask := t.intMask }
      ∧ (∀ i : Fin 6, t.intMask.getLsbD i = v.getLsbD i)
      ∧ (irqPin t = true ↔ ∃ i : Fin 6, b.intStatus.getLsbD i = true ∧ v.getLsbD i = true))

/-- NUDGE: in RUNNING an idle scanner starts a scan by asking for the state row, and a busy one sets scan-pending; in any other state
nothing changes; the countdown stays (R171, R172). -/
def Obligations.ANudgeMakesAScanDue : Prop :=
  ∀ (v : Word) (b : Block) (q : List Instr), b.engine.phase = .released →
    (b.engine.state = .running → b.scanner.step = .idle →
      exec (.nudge v) ⟨b, q⟩ = .next ⟨ask .scanner (.read b.anchor.postTable (min 16 b.anchor.slots))
        { b with scanner := { b.scanner with step := .row [] } }, q⟩)
    ∧ (b.engine.state = .running → b.scanner.step ≠ .idle →
      exec (.nudge v) ⟨b, q⟩ = .next ⟨{ b with scanner := { b.scanner with scanPending := true } }, q⟩)
    ∧ (b.engine.state ≠ .running → exec (.nudge v) ⟨b, q⟩ = .next ⟨b, q⟩)

/-! ### Time (R101, R104, R73, R74, R67) -/

/-- A tick moves the show clock by one, wrapping, and nothing else; it stands while the clocks are not ready (R99, R101). -/
def Obligations.ATickMovesTheShowClock : Prop :=
  ∀ (b : Block) (q : List Instr),
    (clocked b = true →
      exec .millisecondBaseTick ⟨b, q⟩ = .next ⟨{ b with time := { b.time with clock := b.time.clock + 1 } }, q⟩)
    ∧ (clocked b = false → exec .millisecondBaseTick ⟨b, q⟩ = .next ⟨b, q⟩)

/-- What a line is after it has taken a frame boundary: a pending configuration is in force; a change of mode clears the receive side,
and a change of rate on a RECEIVE or LOOP line discards the frame being received; queries stay only with talkback on; and a SEND or LOOP
line starts a level frame where R116 allows one, a SEND line's driver enabled with it (R112, R116, R118, R119, R123). -/
def LineTakesTheBoundary (l : Fin 4) (b t : Block) : Prop :=
  let x := lineOf b l
  let y := lineOf t l
  let f := (x.pending.map Prod.fst).getD x.config
  let starts := (f.mode = .send ∨ f.mode = .loop) ∧
    (b.engine.state = .running ∨ b.engine.state = .stopping ∨ b.engine.state = .halted ∨ b.engine.state = .stopped ∧ b.control.hold = true)
  let hunt : Receiver := ⟨.hunt, 0, 0, 0, false, false⟩
  y = { x with
    config := f, pending := none, tx := y.tx, driver := y.driver, queries := y.queries
    rx := y.rx, staging := y.staging, layer := y.layer, signal := y.signal, signalTimer := y.signalTimer }
  ∧ (starts → y.tx = .brk ∧ y.driver = decide (f.mode = .send))
  ∧ (¬starts → y.tx = x.tx ∧ (x.pending = none → y.driver = x.driver)
      ∧ (x.pending ≠ none → y.driver = (decide (f.mode = .send) && !f.talkback)))
  ∧ (x.pending = none ∨ f.talkback = true → y.queries = x.queries)
  ∧ (x.pending ≠ none → f.talkback = false → y.queries = [])
  ∧ (f.mode ≠ x.config.mode →
      y.rx = hunt ∧ y.staging = .empty ∧ y.layer = Vector.replicate 256 0 ∧ y.signal = .none ∧ y.signalTimer = none)
  ∧ (f.mode = x.config.mode → y.layer = x.layer ∧ y.signal = x.signal ∧ y.signalTimer = x.signalTimer)
  ∧ (f.mode = x.config.mode → (f.mode = .receive ∨ f.mode = .loop) → f.rate ≠ x.config.rate →
      y.rx = hunt ∧ y.staging = match x.staging with | .filling _ => .empty | other => other)
  ∧ (f.mode = x.config.mode → f.mode = .off ∨ f.mode = .send ∨ f.rate = x.config.rate → y.rx = x.rx ∧ y.staging = x.staging)

/-- `v` is the value that goes from `start` to `goal` in the time `d`, at the elapsed time `e` (R19, R37). -/
def FadesTo (start goal : Nat) (e : Int) (d : Nat) (v : Nat) : Prop :=
  (v : Int) = start + Int.tdiv (((goal : Int) - start) * e) d

/-- `v` is the present value of a master fade record (R19; at a duration of 0 and `e ≤ 0` see notes/assumptions/9.md). -/
def MasterValueIs (m : FadeRecord) (now : Time) (v : Nat) : Prop :=
  let e := showDiff now m.time
  (m.duration = 0 → v = m.target) ∧ (0 < m.duration → e ≤ 0 → v = m.start) ∧ ((m.duration : Int) ≤ e → v = m.target)
    ∧ (0 < e → e < m.duration → FadesTo m.start m.target e m.duration v)

/-- In the order in which the blocks take a boundary, `x` comes before `y`: each takes it where the command first names it, and those it
leaves out at the end, in the order of the manual's table (notes/assumptions/5.md). -/
def takenBefore (order : List BoundaryTaker) (x y : BoundaryTaker) : Bool :=
  ((order ++ BoundaryTaker.all).takeWhile fun z => z != y).contains x

/-- The part as the block `y` finds it when it takes the boundary that leads from `b` to `t`, as far as the mixer, the loader and the
lines, which may have taken it before (notes/assumptions/5.md). -/
def asFoundBy (y : BoundaryTaker) (order : List BoundaryTaker) (b t : Block) : Block :=
  { b with
    time := t.time
    mixer := if takenBefore order .mixer y then t.mixer else b.mixer
    playbacks := if takenBefore order .loader y then t.playbacks else b.playbacks
    lines := Vector.ofFn fun l => if takenBefore order (.line l) y then lineOf t l else lineOf b l }

/-- `v` is the progress of a playback at show time `now` (R26). -/
def ProgressIs (x : Playback) (now : Time) (v : Nat) : Prop :=
  let since : Int := match x.timing.paused with | some f => f | none => showDiff now x.timing.start
  let span := showDiff x.timing.fadeEnd x.timing.start
  let fades := x.fade = .fading ∨ x.fade = .releasing ∨ x.fade = .paused ∧ x.remembered ≠ some .holding
  (x.fade = .idle → v = 0) ∧ (x.fade = .holding ∨ x.fade = .paused ∧ x.remembered = some .holding → v = 1000)
  ∧ (fades → span = 0 → v = 1000) ∧ (fades → span ≠ 0 → (v : Int) = max 0 (min 1000 (Int.tdiv (since * 1000) span)))

/-- `body` is the words 1 to 103 of a status page latched from the part `u` (R26, R126, R143, R157, R168, R181; a master record of
duration 0 is notes/assumptions/9.md). -/
def IsThePageOf (u : Block) (body : List Word) : Prop :=
  let w := fun k : Nat => body[k - 1]?.getD 0
  let count := fun n : Nat => (BitVec.ofNat 32 n : Word)
  let one := fun r : Bool => if r then 1 else 0
  body.length = 103
  ∧ w 1 = count ([EngineState.stopped, .starting, .running, .stopping, .halted].idxOf u.engine.state
      + 256 * [FaultCode.none, .anchorBad, .busHalt].idxOf u.engine.fault)
  ∧ w 2 = u.time.clock ∧ w 3 = u.time.frames ∧ w 4 = count u.mixer.lateMixes ∧ w 5 = count u.status.skipped ∧ w 6 = count u.port.faults
  ∧ w 7 = count u.loader.sweeps ∧ w 8 = count u.loader.stuck ∧ w 9 = count u.superseded
  ∧ w 10 = count (3072 - (poolInUse u + awaitingLanding u))
  ∧ (∀ p : Fin 8, let x := playbackOf u p
      w (11 + 4 * p.val) = count ([FadeState.idle, .fading, .holding, .paused, .releasing].idxOf x.fade
        + 256 * [LoadState.none, .waiting, .reading].idxOf x.load + 65536 * x.queue.length)
      ∧ w (12 + 4 * p.val) = (match x.lastCue with
        | some c => count (c.bank + 65536 * c.cue)
        | none => count (65535 + 65536 * 65535))
      ∧ (∃ progress master, ProgressIs x u.time.clock progress ∧ MasterValueIs x.master u.time.clock master
        ∧ w (13 + 4 * p.val) = count (progress + 65536 * master))
      ∧ w (14 + 4 * p.val) = count x.entries.length)
  ∧ (∀ l : Fin 4, let x := lineOf u l
      let e := x.errors
      let lastFrames := [LastFrame.none, .ok, .error .framing, .error .check, .error .short, .error .unexpected, .error .overrun]
      w (43 + 11 * l.val) = count ([LineMode.off, .send, .receive, .loop].idxOf x.config.mode
        + 256 * [SignalState.none, .present, .lost].idxOf x.signal + 65536 * lastFrames.idxOf x.lastFrame
        + 2 ^ 24 * x.queries.length)
      ∧ w (44 + 11 * l.val) = count (one e.framing.seen + 2 * one e.check.seen + 4 * one e.short.seen + 8 * one e.unexpected.seen
        + 16 * one e.overrun.seen)
      ∧ w (45 + 11 * l.val) = count x.sent ∧ w (46 + 11 * l.val) = count x.received
      ∧ w (47 + 11 * l.val) = count e.framing.count ∧ w (48 + 11 * l.val) = count e.check.count
      ∧ w (49 + 11 * l.val) = count e.short.count ∧ w (50 + 11 * l.val) = count e.unexpected.count
      ∧ w (51 + 11 * l.val) = count e.overrun.count
      ∧ w (52 + 11 * l.val) = count x.foreign ∧ w (53 + 11 * l.val) = count x.stray)
  ∧ (∀ i : Fin 8, w (87 + 2 * i.val) = count (triggerOf u i).accepted ∧ w (88 + 2 * i.val) = count (triggerOf u i).dropped)
  ∧ (∀ i : Fin 8, (w 103).getLsbD i.val = (triggerOf u i).settled) ∧ (w 103).toNat < 256

/-- A status write that falls due begins its page job when none is present: it latches the page, joins the jobs' order, and asks for its
first burst, word 0 with the next odd edition, when it is the first of them; with one present the write is skipped (R177, R178, R180).
Which blocks have changed the values latched is the boundary's order (notes/assumptions/5.md). -/
def TheStatusWriteFallsDue (order : List BoundaryTaker) (b t : Block) : Prop :=
  (b.status.page = none → t.status.skipped = b.status.skipped ∧ t.status.edition = b.status.edition
    ∧ (∃ body, t.status.page = some ⟨body, 0⟩ ∧ IsThePageOf (asFoundBy .status order b t) body)
    ∧ StatusJob.page ∈ t.status.order
    ∧ (b.status.order = [] → (∀ slot a, b.status.snapshot ≠ some ⟨slot, a, .waiting⟩) → t.status.order = [.page])
    ∧ (b.status.order = [] → t.status.order.head? = some .page →
      Asks .status (.write b.anchor.statusPage [b.status.edition + 1]) t))
  ∧ (b.status.page ≠ none → t.status.page = b.status.page ∧ t.status.skipped = countUp b.status.skipped)

/-- What the scan and status countdowns are after a frame boundary, and what falls due at it: each counts under the interval before an
install, and is then loaded with the new one (R105, R171, R177). -/
def CountdownsTakeTheBoundary (order : List BoundaryTaker) (b t : Block) : Prop :=
  let installs := b.time.pending ≠ none
  let scans := b.engine.state = .running
  let writes := b.engine.state = .running ∨ b.engine.state = .stopping ∨ b.engine.state = .halted
  let scanDue := scans ∧ b.scanner.countdown = 1
  let statusDue := writes ∧ b.status.countdown = 1
  (installs ∨ scanDue → t.scanner.countdown = t.time.inForce.scan)
  ∧ (¬installs → ¬scanDue → t.scanner.countdown = if b.engine.state = .running then b.scanner.countdown - 1 else b.scanner.countdown)
  ∧ (scanDue → b.scanner.step = .idle → t.scanner.step = .row [] ∧ t.scanner.scanPending = b.scanner.scanPending
      ∧ Asks .scanner (.read b.anchor.postTable (min 16 b.anchor.slots)) t)
  ∧ (scanDue → b.scanner.step ≠ .idle → t.scanner.step = b.scanner.step ∧ t.scanner.scanPending = true)
  ∧ (¬scanDue → t.scanner.step = b.scanner.step ∧ t.scanner.scanPending = b.scanner.scanPending)
  ∧ (installs ∨ statusDue → t.status.countdown = t.time.inForce.status)
  ∧ (¬installs → ¬statusDue → writes → t.status.countdown = b.status.countdown - 1)
  ∧ (¬installs → ¬writes → t.status.countdown = b.status.countdown)
  ∧ (statusDue → b.engine.state ≠ .halted → TheStatusWriteFallsDue order b t)
  ∧ (¬statusDue ∨ b.engine.state = .halted → t.status.page = b.status.page ∧ t.status.skipped = b.status.skipped)

/-- What the cue loader and the result writer are after a frame boundary: every deferred mark is clear, an IDLE loader takes the job at
the head of its queue, and a writer that waits starts the head's result again (R47, R48, R176). -/
def LoaderAndWriterTakeTheBoundary (b t : Block) : Prop :=
  let cleared := fun j : LoadJob => { j with deferred := false }
  (b.loader.current ≠ none ∨ b.loader.queue = [] ∨ b.engine.state = .halted →
    t.loader = { b.loader with queue := b.loader.queue.map cleared } ∧ t.playbacks = b.playbacks)
  ∧ (∀ j rest, b.loader.current = none → b.loader.queue = j :: rest → b.engine.state ≠ .halted →
      t.loader = { b.loader with queue := rest.map cleared, current := some ⟨cleared j, .lock, false, false, none, none⟩ }
      ∧ t.playbacks = setAt b.playbacks j.playback { playbackOf b j.playback with load := .reading }
      ∧ Asks .loader (.modify (b.anchor.banks[j.bank]?.getD 0) 0 2) t)
  ∧ (b.engine.state = .running ∨ b.engine.state = .stopping → ∀ c rest, b.results.writer = .waiting → b.results.queue = c :: rest →
      WritesTheValuesOf c b t)

/-- The requests that a frame boundary's installs of frame values and line configurations end, at a boundary that installs nothing else:
the SET FRAME first, OK with the period, before any other; and, where one line's configuration is all there is, its queued queries
CANCELLED when it turns talkback off, and its SET LINE OK with the line time and the mode (R104, R123; result values not named are
notes/assumptions/26.md). -/
def ABoundaryEndsRequests (b t : Block) : Prop :=
  (∀ v owner, b.time.pending = some (v, owner) → owner ∈ b.results.reserved → b.engine.state ≠ .halted →
    ∃ later, t.results.queue = b.results.queue ++ ⟨owner, .ok, BitVec.ofNat 32 v.period, 0, 0⟩ :: later)
  ∧ ∀ (l : Fin 4) (f : LineConfig) (owner : Fin 32), (lineOf b l).pending = some (f, owner) → b.engine.state ≠ .halted →
    b.time.pending = none → (∀ l', l' ≠ l → (lineOf b l').pending = none) →
    (∀ o list, b.tables.staging ≠ .ready o list) → (∀ k o points, getAt b.tables.shadows k ≠ .ready o points) →
    let ended := if f.talkback then [] else (lineOf b l).queries.map Query.slot
    (ended ++ [owner]).Nodup → (∀ i ∈ ended ++ [owner], i ∈ b.results.reserved) →
    t.results.queue = b.results.queue ++ ended.map (fun i => ⟨i, .cancelled, 0, 0, 0⟩)
      ++ [⟨owner, .ok, BitVec.ofNat 32 (lineTime f), BitVec.ofNat 32 f.mode.code, 0⟩]

/-- Whatever the order in which the blocks take it (notes/assumptions/5.md), a frame boundary installs the pending frame values, reloads
the countdown with the period now in force and counts; it stores nothing in memory and leaves the engine as it is (R104).  Every line
installs its pending configuration and starts its level frame; the scan and status countdowns count and reload, and a scan and a status
write fall due, whose page is latched whole and begun; the loader's deferred marks are cleared; and a result write that waits begins again (R26, R47, R48, R105, R112, R116, R118,
R119, R123, R126, R143, R157, R168, R171, R176 to R178, R181; a master record of duration 0 is 9.md; result values not named are 0 by notes/assumptions/26.md). -/
def Obligations.AFrameBoundaryInstallsReloadsAndCounts : Prop :=
  ∀ (order : List BoundaryTaker) (b : Block) (q : List Instr), clocked b = true →
    ∃ t, exec (.frameBoundary order) ⟨b, q⟩ = .next ⟨t, q⟩
      ∧ t.time.inForce = (b.time.pending.map Prod.fst).getD b.time.inForce ∧ t.time.pending = none
      ∧ t.time.countdown = t.time.inForce.period ∧ t.time.frames = b.time.frames + 1
      ∧ t.time.clock = b.time.clock ∧ t.time.ready = b.time.ready
      ∧ t.mem = b.mem ∧ t.engine = b.engine ∧ t.control = b.control
      ∧ (∀ l, LineTakesTheBoundary l b t) ∧ CountdownsTakeTheBoundary order b t ∧ LoaderAndWriterTakeTheBoundary b t
      ∧ ABoundaryEndsRequests b t

/-- A boundary taken while a pass runs makes a late mix: both images, the selector and the flags stay, the pass goes on with its
latched values, and the late-mix count rises in RUNNING, STOPPING and HALTED (R73). -/
def Obligations.ABoundaryDuringAPassIsALateMix : Prop :=
  ∀ (order : List BoundaryTaker) (b : Block) (q : List Instr) (latch : PassLatch), clocked b = true → b.mixer.pass = some latch →
    ∃ t, exec (.frameBoundary order) ⟨b, q⟩ = .next ⟨t, q⟩
      ∧ t.store = b.store ∧ t.mixer.pass = some latch ∧ t.mixer.patch = b.mixer.patch ∧ t.outputs = b.outputs
      ∧ t.mixer.lateMixes
          = if b.engine.state = .running ∨ b.engine.state = .stopping ∨ b.engine.state = .halted
            then countUp b.mixer.lateMixes else b.mixer.lateMixes

/-- The new entry of a channel that a list of patch records replaces, if it does: that of its last record (R90). -/
def replacing (list : List PatchRecord) (c : Channel) : Option PatchEntry :=
  (list.reverse.find? fun r => r.channel == c).map PatchRecord.entry

/-- Whether an entry of the patch table occupies an element of the slot owner map (R83). -/
def occupies (p : PatchEntry) (e : Element) : Bool := p.destinations.any fun d => d.elements.contains e

/-- What a pass start makes of the patch staging and the curve shadows: a READY list replaces the entries of its channels and the owners
of the elements they held and hold, a READY shadow's points are its curve's, nothing stays READY, and a PATCH that waits at the head of
the queue begins.  Where one of them is all there is to install, its request completes OK (R86, R87, R90, R95; elements given up before
elements taken is notes/assumptions/31.md, the unnamed result values are 26.md). -/
def TablesAreInstalled (b t : Block) : Prop :=
  (∀ owner list, b.tables.staging = .ready owner list →
    (∀ c, getAt t.mixer.patch c = (replacing list c).getD (getAt b.mixer.patch c))
    ∧ (∀ e, t.mixer.owners.owner e = match list.reverse.find? fun r => occupies r.entry e with
        | some r => some r.channel
        | none => if list.any fun r => occupies (getAt b.mixer.patch r.channel) e then none else b.mixer.owners.owner e))
  ∧ ((∀ owner list, b.tables.staging ≠ .ready owner list) → t.mixer.patch = b.mixer.patch ∧ t.mixer.owners = b.mixer.owners)
  ∧ (∀ k owner points, getAt b.tables.shadows k = .ready owner points → getAt t.mixer.curves k = points)
  ∧ (∀ k, (∀ owner points, getAt b.tables.shadows k ≠ .ready owner points) → getAt t.mixer.curves k = getAt b.mixer.curves k)
  ∧ (∀ owner list, t.tables.staging ≠ .ready owner list) ∧ (∀ k owner points, getAt t.tables.shadows k ≠ .ready owner points)
  ∧ (∀ slot a n rest, b.engine.state ≠ .halted → b.tables.reader = none → b.tables.queue = .patch slot a n :: rest →
      (∃ owner list, b.tables.staging = .ready owner list) →
      t.tables.reader = some (.patch slot a n) ∧ t.tables.queue = rest ∧ t.tables.staging = .filling []
        ∧ Asks .tables (.read a (min 16 (3 * n))) t)
  ∧ (b.engine.state ≠ .halted → b.time.pending = none → (∀ l, (lineOf b l).pending = none) →
      (∀ owner list, b.tables.staging = .ready owner list → owner ∈ b.results.reserved →
        (∀ k o points, getAt b.tables.shadows k ≠ .ready o points) →
        t.results.queue = b.results.queue ++ [⟨owner, .ok, BitVec.ofNat 32 list.length,
          BitVec.ofNat 32 (list.map fun r => r.entry.destinations.length).sum, 0⟩])
      ∧ ∀ k owner points, getAt b.tables.shadows k = .ready owner points → owner ∈ b.results.reserved →
        (∀ o list, b.tables.staging ≠ .ready o list) → (∀ k', k' ≠ k → ∀ o points', getAt b.tables.shadows k' ≠ .ready o points') →
        t.results.queue = b.results.queue ++ [⟨owner, .ok, BitVec.ofNat 32 (k.val + 1), 0, 0⟩])

/-- A pass latch holds the base and the layer of each line that is RECEIVE or LOOP, in line order, and of no other, as the mixer finds the
lines at its pass start: a line that takes the boundary before it has installed its configuration, and one that takes it after has not
(R66; the order is notes/assumptions/5.md). -/
def TheLatchHoldsTheInputs (order : List BoundaryTaker) (b t : Block) (latch : PassLatch) : Prop :=
  let found := asFoundBy .mixer order b t
  let read := fun l : Fin 4 => decide ((lineOf found l).config.mode = .receive ∨ (lineOf found l).config.mode = .loop)
  latch.inputs = ([0, 1, 2, 3].filter read).map fun l => ⟨(lineOf found l).config.base, (lineOf found l).layer⟩

/-- A WAITING snapshot at a swap: the levels of the image newly presented are copied, two to a word, and the job joins the STATUS client's
order, behind the jobs there, and before or behind a page job that falls due at the same boundary as the blocks take it (R180;
notes/assumptions/5.md); when it is the first, its first burst is asked for (R179, R180).  No WAITING job stands in HALTED (R180). -/
def TheSnapshotIsCopied (order : List BoundaryTaker) (slot : Fin 32) (address : Word) (b t : Block) : Prop :=
  let pageBegins := b.status.countdown = 1 ∧ b.engine.state ≠ .halted ∧ b.status.page = none
  let joins := if pageBegins then (if takenBefore order .mixer .status then [StatusJob.snapshot, .page] else [.page, .snapshot])
    else [.snapshot]
  t.status.order = b.status.order ++ joins
  ∧ ∃ words, t.status.snapshot = some ⟨slot, address, .writing words 0⟩ ∧ words.length = 512
    ∧ (∀ (k : Nat) (lower upper : Channel), k < 512 → lower.val = 2 * k → upper.val = 2 * k + 1 →
      words[k]? = some (BitVec.ofNat 32 (getAt b.store.working.levels lower + 65536 * getAt b.store.working.levels upper)))
    ∧ (b.engine.state ≠ .halted → t.status.order.head? = some .snapshot → b.status.order = [] →
      Asks .status (.write address (words.take 16)) t)

/-- A boundary with no pass running: the images swap exactly in RUNNING or HALTED with no hold and a complete working image, the swap
sets every load flag and copies a waiting snapshot's levels, whose job joins the STATUS client's order, and in RUNNING, STOPPING and HALTED a pass starts with the show time, grand
master, blackout and input layers of now, the patch list and the curves handed over installed first; where no pass starts the tables stay (R65, R66, R74,
R86, R90, R95, R161, R179, R180; order of the blocks: notes/assumptions/5.md; result values not named: 26.md; the order of the owner map's
changes: 31.md). -/
def Obligations.ABoundaryBetweenPassesSwapsAndStarts : Prop :=
  ∀ (order : List BoundaryTaker) (b : Block) (q : List Instr), clocked b = true → b.mixer.pass = none →
    let swaps := decide (b.engine.state = .running ∨ b.engine.state = .halted) && !b.store.hold && b.store.complete
    let starts := decide (b.engine.state = .running ∨ b.engine.state = .stopping ∨ b.engine.state = .halted)
    ∃ t, exec (.frameBoundary order) ⟨b, q⟩ = .next ⟨t, q⟩
      ∧ t.store.a = b.store.a ∧ t.store.b = b.store.b ∧ t.store.hold = b.store.hold
      ∧ t.store.aPresented = (b.store.aPresented ^^ swaps)
      ∧ t.store.complete = (b.store.complete && !starts)
      ∧ (∀ n, getAt t.outputs.load n = (getAt b.outputs.load n || swaps))
      ∧ t.mixer.pass.isSome = starts
      ∧ (∀ latch, t.mixer.pass = some latch → latch.time = b.time.clock ∧ latch.grand = b.mixer.grand.value b.time.clock
          ∧ latch.blackout = (b.control.blackout || b.mixer.blackoutRequest) ∧ latch.restarted = false
          ∧ TheLatchHoldsTheInputs order b t latch)
      ∧ t.mixer.lateMixes = b.mixer.lateMixes
      ∧ (∀ slot address, swaps = true → b.status.snapshot = some ⟨slot, address, .waiting⟩ →
          TheSnapshotIsCopied order slot address b t)
      ∧ (starts = true → TablesAreInstalled b t)
      ∧ (starts = false → t.tables = b.tables ∧ t.mixer.patch = b.mixer.patch ∧ t.mixer.owners = b.mixer.owners
          ∧ t.mixer.curves = b.mixer.curves)

/-- `v` is the fade value of a set entry at show time `now`, as R37 tabulates it. -/
def FadeValueIs (tm : FadeTiming) (now : Time) (x : SetEntry) (v : Nat) : Prop :=
  let e : Int := (match tm.paused with | some f => f | none => showDiff now tm.start) - tm.delay
  let d : Nat := match x.fadeClass with | .up => tm.up | .down => tm.down | .snap => 0
  (e < 0 → v = x.start) ∧ (0 ≤ e → (d = 0 ∨ (d : Int) ≤ e) → v = x.target)
    ∧ (0 ≤ e → e < d → FadesTo x.start x.target e d v)

/-- The pass reads playback `p` as holding channel `c` with contribution `n` and take stamp `stamp` (R39, R66, R68). -/
def HoldsAs (m : Mixer) (latch : PassLatch) (c : Channel) (p : Fin 8) (n stamp : Nat) : Prop :=
  ∃ x v w, (getAt m.views p).entries.find? (fun y => y.channel == c) = some x ∧ x.stamp = stamp
    ∧ FadeValueIs (getAt m.views p).timing latch.time x v ∧ MasterValueIs (getAt m.views p).master latch.time w
    ∧ n = v * w / 65535

/-- `v` is the playback value of channel `c` (R68). -/
def PlaybackValueIs (m : Mixer) (latch : PassLatch) (c : Channel) (v : Nat) : Prop :=
  ((∀ p n stamp, ¬HoldsAs m latch c p n stamp) → v = 0)
  ∧ ((∃ p n stamp, HoldsAs m latch c p n stamp) →
    ((getAt m.patch c).merge = .max →
      (∃ p stamp, HoldsAs m latch c p v stamp) ∧ ∀ p n stamp, HoldsAs m latch c p n stamp → n ≤ v)
    ∧ ((getAt m.patch c).merge = .latest →
      ∃ p stamp, HoldsAs m latch c p v stamp
        ∧ ∀ p' n' stamp', HoldsAs m latch c p' n' stamp' → stamp' < stamp ∨ stamp' = stamp ∧ p ≤ p'))

/-- A latched input layer maps slot `i` to channel `c` (R69). -/
def MapsTo (layer : InputView) (i : Fin 256) (c : Channel) : Prop := layer.base + i.val = c.val

/-- `v` is the input value of channel `c` (R69). -/
def InputValueIs (latch : PassLatch) (c : Channel) (v : Nat) : Prop :=
  (∀ layer ∈ latch.inputs, ∀ i, MapsTo layer i c → (getAt layer.bytes i).toNat * 257 ≤ v)
  ∧ ((∀ layer ∈ latch.inputs, ∀ i, ¬MapsTo layer i c) → v = 0)
  ∧ ((∃ layer ∈ latch.inputs, ∃ i, MapsTo layer i c) →
      ∃ layer ∈ latch.inputs, ∃ i, MapsTo layer i c ∧ v = (getAt layer.bytes i).toNat * 257)

/-- `v` is the level of channel `c` (R70). -/
def LevelIs (m : Mixer) (latch : PassLatch) (c : Channel) (v : Nat) : Prop :=
  ∃ playback input, PlaybackValueIs m latch c playback ∧ InputValueIs latch c input ∧
    ∀ merged, ((getAt m.patch c).merge = .max → merged = max playback input) →
      ((getAt m.patch c).merge = .latest → (∃ p n stamp, HoldsAs m latch c p n stamp) → merged = playback) →
      ((getAt m.patch c).merge = .latest → (∀ p n stamp, ¬HoldsAs m latch c p n stamp) → merged = input) →
      v = if (getAt m.patch c).intensity then merged * latch.grand / 65535 else merged

/-- The slot `i` of line `l` is one that a destination occupies (R82). -/
def Reaches (d : Destination) (l : Fin 4) (i : Fin 256) : Prop :=
  ∃ first wide, d = .line l first wide ∧ (first = i ∨ wide = true ∧ first.val + 1 = i.val)

/-- What a pass writes, channel by channel, slot by slot and output by output (R68 to R71; the curve's value is R92's, which
ALevelPassesThroughACurve states). -/
def IsTheImageOf (m : Mixer) (latch : PassLatch) (x : Image) : Prop :=
  let output := fun c : Channel =>
    if (getAt m.patch c).intensity && latch.blackout then 0
    else curveValue (curveOf m (getAt m.patch c).curve) (getAt x.levels c)
  (∀ c, LevelIs m latch c (getAt x.levels c))
  ∧ (∀ l i, m.owners.owner (.slot l i) = none → getAt (getAt x.slots l) i = 0)
  ∧ (∀ l i c before d after, m.owners.owner (.slot l i) = some c → (getAt m.patch c).destinations = before ++ d :: after →
      (∀ d' ∈ before, ¬Reaches d' l i) →
      (∀ wide, d = .line l i wide → (getAt (getAt x.slots l) i).toNat = output c / 256 % 256)
      ∧ (∀ first, d = .line l first true → first.val + 1 = i.val → (getAt (getAt x.slots l) i).toNat = output c % 256))
  ∧ (∀ n, m.owners.owner (.output n) = none → getAt x.outputs n = 0)
  ∧ (∀ n c, m.owners.owner (.output n) = some c → getAt x.outputs n = output c)

/-- MIX_COMPLETE: the computed image, as R68 to R71 give it, becomes the working image and is marked complete unless STARTING was
entered meanwhile, the presented image stays, the held edits land with the entries they freed, and every COMPLETE staging frame is committed to its input layer,
LINE raised exactly where a commit changes the signal state (R19, R27, R37, R39 to R41, R66 to R71, R135, R138, R196; a master record of duration 0 is notes/assumptions/9.md). -/
def Obligations.MixCompleteMarksTheImageAndLandsEdits : Prop :=
  ∀ (b : Block) (q : List Instr) (latch : PassLatch), b.engine.phase = .released → b.mixer.pass = some latch →
    ∃ t, exec .mixComplete ⟨b, q⟩ = .next ⟨t, q⟩
      ∧ t.store.aPresented = b.store.aPresented ∧ t.store.hold = b.store.hold
      ∧ t.store.presented = b.store.presented ∧ IsTheImageOf b.mixer latch t.store.working
      ∧ t.store.complete = (!latch.restarted || b.store.complete)
      ∧ t.mixer = { b.mixer with pass := none, held := [], views := landEdits b.mixer.views b.mixer.held }
      ∧ awaitingLanding t = 0 ∧ poolInUse t = poolInUse b ∧ poolFree t = 3072 - poolInUse b
      ∧ (∀ l bytes, (lineOf b l).staging = .complete bytes →
          lineOf t l = { lineOf b l with
            layer := layerOf bytes
            staging := .empty
            signal := .present
            signalTimer := some (b.time.clock + BitVec.ofNat 32 (lineOf b l).config.lossTimeout) })
      ∧ (∀ l, (∀ bytes, (lineOf b l).staging ≠ .complete bytes) → lineOf t l = lineOf b l)
      ∧ (isRaised .line t = true
          ↔ isRaised .line b = true ∨ ∃ l bytes, (lineOf b l).staging = .complete bytes ∧ (lineOf b l).signal ≠ .present)
      ∧ (∀ src, src ≠ .line → isRaised src t = isRaised src b)
      ∧ t = { b with store := t.store, mixer := t.mixer, lines := t.lines, intStatus := t.intStatus }

/-! ### Timers of the playbacks and the mixer (R19 to R22, R77) -/

/-- A follow that a fade end arms (R21). -/
def FollowArmed (x : Playback) : Option Time :=
  match x.lastCue with
  | some c => if c.follow = .manual then none else some (x.timing.fadeEnd + BitVec.ofNat 32 c.hold)
  | none => none

/-- FADE_END from FADING: HOLDING, leaving entries removed and the rest settled, PLAYBACK raised, the follow of an AUTO or LINK cue
armed to the fade end plus the hold time; from RELEASING: IDLE with an empty set (R20, R21).  The head of a queue, if there is one, is
in service.  The entries removed are free at once between passes, and await landing during one (R27, R40, R41): what any one edit does,
and what the free count is, are the last two clauses.  A follow already reached expires at once: its GO NEXT is submitted, it is counted as superseded while a request is in the
queue, and in HALTED its GO NEXT ends with nothing done (R20 to R22, R25; that the superseded count stops at its top is
notes/assumptions/16.md). -/
def Obligations.AFadeEndSettlesThePlayback : Prop :=
  (∀ (p : Fin 8) (b : Block) (q : List Instr), clocked b = true → reached b.time.clock (playbackOf b p).timing.fadeEnd = true →
    ((playbackOf b p).queue = [] ∨ (playbackOf b p).load ≠ .none) →
    let x := playbackOf b p
    let settled := (x.entries.filter fun e => !e.leaving).map fun e => { e with start := e.target }
    let freed := (x.entries.filter fun e => e.leaving).length
    (x.fade = .fading → (∀ d, FollowArmed x = some d → reached b.time.clock d = false) →
      ∃ t, exec (.fadeEnd p) ⟨b, q⟩ = .next ⟨t, q⟩ ∧ isRaised .playback t = true
        ∧ playbackOf t p = { x with fade := .holding, entries := settled, follow := FollowArmed x } ∧ AnEditReachesTheMixer p freed b t
        ∧ (∀ p', p' ≠ p → playbackOf t p' = playbackOf b p')
        ∧ t = { b with playbacks := t.playbacks, mixer := t.mixer, intStatus := t.intStatus })
    ∧ (x.fade = .releasing →
      ∃ t, exec (.fadeEnd p) ⟨b, q⟩ = .next ⟨t, q⟩ ∧ isRaised .playback t = true
        ∧ playbackOf t p = { x with fade := .idle, remembered := none, entries := [], timing := .cleared, follow := none }
        ∧ AnEditReachesTheMixer p x.entries.length b t
        ∧ (∀ p', p' ≠ p → playbackOf t p' = playbackOf b p')
        ∧ t = { b with playbacks := t.playbacks, mixer := t.mixer, intStatus := t.intStatus })
    ∧ (x.fade = .fading → x.load = .none → x.queue = [] → b.engine.state ≠ .halted →
        (∃ d, FollowArmed x = some d ∧ reached b.time.clock d = true) →
      ∃ t, exec (.fadeEnd p) ⟨b, q⟩ = .next ⟨t, q⟩ ∧ isRaised .playback t = true
        ∧ (playbackOf t p).fade = .holding ∧ (playbackOf t p).entries = settled ∧ (playbackOf t p).follow = none
        ∧ AnEditReachesTheMixer p freed b t
        ∧ (playbackOf t p).queue = [⟨.follow, .goNext none⟩] ∧ (playbackOf t p).load ≠ .none)
    ∧ (x.fade = .fading → x.load ≠ .none → x.queue ≠ [] → (∃ d, FollowArmed x = some d ∧ reached b.time.clock d = true) →
      ∃ t, exec (.fadeEnd p) ⟨b, q⟩ = .next ⟨t, q⟩ ∧ isRaised .playback t = true
        ∧ playbackOf t p = { x with fade := .holding, entries := settled, follow := none } ∧ AnEditReachesTheMixer p freed b t
        ∧ t.superseded = countUp b.superseded
        ∧ t = { b with playbacks := t.playbacks, mixer := t.mixer, intStatus := t.intStatus, superseded := t.superseded })
    ∧ (x.fade = .fading → x.load = .none → x.queue = [] → b.engine.state = .halted →
        (∃ d, FollowArmed x = some d ∧ reached b.time.clock d = true) →
      ∃ t, exec (.fadeEnd p) ⟨b, q⟩ = .next ⟨t, q⟩ ∧ isRaised .playback t = true
        ∧ playbackOf t p = { x with fade := .holding, entries := settled, follow := none } ∧ AnEditReachesTheMixer p freed b t
        ∧ t = { b with playbacks := t.playbacks, mixer := t.mixer, intStatus := t.intStatus }))
  ∧ (∀ (p : Fin 8) (b : Block), edit p 0 b = { b with mixer := (edit p 0 b).mixer } ∧ AnEditReachesTheMixer p 0 b (edit p 0 b))
  ∧ ∀ b : Block, poolFree b = 3072 - (poolInUse b + awaitingLanding b)

/-- FOLLOW_EXPIRY with a request in the queue: the follow is disarmed and counted as superseded, and nothing else changes.  With an
empty queue an internal GO NEXT becomes the head, and its load job for the next cue is submitted; in HALTED it ends at once (R12, R22,
R25; that the superseded count stops at its top is notes/assumptions/16.md). -/
def Obligations.AFollowExpiryAdvancesOrIsSuperseded : Prop :=
  ∀ (p : Fin 8) (b : Block) (q : List Instr) (d : Time), clocked b = true → (playbackOf b p).fade ≠ .paused →
    (playbackOf b p).follow = some d → reached b.time.clock d = true →
    let x := playbackOf b p
    (x.queue ≠ [] → x.load ≠ .none →
      exec (.followExpiry p) ⟨b, q⟩
        = .next ⟨{ setPlayback p { x with follow := none } b with superseded := countUp b.superseded }, q⟩)
    ∧ (∀ c, x.queue = [] → x.load = .none → x.lastCue = some c → b.engine.state ≠ .halted →
      exec (.followExpiry p) ⟨b, q⟩
        = .next ⟨submitLoad p c.bank (if c.follow = .link then .exactly c.linkCue else .above c.cue)
            (setPlayback p { x with follow := none, queue := [⟨.follow, .goNext none⟩] } b), q⟩)
    ∧ (x.queue = [] → x.load = .none → b.engine.state = .halted →
      exec (.followExpiry p) ⟨b, q⟩ = .next ⟨setPlayback p { x with follow := none } b, q⟩)

/-- MASTER_SETTLING and GRAND_SETTLING: once the duration has passed the record's start level becomes its target and its duration 0,
and no value changes; a settled master reaches the mixer at once between passes and as the last held edit during one (R19, R40,
R77). -/
def Obligations.MasterFadesSettle : Prop :=
  (∀ (p : Fin 8) (b : Block) (q : List Instr), clocked b = true →
    let m := (playbackOf b p).master
    0 < m.duration → (m.duration : Int) ≤ showDiff b.time.clock m.time →
    ∃ t, exec (.masterSettling p) ⟨b, q⟩ = .next ⟨t, q⟩
      ∧ playbackOf t p = { playbackOf b p with master := { m with start := m.target, duration := 0 } }
      ∧ (playbackOf t p).master.value b.time.clock = m.value b.time.clock
      ∧ (∀ p', p' ≠ p → playbackOf t p' = playbackOf b p')
      ∧ AnEditReachesTheMixer p 0 b t
      ∧ t = { b with playbacks := t.playbacks, mixer := t.mixer })
  ∧ ∀ (b : Block) (q : List Instr), clocked b = true →
    0 < b.mixer.grand.duration → (b.mixer.grand.duration : Int) ≤ showDiff b.time.clock b.mixer.grand.time →
    ∃ g : FadeRecord, g = { b.mixer.grand with start := b.mixer.grand.target, duration := 0 }
      ∧ g.value b.time.clock = b.mixer.grand.value b.time.clock
      ∧ exec .grandSettling ⟨b, q⟩ = .next ⟨{ b with mixer := { b.mixer with grand := g } }, q⟩

/-! ### Local outputs and triggers (R159 to R166) -/

/-- PWM_PERIOD_END: a pending configuration is installed, every output whose load flag is set takes its presented value, the flags are
cleared, and the counter starts at 0; in every engine state (R159). -/
def Obligations.APwmPeriodEndInstallsAndLoads : Prop :=
  ∀ (b : Block) (q : List Instr), clocked b = true →
    ∃ t, exec .pwmPeriodEnd ⟨b, q⟩ = .next ⟨t, q⟩ ∧ t = { b with outputs := t.outputs }
      ∧ t.outputs.config = b.outputs.pending.getD b.outputs.config ∧ t.outputs.pending = none ∧ t.outputs.counter = 0
      ∧ ∀ n, getAt t.outputs.load n = false
          ∧ getAt t.outputs.compare n
              = if getAt b.outputs.load n then getAt b.store.presented.outputs n else getAt b.outputs.compare n

/-- R160 whole: the level of an output pin at each count of the period by its mode, compare value and invert flag; an inverted OFF output
is high throughout, and an inverted PWM output is low for its duty count; the output value of a full channel level under curve 0 is 65534,
whose duty count is 1023; and at the end of a period each output shows, in whatever mode is then installed, the compare value loaded at
that same end of period, or the one it already held. -/
def Obligations.AnOutputPinFollowsItsMode : Prop :=
  (∀ (b : Block) (n : Fin 16) (count : Nat), clocked b = true → count < 1024 →
    let v := getAt b.outputs.compare n
    let d := v / 64
    let mode := getAt b.outputs.config.modes n
    let pin := outputPin b n count
    (getAt b.outputs.config.inverts n = false →
      (mode = .off → pin = false)
      ∧ (mode = .pwm → d = 0 → pin = false)
      ∧ (mode = .pwm → 1 ≤ d → d ≤ 1022 → pin = decide (count < d))
      ∧ (mode = .pwm → d = 1023 → pin = true)
      ∧ (mode = .switch → 32768 ≤ v → pin = true)
      ∧ (mode = .switch → v < 32768 → pin = false))
    ∧ (getAt b.outputs.config.inverts n = true →
      (mode = .off → pin = true)
      ∧ (mode = .pwm → d = 0 → pin = true)
      ∧ (mode = .pwm → 1 ≤ d → d ≤ 1022 → pin = decide (d ≤ count))
      ∧ (mode = .pwm → d = 1023 → pin = false)
      ∧ (mode = .switch → 32768 ≤ v → pin = false)
      ∧ (mode = .switch → v < 32768 → pin = true)))
  ∧ (curveValue curveZero 65535 = 65534 ∧ 65534 / 64 = 1023)
  ∧ ∀ (b : Block) (q : List Instr), clocked b = true → ∃ t, exec .pwmPeriodEnd ⟨b, q⟩ = .next ⟨t, q⟩
    ∧ ∀ n, getAt t.outputs.config.modes n = getAt (b.outputs.pending.getD b.outputs.config).modes n
      ∧ getAt t.outputs.compare n
        = if getAt b.outputs.load n then getAt b.store.presented.outputs n else getAt b.outputs.compare n

/-- What an enabled edge of trigger `i` makes of the part `accepted`, in which it has been counted and TRIGGER raised: NOTE, and any
action outside RUNNING, nothing more; the blackout toggle; and the requests that arrive at the trigger's playback with the trigger as
their origin, of which one out of range is discarded, and one that finds the queue full is dropped and counted (R6, R23, R81, R166). -/
def TheEdgeActs (i : Fin 8) (accepted : Block) (becomes : Block → Prop) : Prop :=
  let g := triggerOf accepted i
  let x := playbackOf accepted g.record.playback
  let goOk := g.record.bank < accepted.anchor.bankCount ∧ 1 ≤ g.record.cue ∧ g.record.cue ≤ 65534
    ∧ ∀ n, g.record.time = some n → n ≤ 3600000
  let dropped := { accepted with triggers := setAt accepted.triggers i { g with dropped := countUp g.dropped } }
  (accepted.engine.state ≠ .running ∨ g.record.action = .note → becomes accepted)
  ∧ (accepted.engine.state = .running →
    (g.record.action = .blackoutToggle →
      becomes { accepted with mixer := { accepted.mixer with blackoutRequest := !accepted.mixer.blackoutRequest } })
    ∧ (g.record.action = .go → ¬goOk → becomes accepted)
    ∧ (g.record.action = .goNext → accepted.anchor.bankCount ≤ g.record.bank → becomes accepted)
    ∧ (4 ≤ x.queue.length →
        (g.record.action = .go → goOk → becomes dropped)
        ∧ (g.record.action = .goNext → g.record.bank < accepted.anchor.bankCount → becomes dropped)
        ∧ (g.record.action = .pause ∨ g.record.action = .resume → becomes dropped))
    ∧ (g.record.action = .go →
        becomes (arriveQueued g.record.playback (.trigger i) (.go g.record.bank g.record.cue g.record.time) accepted))
    ∧ (g.record.action = .goNext →
        becomes (arriveQueued g.record.playback (.trigger i) (.goNext (some g.record.bank)) accepted))
    ∧ (g.record.action = .pause → becomes (arriveQueued g.record.playback (.trigger i) .pause accepted))
    ∧ (g.record.action = .resume → becomes (arriveQueued g.record.playback (.trigger i) .resume accepted))
    ∧ (g.record.action = .release → becomes (arriveRelease g.record.playback (.trigger i) g.record.time accepted)))

/-- TRIGGER_PIN_CHANGE: away from the settled level with a debounce time the timer starts, back to it the timer stops, both with no
edge; with debounce 0 the level settles at once, and an edge that is not enabled is passed over while an enabled one is counted, raises
TRIGGER, and in RUNNING performs its action (R23, R81, R164 to R166). -/
def Obligations.ATriggerPinChangeDebouncesOrSettles : Prop :=
  ∀ (i : Fin 8) (level : Bool) (b : Block) (q : List Instr), clocked b = true → level ≠ (triggerOf b i).pin →
    let g := triggerOf b i
    let becomes := fun t : Block => exec (.triggerPinChange i level) ⟨b, q⟩ = .next ⟨t, q⟩
    (level ≠ g.settled → g.record.debounce ≠ 0 →
      becomes { b with triggers := setAt b.triggers i { g with
        pin := level, timer := some (b.time.clock + BitVec.ofNat 32 g.record.debounce) } })
    ∧ (level = g.settled → becomes { b with triggers := setAt b.triggers i { g with pin := level, timer := none } })
    ∧ (level ≠ g.settled → g.record.debounce = 0 → g.record.edge.enables level = false →
      becomes { b with triggers := setAt b.triggers i { g with pin := level, settled := level, timer := none } })
    ∧ (level ≠ g.settled → g.record.debounce = 0 → g.record.edge.enables level = true →
      let accepted := raiseInt .trigger { b with triggers := setAt b.triggers i { g with
        pin := level, settled := level, timer := none, accepted := countUp g.accepted } }
      isRaised .trigger accepted = true ∧ TheEdgeActs i accepted becomes)

/-- DEBOUNCE_EXPIRY: the pin's level settles; an enabled edge is counted, raises TRIGGER, and in RUNNING performs its action: the blackout
toggle, or a request that arrives with the trigger as its origin, which a full queue drops and counts (R23, R81, R164 to R166). -/
def Obligations.ADebounceExpiryExaminesTheEdge : Prop :=
  ∀ (i : Fin 8) (b : Block) (q : List Instr) (d : Time), clocked b = true →
    (triggerOf b i).timer = some d → reached b.time.clock d = true →
    let g := triggerOf b i
    let becomes := fun t : Block => exec (.debounceExpiry i) ⟨b, q⟩ = .next ⟨t, q⟩
    (g.record.edge.enables g.pin = false →
      becomes { b with triggers := setAt b.triggers i { g with settled := g.pin, timer := none } })
    ∧ (g.record.edge.enables g.pin = true →
      let accepted := raiseInt .trigger { b with triggers := setAt b.triggers i { g with
        settled := g.pin, timer := none, accepted := countUp g.accepted } }
      isRaised .trigger accepted = true ∧ TheEdgeActs i accepted becomes)

/-! ### Requests from the post table (R170, R172, R174) -/

/-- When a request can come from a slot of the post table: no reset is applied, the engine is RUNNING, the slot is one of the table,
holds no place of the result queue, and is not being claimed by the scanner (notes/assumptions/6.md). -/
def CanCome (slot : Fin 32) (b : Block) : Prop :=
  b.engine.phase = .released ∧ b.engine.state = .running ∧ slot.val < b.anchor.slots
    ∧ slot ∉ b.results.reserved ∧ (∀ c ∈ b.results.queue, c.slot ≠ slot) ∧ ∀ rest n, b.scanner.step ≠ .claim slot rest n

/-- Check `n`, counted from 1, is the first of a list that fails. -/
def FirstFails (checks : List Bool) (n : Nat) : Prop :=
  1 ≤ n ∧ checks[n - 1]? = some false ∧ ∀ k, k < n - 1 → checks[k]? = some true

/-- SET FRAME: the checks in order, then the budget of every line, whose pending configuration is checked if it has one and the one in
force otherwise, and a request that passes makes its values pending, the one pending before it completing CANCELLED (R106, R107, R108, R109; result values not named are 0 by notes/assumptions/26.md). -/
def Obligations.SetFrameIsCheckedAndPlaced : Prop :=
  ∀ (slot : Fin 32) (period scan status : Word) (b : Block) (q : List Instr), CanCome slot b →
    let r := reservePlace slot b
    let checks := [decide (4000 ≤ period.toNat ∧ period.toNat ≤ 100000), decide (1 ≤ scan.toNat ∧ scan.toNat ≤ 8),
      decide (status.toNat ≤ 255)]
    let f := fun l : Fin 4 => ((lineOf b l).pending.map Prod.fst).getD (lineOf b l).config
    let smallest := fun l => (20 + 11 * ((f l).slots + 3) + if (f l).talkback then 720 else 0) * (if (f l).rate = .fast then 1 else 2) + 200
    let fit := fun l => (f l).mode = .send ∨ (f l).mode = .loop → smallest l ≤ period.toNat
    let pending := some ((⟨period.toNat, scan.toNat, status.toNat⟩ : FrameValues), slot)
    (∀ n, FirstFails checks n →
      exec (.setFrame slot period scan status) ⟨b, q⟩ = .next ⟨complete slot .badParam (BitVec.ofNat 32 n) 0 0 r, q⟩)
    ∧ ((∀ x ∈ checks, x = true) →
      (∀ l, ¬fit l → (∀ l', l' < l → fit l') →
        exec (.setFrame slot period scan status) ⟨b, q⟩
          = .next ⟨complete slot .budget (BitVec.ofNat 32 l.val) (BitVec.ofNat 32 (smallest l)) 0 r, q⟩)
      ∧ ((∀ l, fit l) → b.time.pending = none →
        exec (.setFrame slot period scan status) ⟨b, q⟩ = .next ⟨{ r with time := { b.time with pending := pending } }, q⟩)
      ∧ (∀ v owner, (∀ l, fit l) → b.time.pending = some (v, owner) →
        exec (.setFrame slot period scan status) ⟨b, q⟩
          = .next ⟨{ complete owner .cancelled 0 0 0 r with time := { b.time with pending := pending } }, q⟩))

/-- SET LINE: a line above 3 is BAD_TARGET, the first parameter out of range is BAD_PARAM, a configuration that does not fit the
period the next boundary leaves is BUDGET, and one that passes becomes pending, the one pending before it completing CANCELLED (R106,
R107, R120 to R122; result values not named are 0 by notes/assumptions/26.md). -/
def Obligations.SetLineIsCheckedAndPlaced : Prop :=
  ∀ (slot : Fin 32) (line mode rate count talkback base timeout action : Word) (b : Block) (q : List Instr), CanCome slot b →
    let c := Instr.setLine slot line mode rate count talkback base timeout action
    let r := reservePlace slot b
    let checks := [decide (mode.toNat ≤ 3), decide (rate.toNat ≤ 1), decide (1 ≤ count.toNat ∧ count.toNat ≤ 256),
      decide (talkback.toNat ≤ 1), decide (base.toNat ≤ 1023), decide (100 ≤ timeout.toNat ∧ timeout.toNat ≤ 5000),
      decide (action.toNat ≤ 1)]
    let period := ((b.time.pending.map Prod.fst).getD b.time.inForce).period
    (4 ≤ line.toNat → exec c ⟨b, q⟩ = .next ⟨complete slot .badTarget 0 0 0 r, q⟩)
    ∧ ∀ l : Fin 4, line.toNat = l.val →
      (∀ n, FirstFails checks n → exec c ⟨b, q⟩ = .next ⟨complete slot .badParam (BitVec.ofNat 32 n) 0 0 r, q⟩)
      ∧ ((∀ x ∈ checks, x = true) → ∃ f : LineConfig,
        f.mode.code = mode.toNat ∧ (f.rate = .fast ↔ rate.toNat = 1) ∧ f.slots = count.toNat
        ∧ (f.talkback = true ↔ talkback.toNat = 1 ∧ mode.toNat = 1) ∧ f.base = base.toNat ∧ f.lossTimeout = timeout.toNat
        ∧ (f.lossAction = .clear ↔ action.toNat = 1)
        ∧ lineTime f = (if mode.toNat = 1 ∨ mode.toNat = 3 then
            (20 + 11 * (count.toNat + 3) + if f.talkback then 720 else 0) * (if rate.toNat = 1 then 1 else 2) else 0)
        ∧ ((mode.toNat = 1 ∨ mode.toNat = 3) → period < lineTime f + 200 →
          exec c ⟨b, q⟩ = .next ⟨complete slot .budget (BitVec.ofNat 32 (lineTime f + 200)) (BitVec.ofNat 32 period) 0 r, q⟩)
        ∧ ((mode.toNat = 1 ∨ mode.toNat = 3 → lineTime f + 200 ≤ period) →
          ((lineOf b l).pending = none →
            exec c ⟨b, q⟩ = .next ⟨{ r with lines := setAt b.lines l { lineOf b l with pending := some (f, slot) } }, q⟩)
          ∧ ∀ g owner, (lineOf b l).pending = some (g, owner) →
            exec c ⟨b, q⟩
              = .next ⟨{ complete owner .cancelled 0 0 0 r with
                  lines := setAt b.lines l { lineOf b l with pending := some (f, slot) } }, q⟩))

/-- SET OUTPUTS: a clock select out of range is BAD_PARAM 1, a mode field of 3 is BAD_PARAM 2 with its output, and otherwise the
configuration becomes pending, replacing any pending one, and the request completes OK (R162; result values not named are 0 by
notes/assumptions/26.md). -/
def Obligations.SetOutputsIsCheckedAndPlaced : Prop :=
  ∀ (slot : Fin 32) (clock modes inverts : Word) (b : Block) (q : List Instr), CanCome slot b →
    let c := Instr.setOutputs slot clock modes inverts
    let r := reservePlace slot b
    let mode := fun n : Nat => modes.toNat / 2 ^ (2 * n) % 4
    (3 ≤ clock.toNat → exec c ⟨b, q⟩ = .next ⟨complete slot .badParam 1 0 0 r, q⟩)
    ∧ (∀ n, clock.toNat ≤ 2 → n < 16 → mode n = 3 → (∀ k, k < n → mode k ≠ 3) →
        exec c ⟨b, q⟩ = .next ⟨complete slot .badParam 2 (BitVec.ofNat 32 n) 0 r, q⟩)
    ∧ (clock.toNat ≤ 2 → (∀ n, n < 16 → mode n ≠ 3) → ∃ f : OutputConfig,
        (f.clock = .low ↔ clock.toNat = 0) ∧ (f.clock = .middle ↔ clock.toNat = 1)
        ∧ (∀ n : Fin 16, (getAt f.modes n = .off ↔ mode n.val = 0) ∧ (getAt f.modes n = .pwm ↔ mode n.val = 1)
            ∧ getAt f.inverts n = inverts.getLsbD n.val)
        ∧ exec c ⟨b, q⟩ = .next ⟨complete slot .ok 0 0 0 { r with outputs := { b.outputs with pending := some f } }, q⟩)

/-- SET TRIGGER: a trigger above 7 is BAD_TARGET, the first parameter out of range is BAD_PARAM, and an accepted request writes the
record, stops the debounce timer, settles the pin's level with no edge, and reports the counts, which it keeps (R167; result values not
named are 0 by notes/assumptions/26.md). -/
def Obligations.SetTriggerWritesItsRecord : Prop :=
  ∀ (slot : Fin 32) (trigger edge debounce action playback bank cue time : Word) (b : Block) (q : List Instr), CanCome slot b →
    let c := Instr.setTrigger slot trigger edge debounce action playback bank cue time
    let r := reservePlace slot b
    let checks := [decide (edge.toNat ≤ 3), decide (debounce.toNat ≤ 255), decide (action.toNat ≤ 6), decide (playback.toNat ≤ 7),
      decide (bank.toNat ≤ 15), decide (cue.toNat ≤ 65535), decide (time = 0xFFFFFFFF ∨ time.toNat ≤ 3600000)]
    (8 ≤ trigger.toNat → exec c ⟨b, q⟩ = .next ⟨complete slot .badTarget 0 0 0 r, q⟩)
    ∧ ∀ i : Fin 8, trigger.toNat = i.val →
      (∀ n, FirstFails checks n → exec c ⟨b, q⟩ = .next ⟨complete slot .badParam (BitVec.ofNat 32 n) 0 0 r, q⟩)
      ∧ ((∀ x ∈ checks, x = true) → ∃ f : TriggerRecord,
        [EdgeSelect.none, .rising, .falling, .both][edge.toNat]? = some f.edge ∧ f.debounce = debounce.toNat
        ∧ [TriggerAction.note, .go, .goNext, .pause, .resume, .release, .blackoutToggle][action.toNat]? = some f.action
        ∧ f.playback.val = playback.toNat ∧ f.bank = bank.toNat ∧ f.cue = cue.toNat
        ∧ f.time = (if time = 0xFFFFFFFF then none else some time.toNat)
        ∧ exec c ⟨b, q⟩
            = .next ⟨complete slot .ok (BitVec.ofNat 32 (triggerOf b i).accepted) (BitVec.ofNat 32 (triggerOf b i).dropped) 0
                { r with triggers := setAt b.triggers i { triggerOf b i with
                    record := f, timer := none, settled := (triggerOf b i).pin } }, q⟩)

/-- PATCH and LOAD CURVE: a curve outside 1 to 7 is BAD_TARGET, a record count outside 1 to 1024 BAD_PARAM, a full queue QUEUE_FULL; a
job behind a busy reader, or behind a PATCH at the head that a READY staging keeps there, waits, and an idle reader with nothing queued takes it at once, a PATCH only into an EMPTY staging, a LOAD
CURVE superseding a READY shadow of its curve (R85, R86, R93, R94; that the owner's CANCELLED asks for its RESULTS tenure before the
TABLES tenure is asked for, which decides the one an IDLE port begins, is notes/assumptions/23.md; result values not named are 0 by
26.md). -/
def Obligations.TableRequestsJoinTheTableLoader : Prop :=
  ∀ (slot : Fin 32) (address count curve : Word) (b : Block) (q : List Instr), CanCome slot b →
    let r := reservePlace slot b
    let patch := Instr.patch slot address count
    let load := Instr.loadCurve slot curve address
    let j := TableJob.patch slot address count.toNat
    let full := decide (4 ≤ b.tables.queue.length)
    let patchWaits := ∃ s a n rest, b.tables.queue = .patch s a n :: rest
    (count.toNat = 0 ∨ 1024 < count.toNat → exec patch ⟨b, q⟩ = .next ⟨complete slot .badParam 0 0 0 r, q⟩)
    ∧ (curve.toNat = 0 ∨ 7 < curve.toNat → exec load ⟨b, q⟩ = .next ⟨complete slot .badTarget 0 0 0 r, q⟩)
    ∧ (1 ≤ count.toNat → count.toNat ≤ 1024 →
      (full = true → exec patch ⟨b, q⟩ = .next ⟨complete slot .queueFull 0 0 0 r, q⟩)
      ∧ (full = false → b.tables.reader.isSome = true ∨ b.tables.staging ≠ .empty ∧ (b.tables.queue = [] ∨ patchWaits) →
        exec patch ⟨b, q⟩ = .next ⟨{ r with tables := { b.tables with queue := b.tables.queue ++ [j] } }, q⟩)
      ∧ (b.tables.reader = none → b.tables.queue = [] → b.tables.staging = .empty →
        exec patch ⟨b, q⟩ = .next ⟨ask .tables (.read address (min 16 (3 * count.toNat)))
          { r with tables := { b.tables with reader := some j, staging := .filling [] } }, q⟩))
    ∧ ∀ k : Fin 7, curve.toNat = k.val + 1 →
      let j' := TableJob.curve slot k address
      let taken := { b.tables with reader := some j', shadows := setAt b.tables.shadows k (.filling []) }
      (full = true → exec load ⟨b, q⟩ = .next ⟨complete slot .queueFull 0 0 0 r, q⟩)
      ∧ (full = false → b.tables.reader.isSome = true ∨ b.tables.staging ≠ .empty ∧ patchWaits →
        exec load ⟨b, q⟩ = .next ⟨{ r with tables := { b.tables with queue := b.tables.queue ++ [j'] } }, q⟩)
      ∧ (b.tables.reader = none → b.tables.queue = [] → (∀ owner points, getAt b.tables.shadows k ≠ .ready owner points) →
        exec load ⟨b, q⟩ = .next ⟨ask .tables (.read address 16) { r with tables := taken }, q⟩)
      ∧ ∀ owner points, b.tables.reader = none → b.tables.queue = [] → getAt b.tables.shadows k = .ready owner points →
        exec load ⟨b, q⟩
          = .next ⟨ask .tables (.read address 16) { complete owner .cancelled 0 0 0 r with tables := taken }, q⟩

/-- SET GRAND: out of range is BAD_PARAM with the record as it was; otherwise the record fades from the present value, which is the
first result value, and the value does not jump unless the time is 0 (R78; at a time of 0 see notes/assumptions/9.md; result values not
named are 0 by 26.md). -/
def Obligations.SetGrandFadesTheGrandMaster : Prop :=
  ∀ (slot : Fin 32) (level time : Word) (b : Block) (q : List Instr), CanCome slot b →
    let c := Instr.setGrand slot level time
    let r := reservePlace slot b
    let now := b.time.clock
    let present := b.mixer.grand.value now
    let record : FadeRecord := ⟨present, level.toNat, now, time.toNat⟩
    (65535 < level.toNat ∨ 3600000 < time.toNat → exec c ⟨b, q⟩ = .next ⟨complete slot .badParam 0 0 0 r, q⟩)
    ∧ (level.toNat ≤ 65535 → time.toNat ≤ 3600000 →
      exec c ⟨b, q⟩
        = .next ⟨complete slot .ok (BitVec.ofNat 32 present) 0 0 { r with mixer := { b.mixer with grand := record } }, q⟩
      ∧ (0 < time.toNat → record.value now = present) ∧ (time.toNat = 0 → record.value now = level.toNat))

/-- BLACKOUT: OFF, ON and TOGGLE act on the blackout request state, the state after and before are the result values, any other value
is BAD_PARAM, and CONTROL stays as it is (R80; that the values of BAD_PARAM and the third value of OK are 0 is
notes/assumptions/26.md). -/
def Obligations.BlackoutSetsTheRequestState : Prop :=
  ∀ (slot : Fin 32) (action : Word) (b : Block) (q : List Instr), CanCome slot b →
    let r := reservePlace slot b
    let before := b.mixer.blackoutRequest
    let word := fun x : Bool => if x then (1 : Word) else 0
    let sets := fun after : Bool =>
      exec (.blackout slot action) ⟨b, q⟩
        = .next ⟨complete slot .ok (word after) (word before) 0
            { r with mixer := { b.mixer with blackoutRequest := after } }, q⟩
    (action.toNat = 0 → sets false) ∧ (action.toNat = 1 → sets true) ∧ (action.toNat = 2 → sets (!before))
    ∧ (3 ≤ action.toNat → exec (.blackout slot action) ⟨b, q⟩ = .next ⟨complete slot .badParam 0 0 0 r, q⟩)

/-- SNAPSHOT: with a job present BUSY, and otherwise the job waits for a swap and nothing completes (R179). -/
def Obligations.ASnapshotWaitsForASwap : Prop :=
  ∀ (slot : Fin 32) (address : Word) (b : Block) (q : List Instr), CanCome slot b →
    let r := reservePlace slot b
    (b.status.snapshot.isSome = true →
      exec (.snapshot slot address) ⟨b, q⟩ = .next ⟨complete slot .busy 0 0 0 r, q⟩)
    ∧ (b.status.snapshot = none →
      exec (.snapshot slot address) ⟨b, q⟩
        = .next ⟨{ r with status := { b.status with snapshot := some ⟨slot, address, .waiting⟩ } }, q⟩)

/-- CLEAR LINE STATUS: a line above 3 is BAD_TARGET; otherwise the received and sent counts are reported, every count and the summary
are cleared, and the rest of the line stays (R142; that the third result value is 0 is notes/assumptions/26.md). -/
def Obligations.ClearLineStatusReportsAndClears : Prop :=
  ∀ (slot : Fin 32) (line : Word) (b : Block) (q : List Instr), CanCome slot b →
    let r := reservePlace slot b
    (4 ≤ line.toNat → exec (.clearLineStatus slot line) ⟨b, q⟩ = .next ⟨complete slot .badTarget 0 0 0 r, q⟩)
    ∧ ∀ l : Fin 4, line.toNat = l.val →
      let x := lineOf b l
      let clear : ErrorRecord := ⟨0, false⟩
      exec (.clearLineStatus slot line) ⟨b, q⟩
        = .next ⟨complete slot .ok (BitVec.ofNat 32 x.received) (BitVec.ofNat 32 x.sent) 0
            { r with lines := setAt b.lines l { x with
                errors := ⟨clear, clear, clear, clear, clear⟩, received := 0, foreign := 0, stray := 0, sent := 0 } }, q⟩

/-- QUERY: a line above 3 or without talkback is BAD_TARGET, the first parameter out of range BAD_PARAM, a full queue QUEUE_FULL, and
one that passes joins the tail with its parameter bytes (R145; result values not named are 0 by notes/assumptions/26.md). -/
def Obligations.AQueryJoinsItsLine : Prop :=
  ∀ (slot : Fin 32) (line address code count bytes0 bytes4 reply : Word) (b : Block) (q : List Instr), CanCome slot b →
    let c := Instr.query slot line address code count bytes0 bytes4 reply
    let r := reservePlace slot b
    let checks := [decide (address.toNat ≤ 65535), decide (code.toNat ≤ 255), decide (count.toNat ≤ 8)]
    (4 ≤ line.toNat → exec c ⟨b, q⟩ = .next ⟨complete slot .badTarget 0 0 0 r, q⟩)
    ∧ ∀ l : Fin 4, line.toNat = l.val →
      let x := lineOf b l
      (x.config.talkback = false → exec c ⟨b, q⟩ = .next ⟨complete slot .badTarget 0 0 0 r, q⟩)
      ∧ (x.config.talkback = true →
        (∀ n, FirstFails checks n → exec c ⟨b, q⟩ = .next ⟨complete slot .badParam (BitVec.ofNat 32 n) 0 0 r, q⟩)
        ∧ ((∀ y ∈ checks, y = true) → 4 ≤ x.queries.length → exec c ⟨b, q⟩ = .next ⟨complete slot .queueFull 0 0 0 r, q⟩)
        ∧ ((∀ y ∈ checks, y = true) → x.queries.length < 4 → ∃ f : Query,
          f.slot = slot ∧ f.address = address.toNat ∧ f.code = code.toNat ∧ f.area = reply ∧ f.bytes.length = count.toNat
          ∧ (∀ k, k < count.toNat → ∃ y, f.bytes[k]? = some y
              ∧ y.toNat = (if k < 4 then bytes0 else bytes4).toNat / 2 ^ (8 * (k % 4)) % 256)
          ∧ exec c ⟨b, q⟩ = .next ⟨{ r with lines := setAt b.lines l { x with queries := x.queries ++ [f] } }, q⟩))

/-- GO and GO NEXT: BAD_TARGET, BAD_PARAM and QUEUE_FULL as R6 and R174 give them; behind a load they wait; into an empty queue they
are served at once, the follow disarmed and a load job submitted for the cue of R9 or R12, or CUE_MISSING without a target (R13).  The
last two clauses say what submitting a job does (R46, R48). -/
def Obligations.GoAndGoNextStartALoad : Prop :=
  (∀ (slot : Fin 32) (playback bank cue time : Word) (b : Block) (q : List Instr), CanCome slot b →
    let go := Instr.go slot playback bank cue time
    let next := Instr.goNext slot playback bank
    let r := reservePlace slot b
    let override := if time = 0xFFFFFFFF then none else some time.toNat
    let given := if bank = 0xFFFFFFFF then none else some bank.toNat
    let okGo := bank.toNat < b.anchor.bankCount ∧ 1 ≤ cue.toNat ∧ cue.toNat ≤ 65534 ∧ (time = 0xFFFFFFFF ∨ time.toNat ≤ 3600000)
    let okNext := bank = 0xFFFFFFFF ∨ bank.toNat < b.anchor.bankCount
    (8 ≤ playback.toNat → exec go ⟨b, q⟩ = .next ⟨complete slot .badTarget 0 0 0 r, q⟩
      ∧ exec next ⟨b, q⟩ = .next ⟨complete slot .badTarget 0 0 0 r, q⟩)
    ∧ ∀ p : Fin 8, playback.toNat = p.val →
      let x := playbackOf b p
      let asGo : QueuedRequest := ⟨.post slot, .go bank.toNat cue.toNat override⟩
      let asNext : QueuedRequest := ⟨.post slot, .goNext given⟩
      (¬okGo → exec go ⟨b, q⟩ = .next ⟨complete slot .badParam 0 0 0 r, q⟩)
      ∧ (¬okNext → exec next ⟨b, q⟩ = .next ⟨complete slot .badParam 0 0 0 r, q⟩)
      ∧ (okGo → 4 ≤ x.queue.length → exec go ⟨b, q⟩ = .next ⟨complete slot .queueFull 0 0 0 r, q⟩)
      ∧ (okNext → 4 ≤ x.queue.length → exec next ⟨b, q⟩ = .next ⟨complete slot .queueFull 0 0 0 r, q⟩)
      ∧ (okGo → x.queue.length < 4 → x.load ≠ .none →
        exec go ⟨b, q⟩ = .next ⟨setPlayback p { x with queue := x.queue ++ [asGo] } r, q⟩)
      ∧ (okNext → x.queue.length < 4 → x.load ≠ .none →
        exec next ⟨b, q⟩ = .next ⟨setPlayback p { x with queue := x.queue ++ [asNext] } r, q⟩)
      ∧ (okGo → x.queue = [] → x.load = .none →
        exec go ⟨b, q⟩ = .next ⟨submitLoad p bank.toNat (.exactly cue.toNat)
          (setPlayback p { x with queue := [asGo], follow := none } r), q⟩)
      ∧ (okNext → x.queue = [] → x.load = .none →
        (∀ c, x.lastCue = some c →
          exec next ⟨b, q⟩ = .next ⟨submitLoad p c.bank (if c.follow = .link then .exactly c.linkCue else .above c.cue)
            (setPlayback p { x with queue := [asNext], follow := none } r), q⟩)
        ∧ (x.lastCue = none → given ≠ none →
          exec next ⟨b, q⟩ = .next ⟨submitLoad p bank.toNat .first
            (setPlayback p { x with queue := [asNext], follow := none } r), q⟩)
        ∧ (x.lastCue = none → given = none →
          exec next ⟨b, q⟩ = .next ⟨complete slot .cueMissing 0 0 0 (setPlayback p { x with follow := none } r), q⟩)))
  ∧ ∀ (p : Fin 8) (bank : Nat) (search : Search) (b : Block), b.engine.state ≠ .halted →
    let x := playbackOf b p
    let job : LoadJob := ⟨p, bank, search, 0, false⟩
    (b.loader.current = none → (∀ j ∈ b.loader.queue, j.deferred = true) →
      submitLoad p bank search b
        = ask .loader (.modify (b.anchor.banks[bank]?.getD 0) 0 2)
            { setPlayback p { x with load := .reading } b with
              loader := { b.loader with current := some ⟨job, .lock, false, false, none, none⟩ } })
    ∧ (b.loader.current.isSome = true →
      submitLoad p bank search b
        = { setPlayback p { x with load := .waiting } b with loader := { b.loader with queue := b.loader.queue ++ [job] } })

/-- PAUSE and RESUME: BAD_TARGET and QUEUE_FULL, and waiting behind a load, as for GO; into an empty queue they are served at once.
PAUSE freezes a fade at its elapsed time, or a follow at the time left, and RESUME lets it go on from there; in any other fade state
each is BAD_STATE (R6, R14, R15).  A RESUME to a fade end or a follow time already reached has it expire after the RESUME has left the
queue: the last three clauses (R21, R22; notes/assumptions/8.md). -/
def Obligations.PauseAndResumeFreezeAndContinue : Prop :=
  ∀ (slot : Fin 32) (playback : Word) (b : Block) (q : List Instr), CanCome slot b →
    let pause := Instr.pause slot playback
    let resume := Instr.resume slot playback
    let r := reservePlace slot b
    let now := b.time.clock
    (8 ≤ playback.toNat → exec pause ⟨b, q⟩ = .next ⟨complete slot .badTarget 0 0 0 r, q⟩
      ∧ exec resume ⟨b, q⟩ = .next ⟨complete slot .badTarget 0 0 0 r, q⟩)
    ∧ ∀ p : Fin 8, playback.toNat = p.val →
      let x := playbackOf b p
      (4 ≤ x.queue.length → exec pause ⟨b, q⟩ = .next ⟨complete slot .queueFull 0 0 0 r, q⟩
        ∧ exec resume ⟨b, q⟩ = .next ⟨complete slot .queueFull 0 0 0 r, q⟩)
      ∧ (x.queue.length < 4 → x.load ≠ .none →
        exec pause ⟨b, q⟩ = .next ⟨setPlayback p { x with queue := x.queue ++ [⟨.post slot, .pause⟩] } r, q⟩
        ∧ exec resume ⟨b, q⟩ = .next ⟨setPlayback p { x with queue := x.queue ++ [⟨.post slot, .resume⟩] } r, q⟩)
      ∧ (x.queue = [] → x.load = .none →
        let frozen := fun (st : Remembered) (v : Int) =>
          exec pause ⟨b, q⟩
            = .next ⟨complete slot .ok (BitVec.ofInt 32 v) 0 0 (edit p 0 (setPlayback p
                { x with fade := .paused, remembered := some st, timing := { x.timing with paused := some v } } r)), q⟩
        (x.fade = .fading → frozen .fading (showDiff now x.timing.start))
        ∧ (x.fade = .releasing → frozen .releasing (showDiff now x.timing.start))
        ∧ (∀ d, x.fade = .holding → x.follow = some d → frozen .holding (showDiff d now))
        ∧ (x.fade = .idle ∨ x.fade = .paused ∨ x.fade = .holding ∧ x.follow = none →
          exec pause ⟨b, q⟩ = .next ⟨complete slot .badState 0 0 0 r, q⟩))
      ∧ (x.queue = [] → x.load = .none →
        (x.fade ≠ .paused → exec resume ⟨b, q⟩ = .next ⟨complete slot .badState 0 0 0 r, q⟩)
        ∧ ∀ v : Int, x.fade = .paused → x.timing.paused = some v →
          let start := now - BitVec.ofInt 32 v
          let fadeEnd := x.timing.fadeEnd + (start - x.timing.start)
          let goes := fun st : FadeState =>
            exec resume ⟨b, q⟩
              = .next ⟨complete slot .ok 0 0 0 (edit p 0 (setPlayback p { x with
                  fade := st, remembered := none
                  timing := { x.timing with start := start, fadeEnd := fadeEnd, paused := none } } r)), q⟩
          let ended := fun (freed : Nat) (t : Block) => isRaised .playback t = true ∧ t.superseded = b.superseded
            ∧ t.results.queue = b.results.queue ++ [⟨slot, .ok, 0, 0, 0⟩]
            ∧ (b.mixer.pass = none → t.mixer = { b.mixer with views := setAt b.mixer.views p (playbackOf t p).view })
            ∧ awaitingLanding t = awaitingLanding b + if b.mixer.pass.isSome then freed else 0
          (x.remembered = some .fading → reached now fadeEnd = false → goes .fading)
          ∧ (x.remembered = some .releasing → reached now fadeEnd = false → goes .releasing)
          ∧ (x.remembered = some .holding → reached now (now + BitVec.ofInt 32 v) = false →
            exec resume ⟨b, q⟩
              = .next ⟨complete slot .ok 0 0 0 (edit p 0 (setPlayback p { x with
                  fade := .holding, remembered := none, timing := { x.timing with paused := none }
                  follow := some (now + BitVec.ofInt 32 v) } r)), q⟩)
          ∧ (x.remembered = some .releasing → reached now fadeEnd = true →
            ∃ t, exec resume ⟨b, q⟩ = .next ⟨t, q⟩ ∧ ended x.entries.length t
              ∧ t.playbacks = setAt b.playbacks p { x with
                  fade := .idle, remembered := none, entries := [], timing := .cleared, follow := none })
          ∧ (x.remembered = some .fading → reached now fadeEnd = true →
            let y := { x with
              fade := .holding, remembered := none
              entries := (x.entries.filter fun e => !e.leaving).map fun e => { e with start := e.target }
              timing := { x.timing with start := start, fadeEnd := fadeEnd, paused := none } }
            let follow := FollowArmed y
            ∃ t, exec resume ⟨b, q⟩ = .next ⟨t, q⟩ ∧ ended (x.entries.filter fun e => e.leaving).length t
              ∧ ((∀ d, follow = some d → reached now d = false) →
                  t.playbacks = setAt b.playbacks p { y with follow := follow })
              ∧ ∀ d, follow = some d → reached now d = true → (playbackOf t p).load ≠ .none
                ∧ playbackOf t p = { y with follow := none, queue := [⟨.follow, .goNext none⟩], load := (playbackOf t p).load })
          ∧ (∀ cue, x.remembered = some .holding → reached now (now + BitVec.ofInt 32 v) = true → x.lastCue = some cue →
            ∃ t, exec resume ⟨b, q⟩ = .next ⟨t, q⟩ ∧ (playbackOf t p).fade = .holding ∧ (playbackOf t p).remembered = none
              ∧ (playbackOf t p).timing = { x.timing with paused := none } ∧ (playbackOf t p).follow = none
              ∧ (playbackOf t p).queue = [⟨.follow, .goNext none⟩] ∧ (playbackOf t p).load ≠ .none
              ∧ t.results.queue = b.results.queue ++ [⟨slot, .ok, 0, 0, 0⟩]))

/-- RELEASE: BAD_TARGET and BAD_PARAM; an idle playback with nothing to do only completes OK; otherwise every entry fades out from
its present value over the release time, at once when that is 0 or the set is empty; and whatever the queue and the load were, the
requests that wait complete CANCELLED in queue order, a load that waits is taken out of the loader queue and its request completes
ABANDONED, a load being read is marked for the loader to abandon, the RELEASE completes OK with the number of entries, and the last cue
and the master stay (R16, R17, R36, R59; result values not named are 0 by notes/assumptions/26.md, and that the cancelled requests complete
in queue order is the model's choice, 22.md). -/
def Obligations.AReleaseFadesThePlaybackOut : Prop :=
  ∀ (slot : Fin 32) (playback time : Word) (b : Block) (q : List Instr), CanCome slot b →
    let c := Instr.release slot playback time
    let r := reservePlace slot b
    let now := b.time.clock
    (8 ≤ playback.toNat → exec c ⟨b, q⟩ = .next ⟨complete slot .badTarget 0 0 0 r, q⟩)
    ∧ ∀ p : Fin 8, playback.toNat = p.val →
      let x := playbackOf b p
      let inRange := time = 0xFFFFFFFF ∨ time.toNat ≤ 3600000
      (¬inRange → exec c ⟨b, q⟩ = .next ⟨complete slot .badParam 0 0 0 r, q⟩)
      ∧ (inRange → x.queue = [] → x.load = .none →
        (x.fade = .idle →
          exec c ⟨b, q⟩ = .next ⟨complete slot .ok 0 0 0 (setPlayback p { x with follow := none } r), q⟩)
        ∧ ∀ down : Nat, x.fade ≠ .idle →
            (time ≠ 0xFFFFFFFF ∧ down = time.toNat ∨ time = 0xFFFFFFFF ∧ x.lastCue.map LastCue.down = some down) →
          let fadeEnd := if x.entries = [] then now else now + BitVec.ofNat 32 down
          (reached now fadeEnd = false →
            exec c ⟨b, q⟩
              = .next ⟨complete slot .ok (BitVec.ofNat 32 x.entries.length) 0 0 (edit p 0 (setPlayback p { x with
                  fade := .releasing, remembered := none
                  entries := x.entries.map fun e => { e with
                    start := fadeValue x.timing now e, target := 0, fadeClass := .down, leaving := true }
                  timing := ⟨now, 0, x.timing.up, down, fadeEnd, none⟩
                  follow := none } r)), q⟩)
          ∧ (reached now fadeEnd = true →
            ∃ t, exec c ⟨b, q⟩ = .next ⟨t, q⟩ ∧ isRaised .playback t = true
              ∧ playbackOf t p = { x with
                  fade := .idle, remembered := none, entries := [], timing := .cleared, follow := none }
              ∧ awaitingLanding t = awaitingLanding b + if b.mixer.pass.isSome then x.entries.length else 0))
      ∧ (inRange →
        ∃ t, exec c ⟨b, q⟩ = .next ⟨t, q⟩ ∧ (playbackOf t p).follow = none ∧ (playbackOf t p).load ≠ .waiting
          ∧ (x.load ≠ .reading → (playbackOf t p).queue = [] ∧ (playbackOf t p).load = .none)
          ∧ (x.load = .reading → (playbackOf t p).queue = x.queue.take 1 ∧ (playbackOf t p).load = .reading)
          ∧ ((playbackOf t p).fade = .idle ∨ (playbackOf t p).fade = .releasing)
          ∧ (playbackOf t p).lastCue = x.lastCue ∧ (playbackOf t p).master = x.master
          ∧ (∀ p', p' ≠ p → playbackOf t p' = playbackOf b p')
          ∧ t.loader.queue = (if x.load = .waiting then b.loader.queue.filter fun j => j.playback != p else b.loader.queue)
          ∧ (∀ cur, x.load = .reading → b.loader.current = some cur → cur.job.playback = p →
              t.loader.current = some { cur with abandon := true })
          ∧ (x.load ≠ .reading ∨ (∀ cur, b.loader.current = some cur → cur.job.playback ≠ p) → t.loader.current = b.loader.current)
          ∧ let slots := fun rs : List QueuedRequest => rs.filterMap fun y => match y.origin with | .post i => some i | _ => none
            let cancelled := slots (if x.load = .none then x.queue else x.queue.drop 1)
            let abandoned := slots (if x.load = .waiting then x.queue.take 1 else [])
            ((slots x.queue).Nodup → (∀ i ∈ slots x.queue, i ∈ b.results.reserved) →
              t.results.queue = b.results.queue ++ cancelled.map (fun i => ⟨i, .cancelled, 0, 0, 0⟩)
                ++ abandoned.map (fun i => ⟨i, .abandoned, 0, 0, 0⟩)
                ++ [⟨slot, .ok, if x.fade = .idle then 0 else BitVec.ofNat 32 x.entries.length, 0, 0⟩]))

/-- SET MASTER: BAD_TARGET and BAD_PARAM; otherwise the record fades from the present value, which is the first result value, and the
mixer sees the new record at once between passes and as the last held edit during one (R18, R40). -/
def Obligations.SetMasterFadesAMaster : Prop :=
  ∀ (slot : Fin 32) (playback level time : Word) (b : Block) (q : List Instr), CanCome slot b →
    let c := Instr.setMaster slot playback level time
    let r := reservePlace slot b
    let now := b.time.clock
    (8 ≤ playback.toNat → exec c ⟨b, q⟩ = .next ⟨complete slot .badTarget 0 0 0 r, q⟩)
    ∧ ∀ p : Fin 8, playback.toNat = p.val →
      let x := playbackOf b p
      let present := x.master.value now
      let y := { x with master := ⟨present, level.toNat, now, time.toNat⟩ }
      (65535 < level.toNat ∨ 3600000 < time.toNat → exec c ⟨b, q⟩ = .next ⟨complete slot .badParam 0 0 0 r, q⟩)
      ∧ (level.toNat ≤ 65535 → time.toNat ≤ 3600000 →
        (b.mixer.pass = none →
          exec c ⟨b, q⟩
            = .next ⟨complete slot .ok (BitVec.ofNat 32 present) 0 0 { r with
                playbacks := setAt b.playbacks p y, mixer := { b.mixer with views := setAt b.mixer.views p y.view } }, q⟩)
        ∧ (b.mixer.pass.isSome = true →
          exec c ⟨b, q⟩
            = .next ⟨complete slot .ok (BitVec.ofNat 32 present) 0 0 { r with
                playbacks := setAt b.playbacks p y, mixer := { b.mixer with held := b.mixer.held ++ [⟨p, y.view, 0⟩] } }, q⟩))

/-! ### The memory port (R182 to R189) -/

/-- MREQ is asserted from the start of a tenure to its end, and MLOCK through a granted read-modify-write (R184). -/
def TheBusPinsFollowThePort : Prop :=
  ∀ p : Port, (mreqPin p = true ↔ p.state ≠ .idle)
    ∧ (mlockPin p = true ↔ p.state = .transferring ∧ ∃ tn a expect put, p.current = some tn ∧ tn.kind = .modify a expect put)

/-- MGNT_GRANT: the tenure proceeds with the wait states now in CONTROL.WAIT; memory changes only where other masters have stored
(R184, notes/assumptions/3.md).  MREQ and MLOCK follow the port's state and tenure. -/
def Obligations.AGrantBeginsTheTransfer : Prop :=
  TheBusPinsFollowThePort ∧ ∀ (stores : List (Word × Word)) (b : Block) (q : List Instr), b.engine.phase = .released → b.port.state = .requesting →
    ∃ m, exec (.mgntGrant stores) ⟨b, q⟩
        = .next ⟨{ b with mem := m, port := { b.port with state := .transferring, waits := b.control.wait } }, q⟩
      ∧ (stores = [] → m = b.mem)
      ∧ (∀ a, (∀ st ∈ stores, wordAddress st.1 ≠ a) → m.load a = b.mem.load a)
      ∧ (∀ rest a w, stores = rest ++ [(a, w)] → Memory.wf b.mem = true → m.load (wordAddress a) = w)

/-- A granted tenure of a client is under way and can run to its end. -/
def EndsDone (c : Client) (k : TenureKind) (b : Block) : Prop :=
  b.engine.phase = .released ∧ b.port.state = .transferring ∧ b.engine.aborting = false
    ∧ ∃ done value, b.port.current = some ⟨c, k, done, value⟩

/-- TENURE_END leaves the part as `P` says. -/
def EndsWith (b : Block) (P : Block → Prop) : Prop := ∀ q, ∃ t, exec .tenureEnd ⟨b, q⟩ = .next ⟨t, q⟩ ∧ P t

/-- How many clients come between client `last` and client `c` in the cyclic order: 0 for the next one, 5 for `last` itself (R188). -/
def turnsAfter (last c : Client) : Nat :=
  let order := [Client.scanner, .results, .loader, .tables, .talkback, .status]
  (order.idxOf c + 5 - order.idxOf last) % 6

/-- The block that uses a client is at the work it has asked a tenure for, so that it asks for no other (R183). -/
def AtWork (c : Client) (b : Block) : Prop :=
  (c = .results → b.results.writer ≠ .idle) ∧ (c = .loader → b.loader.current.isSome = true)
    ∧ (c = .tables → b.tables.reader.isSome = true)

/-- A tenure of client `ended` has ended, and the arbiter begins the tenure of the first waiting client after its pointer, which then
stands at that client; the others wait on.  A client that waited is served before any that asks anew at this end, unless that one comes
before it in the order; with nothing newly asked it is served itself (R182, R188). -/
def ServesInOrder (ended : Client) (b t : Block) : Prop :=
  let turns := turnsAfter b.port.pointer
  ∀ c k, b.port.waitingOf c = some k → c ≠ ended → AtWork c b → (∀ c', turns c' < turns c → b.port.waitingOf c' = none) →
    (∀ c' k', c' ≠ c → b.port.waitingOf c' = some k' → c' ≠ ended → AtWork c' b → t.port.waitingOf c' = some k')
    ∧ (t.port.current = some ⟨c, k, 0, none⟩ ∧ t.port.pointer = c ∧ t.port.waitingOf c = none
      ∨ ∃ c' k', turns c' < turns c ∧ t.port.current = some ⟨c', k', 0, none⟩ ∧ t.port.pointer = c' ∧ t.port.waitingOf c = some k)
    ∧ ((∀ c' k', turns c' < turns c → t.port.current ≠ some ⟨c', k', 0, none⟩) →
      t.port.current = some ⟨c, k, 0, none⟩ ∧ t.port.pointer = c)

/-- The ends of a tenure at which nothing is newly asked: the last burst of the STATUS client's only job, and the DONE burst of the only
completion (R176, R178). -/
def EndsAllItsWork (tn : Tenure) (b : Block) : Prop :=
  tn.client = .status ∧ b.status.order = [.page] ∧ (∃ j, b.status.page = some j ∧ 8 ≤ j.burst)
  ∨ tn.client = .results ∧ b.results.writer = .done ∧ b.results.queue.length = 1

/-- The tenures of a start: the anchor block is read in bursts of 16 and 5 words and checked, one that passes sets its values and begins
the sweep, one that fails ends the start with ANCHOR_BAD; each sweep's read-modify-write that finds PART is counted, and after the last
bank the engine is RUNNING with both countdowns loaded (R62, R169, R171, R177, R192). -/
def AStartsTenuresLeadOn : Prop :=
  ∀ b : Block, b.engine.state = .starting →
    (∀ before a n, b.engine.start = .anchor before → EndsDone .scanner (.read a n) b →
      let all := before ++ b.mem.readBurst a n
      let w := fun k : Nat => all[k]?.getD 0
      let passes := w 0 = 0x46513341 ∧ 4 ≤ (w 2).toNat ∧ (w 2).toNat ≤ 32 ∧ 1 ≤ (w 4).toNat ∧ (w 4).toNat ≤ 16
      (before = [] → n = 16 → EndsWith b fun t =>
        t.engine = { b.engine with start := .anchor all } ∧ Asks .scanner (.read (b.anchorReg + 64) 5) t ∧ t.anchor = b.anchor)
      ∧ (before.length = 16 → n = 5 → passes → EndsWith b fun t =>
        t.anchor = ⟨w 1, (w 2).toNat, w 3, (w 4).toNat, all.drop 5⟩ ∧ t.engine = { b.engine with start := .sweep 0 }
          ∧ Asks .loader (.modify (w 5) 2 0) t)
      ∧ (before.length = 16 → n = 5 → ¬passes → EndsWith b fun t =>
        t.anchor = b.anchor ∧ t.engine = { b.engine with state := .stopped, fault := .anchorBad, start := .idle }
          ∧ t.control = { b.control with run := false } ∧ isRaised .fault t = true))
    ∧ ∀ bank a, b.engine.start = .sweep bank → EndsDone .loader (.modify a 2 0) b →
      EndsWith b fun t =>
        t.loader.sweeps = (if b.mem.load (wordAddress a) = 2 then countUp b.loader.sweeps else b.loader.sweeps)
        ∧ (bank + 1 < b.anchor.bankCount → t.engine = { b.engine with start := .sweep (bank + 1) }
            ∧ Asks .loader (.modify (b.anchor.banks[bank + 1]?.getD 0) 2 0) t)
        ∧ (b.anchor.bankCount ≤ bank + 1 → t.engine = { b.engine with state := .running, start := .idle }
            ∧ t.scanner.countdown = b.time.inForce.scan ∧ t.status.countdown = b.time.inForce.status)

/-- A used destination field of a patch record is in range (R88, R181). -/
def DestinationInRange (f : Nat) : Prop :=
  f / 2 ^ 14 % 4 = 1 ∧ f / 2 ^ 8 % 8 ≤ 3 ∧ (f / 2 ^ 11 % 4 = 0 ∨ f / 2 ^ 11 % 4 = 1 ∧ f % 256 ≤ 254)
  ∨ f / 2 ^ 14 % 4 = 2 ∧ f % 256 ≤ 15

/-- A patch record of three words is in range (R88, R181). -/
def RecordInRange (w0 w1 w2 : Nat) : Prop :=
  let fields := [w1 % 65536, w1 / 65536, w2 % 65536, w2 / 65536]
  w0 % 65536 < 1024 ∧ w0 / 2 ^ 17 % 4 ≤ 1 ∧ w0 / 2 ^ 20 % 16 ≤ 7 ∧ w0 / 2 ^ 24 % 16 ≤ 4
    ∧ ∀ f ∈ fields.take (w0 / 2 ^ 24 % 16), DestinationInRange f

/-- A destination is what a field in range names (R82, R181). -/
def DestinationIs (f : Nat) : Destination → Prop
  | .line l i wide => f / 2 ^ 14 % 4 = 1 ∧ f / 2 ^ 8 % 8 = l.val ∧ f % 256 = i.val ∧ (wide = true ↔ f / 2 ^ 11 % 4 = 1)
  | .output n => f / 2 ^ 14 % 4 = 2 ∧ f % 256 = n.val

/-- A patch record is what three words in range say (R88, R181). -/
def RecordIs (w0 w1 w2 : Nat) (r : PatchRecord) : Prop :=
  let fields := [w1 % 65536, w1 / 65536, w2 % 65536, w2 / 65536]
  r.channel.val = w0 % 65536 ∧ (r.entry.intensity = true ↔ w0 / 2 ^ 16 % 2 = 1) ∧ (r.entry.merge = .latest ↔ w0 / 2 ^ 17 % 4 = 1)
    ∧ r.entry.curve.val = w0 / 2 ^ 20 % 16 ∧ r.entry.destinations.length = w0 / 2 ^ 24 % 16
    ∧ ∀ (k : Nat) f d, fields[k]? = some f → r.entry.destinations[k]? = some d → DestinationIs f d

/-- The destinations of a list's standing records, each with its record's index and channel, in the order the second check visits them:
the last record of a channel stands for it (R89). -/
def visitOrder (records : List PatchRecord) : List (Nat × Channel × Destination) :=
  (records.zipIdx.filter fun r => !(records.drop (r.2 + 1)).any fun later => later.channel == r.1.channel).flatMap fun r =>
    r.1.entry.destinations.map fun d => (r.2, r.1.channel, d)

/-- Element `e` of the destination visited after those of `before` is held against it by `holder`: by one visited earlier, or by an
installed owner that the list does not replace (R89). -/
def HeldBy (m : OwnerMap) (records : List PatchRecord) (before : List (Nat × Channel × Destination)) (e : Element)
    (holder : Channel) : Prop :=
  (∃ x ∈ before, e ∈ x.2.2.elements ∧ x.2.1 = holder)
  ∨ (∀ x ∈ before, e ∉ x.2.2.elements) ∧ m.owner e = some holder ∧ ∀ r ∈ records, r.channel ≠ holder

/-- No element of the destination visited after those of `before` is held against it (R89). -/
def Stands (m : OwnerMap) (records : List PatchRecord) (before : List (Nat × Channel × Destination)) (d : Destination) : Prop :=
  ∀ e ∈ d.elements, ∀ holder, ¬HeldBy m records before e holder

/-- The post slot of a table job. -/
def jobSlot (j : TableJob) : Fin 32 :=
  match j with
  | .patch slot _ _ => slot
  | .curve slot _ _ => slot

/-- The tables with the staging or the shadow that a job was filling EMPTY (R87, R93, R96, R97). -/
def withoutJob (j : TableJob) (u : TableLoader) : TableLoader :=
  match j with
  | .patch _ _ _ => { u with staging := .empty }
  | .curve _ k _ => { u with shadows := setAt u.shadows k .empty }

/-- The reader is IDLE again with the tables as `u` has them, the completions `ended` given: it takes the job at the head of the queue if
that can start, a PATCH only into an EMPTY staging, a LOAD CURVE superseding a READY shadow of its curve, whose request completes
CANCELLED (R86, R94). -/
def TheReaderTakesTheHead (u : TableLoader) (ended : List Completion) (b t : Block) : Prop :=
  let stays := t.tables = { u with reader := none } ∧ t.results.queue = b.results.queue ++ ended
  let takes := fun (taken : TableLoader) (address : Word) (length : Nat) (superseded : List Completion) =>
    t.tables = taken ∧ Asks .tables (.read address length) t ∧ t.results.queue = b.results.queue ++ ended ++ superseded
  (u.queue = [] → stays)
  ∧ (∀ slot address count rest, u.queue = .patch slot address count :: rest →
      (u.staging ≠ .empty → stays)
      ∧ (u.staging = .empty →
          takes { u with queue := rest, reader := some (.patch slot address count), staging := .filling [] } address (min 16 (3 * count)) []))
  ∧ ∀ slot k address rest, u.queue = .curve slot k address :: rest →
      let taken := { u with queue := rest, reader := some (.curve slot k address), shadows := setAt u.shadows k (.filling []) }
      ((∀ owner points, getAt u.shadows k ≠ .ready owner points) → takes taken address 16 [])
      ∧ ∀ owner points, getAt u.shadows k = .ready owner points → owner ∈ b.results.reserved → (∀ c ∈ ended, c.slot ≠ owner) →
          takes taken address 16 [⟨owner, .cancelled, 0, 0, 0⟩]

/-- The tenures of the table loader's reader.  In RUNNING a list or a curve is read burst by burst; a list is then checked, record by record
and destination by destination, and handed over with its standing records in list order; a curve fails with the burst that holds its
first point out of range, and is handed over with its 65 points; and the reader then takes the next head that can start.  In STOPPING the
tenure is the job's last, and the job ends ABANDONED with its staging or shadow EMPTY (R86 to R89, R93, R94, R97; a 16-bit destination
held at both slots names the lower's holder, notes/assumptions/30.md; unnamed result values are 26.md). -/
def TheTableReadersTenuresLeadOn : Prop :=
  (∀ (b : Block) (k : TenureKind) (j : TableJob), EndsDone .tables k b → b.engine.state = .stopping → b.tables.reader = some j →
    jobSlot j ∈ b.results.reserved →
    EndsWith b fun t => TheReaderTakesTheHead (withoutJob j b.tables) [⟨jobSlot j, .abandoned, 0, 0, 0⟩] b t ∧ t.mixer = b.mixer)
  ∧ ∀ (b : Block) (a : Word) (n : Nat), EndsDone .tables (.read a n) b → b.engine.state = .running →
    let fails := fun (slot : Fin 32) (code : ResultCode) (v1 v2 : Word) (after : TableLoader) => slot ∈ b.results.reserved →
      EndsWith b fun t => TheReaderTakesTheHead after [⟨slot, code, v1, v2, 0⟩] b t ∧ t.mixer = b.mixer
    (∀ slot address count ws, b.tables.reader = some (.patch slot address count) → b.tables.staging = .filling ws →
      let all := ws ++ b.mem.readBurst a n
      let w := fun k : Nat => (all[k]?.getD 0).toNat
      (all.length < 3 * count → EndsWith b fun t =>
        t.tables = { b.tables with staging := .filling all }
          ∧ Asks .tables (.read (address + BitVec.ofNat 32 (4 * all.length)) (min 16 (3 * count - all.length))) t)
      ∧ (all.length = 3 * count →
        (∀ k, k < count → ¬RecordInRange (w (3 * k)) (w (3 * k + 1)) (w (3 * k + 2)) →
          (∀ k', k' < k → RecordInRange (w (3 * k')) (w (3 * k' + 1)) (w (3 * k' + 2))) →
          fails slot .badParam (BitVec.ofNat 32 k) 0 { b.tables with staging := .empty })
        ∧ ((∀ k, k < count → RecordInRange (w (3 * k)) (w (3 * k + 1)) (w (3 * k + 2))) → ∃ records : List PatchRecord,
          records.length = count
          ∧ (∀ k r, records[k]? = some r → RecordIs (w (3 * k)) (w (3 * k + 1)) (w (3 * k + 2)) r)
          ∧ (∀ before k c d after, visitOrder records = before ++ (k, c, d) :: after →
            (∀ earlier x later, before = earlier ++ x :: later → Stands b.mixer.owners records earlier x.2.2) →
            ∀ skipped e rest holder, d.elements = skipped ++ e :: rest →
              (∀ e' ∈ skipped, ∀ h, ¬HeldBy b.mixer.owners records before e' h) →
              HeldBy b.mixer.owners records before e holder →
              fails slot .slotTaken (BitVec.ofNat 32 k) (BitVec.ofNat 32 holder.val) { b.tables with staging := .empty })
          ∧ ((∀ earlier x later, visitOrder records = earlier ++ x :: later → Stands b.mixer.owners records earlier x.2.2) →
            EndsWith b fun t => t.mixer = b.mixer ∧ ∃ list,
              TheReaderTakesTheHead { b.tables with staging := .ready slot list } [] b t
              ∧ list = (records.zipIdx.filter fun r =>
                  !(records.drop (r.2 + 1)).any fun later => later.channel == r.1.channel).map Prod.fst))))
    ∧ ∀ slot k address ps, b.tables.reader = some (.curve slot k address) → getAt b.tables.shadows k = .filling ps →
      let all := ps ++ (b.mem.readBurst a n).map BitVec.toNat
      let withShadow := fun x : Shadow => { b.tables with shadows := setAt b.tables.shadows k x }
      (∀ i, 65535 < all[i]?.getD 0 → (∀ i', i' < i → all[i']?.getD 0 ≤ 65535) →
        fails slot .badParam (BitVec.ofNat 32 i) 0 (withShadow .empty))
      ∧ ((∀ p ∈ all, p ≤ 65535) → all.length < 65 → EndsWith b fun t => t.tables = withShadow (.filling all)
          ∧ Asks .tables (.read (address + BitVec.ofNat 32 (4 * all.length)) (min 16 (65 - all.length))) t)
      ∧ ((∀ p ∈ all, p ≤ 65535) → 65 ≤ all.length → EndsWith b fun t =>
          TheReaderTakesTheHead (withShadow (.ready slot all)) [] b t ∧ t.mixer = b.mixer)

/-- A reply's words: the echoed address, the status and the length, then its data bytes, four to a word, the first lowest, and zeros
(R153, R181). -/
def AreTheReplyWords (r : Reply) (ws : List Word) : Prop :=
  ws.length = 1 + (r.data.length + 3) / 4
  ∧ ws[0]? = some (BitVec.ofNat 32 (r.echoed + 65536 * r.status.toNat + 2 ^ 24 * r.data.length))
  ∧ ∀ k, k < 4 * ((r.data.length + 3) / 4) →
      (ws[1 + k / 4]?.getD 0).toNat / 2 ^ (8 * (k % 4)) % 256 = (r.data[k]?.getD 0).toNat

/-- The end of a reply write: the query completes OK with the status and the length, its buffer is EMPTY, and the write of the next line
whose reply waits is asked for (R153). -/
def AReplyIsWritten : Prop :=
  ∀ (b : Block) (k : TenureKind) (l : Fin 4) (rest : List (Fin 4)) (r : Reply), EndsDone .talkback k b →
    (b.engine.state = .running ∨ b.engine.state = .stopping) → b.talkback = l :: rest → (lineOf b l).reply = some r →
    EndsWith b fun t => t.talkback = rest ∧ t.lines = setAt b.lines l { lineOf b l with reply := none }
      ∧ (r.slot ∈ b.results.reserved → t.results.queue = b.results.queue
          ++ [⟨r.slot, .ok, BitVec.ofNat 32 r.status.toNat, BitVec.ofNat 32 r.data.length, 0⟩])
      ∧ ∀ l' rest' r', rest = l' :: rest' → l' ≠ l → (lineOf b l').reply = some r' →
        ∃ ws, Asks .talkback (.write r'.area ws) t ∧ AreTheReplyWords r' ws

/-- The end of a burst of the status writer's first job: the next burst of a page job, its body words 1 to 103 between two writes of word
0 with an odd and an even edition; the next burst of a snapshot, or OK after the last; and then the first burst of the job that waits
(R178, R180; unnamed result values are notes/assumptions/26.md). -/
def TheStatusWritersBurstsLeadOn : Prop :=
  ∀ (b : Block) (k : TenureKind) (rest : List StatusJob), EndsDone .status k b →
    (b.engine.state = .running ∨ b.engine.state = .stopping) →
    (∀ j, b.status.order = .page :: rest → b.status.page = some j →
      (j.burst ≤ 6 → EndsWith b fun t => t.status = { b.status with page := some { j with burst := j.burst + 1 } }
        ∧ Asks .status (.write (b.anchor.statusPage + BitVec.ofNat 32 (4 * (16 * j.burst + 1))) ((j.body.drop (16 * j.burst)).take 16)) t)
      ∧ (j.burst = 7 → EndsWith b fun t => t.status = { b.status with page := some { j with burst := 8 } }
        ∧ Asks .status (.write b.anchor.statusPage [b.status.edition + 2]) t)
      ∧ (∀ slot address words rest', 8 ≤ j.burst → rest = .snapshot :: rest' →
        b.status.snapshot = some ⟨slot, address, .writing words 0⟩ → EndsWith b fun t =>
          t.status = { b.status with page := none, edition := b.status.edition + 2, order := rest }
          ∧ Asks .status (.write address (words.take 16)) t))
    ∧ ∀ slot address words n, b.status.order = .snapshot :: rest → b.status.snapshot = some ⟨slot, address, .writing words n⟩ →
      (n < 31 → EndsWith b fun t => t.status = { b.status with snapshot := some ⟨slot, address, .writing words (n + 1)⟩ }
        ∧ Asks .status (.write (address + BitVec.ofNat 32 (64 * (n + 1))) ((words.drop (16 * (n + 1))).take 16)) t)
      ∧ (31 ≤ n → EndsWith b fun t => t.status = { b.status with snapshot := none, order := rest }
        ∧ (slot ∈ b.results.reserved → t.results.queue = b.results.queue ++ [⟨slot, .ok, 0, 0, 0⟩])
        ∧ ∀ j rest', rest = .page :: rest' → b.status.page = some j → j.burst = 0 →
          Asks .status (.write b.anchor.statusPage [b.status.edition + 1]) t)

/-- TENURE_END: the consecutive-fault count becomes 0 and the bus-fault count stays; the arbiter serves the first waiting client after its
pointer in cyclic order; a read changes no memory, a write stores its
words, a read-modify-write stores only over the value it expects; the result writer writes DONE after the values and then goes on
to the next completion or is IDLE, and its and the status writer's last bursts end their work (R176, R178, R182 to R184, R188, R189).  What the clients' bursts lead to is said in
AStartsTenuresLeadOn for the start's anchor read and lock sweep (R62, R169), TheTableReadersTenuresLeadOn for the patch and curve reads
with their checks, the next head
and the last tenure in STOPPING (R86 to R89, R93, R94, R97), AReplyIsWritten (R153), and TheStatusWritersBurstsLeadOn for the page and the snapshot (R178,
R180); for the scanner and the cue loader see AClaimTakesAPostedSlot and
ACompletedLoadBuildsTheCrossfade.  Result values not named are 0 by notes/assumptions/26.md, and the holder that a SLOT_TAKEN names is
30.md. -/
def Obligations.ATenureEndsDone : Prop :=
  (∀ (b : Block) (q : List Instr) (tn : Tenure), b.engine.phase = .released → b.port.state = .transferring →
    b.engine.aborting = false → b.port.current = some tn →
    ∃ t, exec .tenureEnd ⟨b, q⟩ = .next ⟨t, q⟩ ∧ t.port.consecutive = 0 ∧ t.port.faults = b.port.faults
      ∧ (∀ a n, tn.kind = .read a n → t.mem = b.mem)
      ∧ (∀ a ws, tn.kind = .write a ws → t.mem = b.mem.writeBurst a ws)
      ∧ (∀ a expect put, tn.kind = .modify a expect put →
          t.mem = if b.mem.load (wordAddress a) = expect then b.mem.store (wordAddress a) put else b.mem)
      ∧ (∀ c rest, tn.client = .results → b.results.queue = c :: rest →
          (b.results.writer = .values → t.results = { b.results with writer := .done }
            ∧ (b.engine.state ≠ .halted → Asks .results (.write (stateWordAddress b.anchor c.slot) [3]) t))
          ∧ (b.results.writer = .done → isRaised .requestDone t = true ∧ t.results.queue = rest
              ∧ t.results.reserved = b.results.reserved ∧ (rest = [] → t.results.writer = .idle)
              ∧ (b.engine.state = .running ∨ b.engine.state = .stopping → ∀ c' rest', rest = c' :: rest' → WritesTheValuesOf c' b t)))
      ∧ (∀ j rest, tn.client = .status → b.status.order = .page :: rest → b.status.page = some j → 8 ≤ j.burst →
          isRaised .status t = true ∧ t.status.edition = b.status.edition + 2 ∧ t.status.page = none
            ∧ t.status.order = rest)
      ∧ (b.engine.state = .running ∨ b.engine.state = .stopping → ServesInOrder tn.client b t)
      ∧ (∀ c k, EndsAllItsWork tn b → b.port.waitingOf c = some k → c ≠ tn.client →
          (∀ c', turnsAfter b.port.pointer c' < turnsAfter b.port.pointer c → b.port.waitingOf c' = none) →
          t.port.current = some ⟨c, k, 0, none⟩ ∧ t.port.pointer = c ∧ t.port.state = .requesting)
      ∧ (EndsAllItsWork tn b → (∀ c, b.port.waitingOf c = none) → t.port.state = .idle ∧ t.port.current = none
          ∧ t.port.pointer = b.port.pointer))
  ∧ AStartsTenuresLeadOn ∧ TheTableReadersTenuresLeadOn ∧ AReplyIsWritten ∧ TheStatusWritersBurstsLeadOn

/-- The state row has been read: its next burst is asked for, or the first POSTED slot whose index holds no place is claimed, while 9
places are free; with none left, or in STOPPING, the scan ends, and a pending one starts at once in RUNNING (R171 to R173). -/
def TheStateRowLeadsOn : Prop :=
  ∀ (b : Block) (a : Word) (n : Nat) (row : List Word), EndsDone .scanner (.read a n) b → b.scanner.step = .row row →
    let all := row ++ b.mem.readBurst a n
    let posted := fun i : Fin 32 => all[i.val]? = some 1
    let ends := (b.scanner.scanPending = false → EndsWith b fun t => t.scanner = { b.scanner with step := .idle } ∧ t.results = b.results)
      ∧ (b.scanner.scanPending = true → EndsWith b fun t => t.scanner = { b.scanner with step := .row [], scanPending := false }
        ∧ Asks .scanner (.read b.anchor.postTable (min 16 b.anchor.slots)) t)
    (b.engine.state = .running →
      (all.length < b.anchor.slots → EndsWith b fun t => t.scanner = { b.scanner with step := .row all }
        ∧ Asks .scanner (.read (b.anchor.postTable + BitVec.ofNat 32 (4 * all.length)) (min 16 (b.anchor.slots - all.length))) t)
      ∧ (b.anchor.slots ≤ all.length →
        (∀ i, posted i → holdsPlace i b = false → (∀ i', i' < i → posted i' → holdsPlace i' b = true) →
          (9 ≤ 64 - (b.results.queue.length + b.results.reserved.length) → EndsWith b fun t =>
            t.results = b.results ∧ Asks .scanner (.modify (stateWordAddress b.anchor i) 1 2) t
              ∧ ∃ rest, t.scanner = { b.scanner with step := .claim i rest 0 } ∧ ∀ i', i' ∈ rest ↔ i < i' ∧ posted i')
          ∧ (64 - (b.results.queue.length + b.results.reserved.length) < 9 → ends))
        ∧ ((∀ i, posted i → holdsPlace i b = true) → ends)))
    ∧ (b.engine.state = .stopping → EndsWith b fun t =>
        t.scanner = { b.scanner with step := .idle, scanPending := false } ∧ t.results = b.results)

/-- The row of a request, as the table of R174 lays out the words 1 to 11 of its slot; none for a kind outside 1 to 17. -/
def rowOfWords (slot : Fin 32) (words : List Word) : Option Instr :=
  let w := fun k : Nat => words[k - 1]?.getD 0
  match (w 1).toNat with
  | 1 => some (.setFrame slot (w 4) (w 5) (w 6))
  | 2 => some (.setLine slot (w 3) (w 4) (w 5) (w 6) (w 7) (w 8) (w 9) (w 10))
  | 3 => some (.setOutputs slot (w 4) (w 5) (w 6))
  | 4 => some (.setTrigger slot (w 3) (w 4) (w 5) (w 6) (w 7) (w 8) (w 9) (w 10))
  | 5 => some (.patch slot (w 4) (w 5))
  | 6 => some (.loadCurve slot (w 4) (w 5))
  | 7 => some (.setGrand slot (w 4) (w 5))
  | 8 => some (.blackout slot (w 4))
  | 9 => some (.snapshot slot (w 4))
  | 10 => some (.clearLineStatus slot (w 3))
  | 11 => some (.query slot (w 3) (w 4) (w 5) (w 6) (w 7) (w 8) (w 9))
  | 12 => some (.go slot (w 3) (w 4) (w 5) (w 6))
  | 13 => some (.goNext slot (w 3) (w 4))
  | 14 => some (.pause slot (w 3))
  | 15 => some (.resume slot (w 3))
  | 16 => some (.release slot (w 3) (w 4))
  | 17 => some (.setMaster slot (w 3) (w 4) (w 5))
  | _ => none

/-- What a scan in RUNNING does next, with the POSTED slots `rest` still to visit and `taken` slots taken, the port being free: from the
part `u`, before the arbiter has served, to `t`.  The next slot whose index holds no place is claimed; after the eighth take, with no such
slot left, or with fewer than 9 free places at the next visit the scan ends, and a pending one starts at once (R171, R172, R188). -/
def TheScanGoesOn (rest : List (Fin 32)) (taken : Nat) (u t : Block) : Prop :=
  let free := 64 - (u.results.queue.length + u.results.reserved.length)
  let at_ := fun (step : ScanStep) (again : Bool) => { u with scanner := { u.scanner with step := step, scanPending := again } }
  let serves := fun v : Block => t = { v with port := v.port.arbitrate }
  let ends := (u.scanner.scanPending = false → serves (at_ .idle false))
    ∧ (u.scanner.scanPending = true → serves (ask .scanner (.read u.anchor.postTable (min 16 u.anchor.slots)) (at_ (.row []) false)))
  (8 ≤ taken → ends)
  ∧ ((∀ i ∈ rest, holdsPlace i u = true) → ends)
  ∧ ∀ passed i later, taken < 8 → rest = passed ++ i :: later → (∀ i' ∈ passed, holdsPlace i' u = true) → holdsPlace i u = false →
    (free < 9 → ends)
    ∧ (9 ≤ free → serves (ask .scanner (.modify (stateWordAddress u.anchor i) 1 2) (at_ (.claim i later taken) u.scanner.scanPending)))

/-- The body of a slot taken has been read in RUNNING.  Its request, the words held from the claim whatever memory then holds, does what its
own row does, here on the part `before` in which the slot is not yet taken and the port is free again, and a kind outside 1 to 17 completes
BAD_KIND; then the scan goes on with the slots it has still to visit (R170 to R174, R188). -/
def ABodyIsDispatched : Prop :=
  ∀ (before b : Block) (q : List Instr) (slot : Fin 32) (rest : List (Fin 32)) (request : List Word) (a : Word) (n taken : Nat),
    CanCome slot before → before.scanner.step = .body slot rest taken request → before.port.state = .idle →
    before.port.current = none → before.port.consecutive = 0 → EndsDone .scanner (.read a n) b →
    b = { reservePlace slot before with port := b.port } → { b.port.release with consecutive := 0 } = before.port →
    (∀ row, rowOfWords slot request = some row →
      ∃ u t, exec row ⟨before, q⟩ = .next ⟨u, q⟩ ∧ exec .tenureEnd ⟨b, q⟩ = .next ⟨t, q⟩ ∧ TheScanGoesOn rest taken u t)
    ∧ (rowOfWords slot request = none →
      ∃ t, exec .tenureEnd ⟨b, q⟩ = .next ⟨t, q⟩
        ∧ TheScanGoesOn rest taken (complete slot .badKind 0 0 0 (reservePlace slot before)) t)

/-- A request held from a claim to its body read.  The host's stores, which come with grants, do not reach it, and nothing else that the
other clients' tenures do changes it but the part's own stores to its eleven words, which do reach it by notes/assumptions/34.md (R170). -/
def ChangesAfterAClaimDoNotReachTheRequest : Prop :=
  ∀ (b : Block) (slot : Fin 32) (rest : List (Fin 32)) (taken : Nat) (request : List Word),
    b.scanner.step = .body slot rest taken request →
    let storesTo := fun (k : TenureKind) (address : Nat) =>
      (∃ a ws j, k = .write a ws ∧ j < ws.length ∧ address = wordAddress (a + BitVec.ofNat 32 (4 * j)))
      ∨ ∃ a expect put, k = .modify a expect put ∧ address = wordAddress a
    (∀ stores q t, exec (.mgntGrant stores) ⟨b, q⟩ = .next ⟨t, q⟩ → t.scanner = b.scanner)
    ∧ ∀ (c : Client) (k : TenureKind), c ≠ .scanner → b.engine.state = .running ∨ b.engine.state = .stopping → EndsDone c k b →
      EndsWith b fun t => ∃ words, t.scanner = { b.scanner with step := .body slot rest taken words }
        ∧ ((∀ j, j < request.length → ¬storesTo k (wordAddress (bodyWordAddress b.anchor slot (j + 1)))) → words = request)
        ∧ (request = b.mem.readBurst (bodyWordAddress b.anchor slot 1) 11 → words = t.mem.readBurst (bodyWordAddress b.anchor slot 1) 11)

/-- A claim that takes its slot, and a body read, in STOPPING: the slot's request completes CANCELLED, and the scan ends (R173). -/
def ASlotTakenInStoppingIsCancelled : Prop :=
  ∀ (b : Block) (slot : Fin 32) (rest : List (Fin 32)) (request : List Word) (a : Word) (n taken : Nat), b.engine.state = .stopping →
    let cancels := EndsWith b fun t => t.scanner = { b.scanner with step := .idle, scanPending := false }
      ∧ t.results.queue = b.results.queue ++ [⟨slot, .cancelled, 0, 0, 0⟩]
    (EndsDone .scanner (.read a n) b → b.scanner.step = .body slot rest taken request → slot ∈ b.results.reserved → cancels)
    ∧ (EndsDone .scanner (.modify a 1 2) b → b.scanner.step = .claim slot rest taken → b.mem.load (wordAddress a) = 1 → cancels)

/-- The end of a claim in RUNNING: a state word that held POSTED holds TAKEN, the slot's place is reserved, and its body is asked for;
any other value is left as it is and reserves nothing, and the scan goes on (R172, R183).  Before it the state row has been read, burst by burst, and the
first POSTED slot is claimed; after it the body is read, and the request dispatched by its kind, or ended BAD_KIND, or CANCELLED in
STOPPING.  The request is words 1 to 11 as the claim's end leaves them: what the host changes in them after it does not reach the request
(R170 to R174; that a row of a request stands for the request's arrival is notes/assumptions/6.md, when a claimed slot ends in STOPPING is
20.md, that the part's own stores to those words reach the request is 34.md, and result values not named are 0 by 26.md). -/
def Obligations.AClaimTakesAPostedSlot : Prop :=
  (∀ (b : Block) (q : List Instr) (i : Fin 32) (rest : List (Fin 32)) (n done : Nat) (value : Option Word),
    b.engine.phase = .released → b.engine.state = .running → b.engine.aborting = false → b.port.state = .transferring →
    b.port.current = some ⟨.scanner, .modify (stateWordAddress b.anchor i) 1 2, done, value⟩ →
    b.scanner.step = .claim i rest n → Memory.wf b.mem = true →
    ∃ t, exec .tenureEnd ⟨b, q⟩ = .next ⟨t, q⟩
      ∧ (b.mem.load (wordAddress (stateWordAddress b.anchor i)) = 1 →
          t.mem.load (wordAddress (stateWordAddress b.anchor i)) = 2
          ∧ t.results.reserved = b.results.reserved ++ [i] ∧ t.results.queue = b.results.queue
          ∧ t.scanner = { b.scanner with step := .body i rest (n + 1) (t.mem.readBurst (bodyWordAddress b.anchor i 1) 11) }
          ∧ (∀ k, 1 ≤ k → k ≤ 11 → wordAddress (bodyWordAddress b.anchor i k) ≠ wordAddress (stateWordAddress b.anchor i) →
              t.mem.load (wordAddress (bodyWordAddress b.anchor i k)) = b.mem.load (wordAddress (bodyWordAddress b.anchor i k)))
          ∧ Asks .scanner (.read (bodyWordAddress b.anchor i 1) 11) t
          ∧ (b.port.nextClient = none →
              t.port.current = some ⟨.scanner, .read (bodyWordAddress b.anchor i 1) 11, 0, none⟩))
      ∧ (b.mem.load (wordAddress (stateWordAddress b.anchor i)) ≠ 1 →
          t.mem = b.mem ∧ t.results = b.results
          ∧ TheScanGoesOn rest n { b with port := { b.port.release with consecutive := 0 } } t))
  ∧ TheStateRowLeadsOn ∧ ABodyIsDispatched ∧ ChangesAfterAClaimDoNotReachTheRequest ∧ ASlotTakenInStoppingIsCancelled

/-- The set that a crossfade build makes, channel by channel as R33 tabulates it (R28, R33, R37). -/
def IsTheCrossfadeOf (x : Playback) (now : Time) (stamp : Nat) (entries : List SetEntry) : Prop :=
  let ascending := fun cs : List Channel => cs.Pairwise (· < ·)
  let entryIn := fun (xs : List SetEntry) (c : Channel) => xs.find? fun e => e.channel == c
  ascending (x.entries.map SetEntry.channel) → ascending (x.incoming.map IncomingEntry.channel) →
    ascending (entries.map SetEntry.channel)
    ∧ ∀ c,
      (∀ i ∈ x.incoming, i.channel = c → ∃ start,
        (∀ old, entryIn x.entries c = some old → FadeValueIs x.timing now old start) ∧ (entryIn x.entries c = none → start = 0)
        ∧ entryIn entries c = some ⟨c, start, i.level, if i.snap then .snap else if start ≤ i.level then .up else .down, stamp, false⟩)
      ∧ ((∀ i ∈ x.incoming, i.channel ≠ c) →
        (entryIn x.entries c = none → entryIn entries c = none)
        ∧ ∀ old, entryIn x.entries c = some old → ∃ value, FadeValueIs x.timing now old value
          ∧ entryIn entries c = some ⟨c, value, 0, if value = 0 then .up else .down, old.stamp, true⟩)

/-- The current job goes on in stage `stage` and asks for a read of its bank, `words` words from word `k` of it. -/
def ReadsOn (c : CurrentLoad) (stage : LoadStage) (k words : Nat) (b t : Block) : Prop :=
  t.loader = { b.loader with current := some { c with stage := stage } }
    ∧ Asks .loader (.read (b.anchor.banks[c.job.bank]?.getD 0 + BitVec.ofNat 32 (4 * k)) words) t

/-- A job that holds its lock fails with a code, or is abandoned: its list and reservation are freed and FREE is to be written (R57,
R59). -/
def Releases (c : CurrentLoad) (code : ResultCode) (b t : Block) : Prop :=
  let x := playbackOf b c.job.playback
  t.loader = { b.loader with current := some { c with stage := .unlock, failed := some code } }
    ∧ t.playbacks = setAt b.playbacks c.job.playback { x with incoming := [], reservation := 0 }
    ∧ Asks .loader (.write (b.anchor.banks[c.job.bank]?.getD 0) [0]) t

/-- What the end of a request gives the result queue, by its origin (R8; a third value is 0, notes/assumptions/26.md). -/
def completionsOf (o : Origin) (code : ResultCode) (v1 v2 : Word) : List Completion :=
  match o with
  | .post slot => [⟨slot, code, v1, v2, 0⟩]
  | .trigger _ => []
  | .follow => []

/-- The post slots of a list of requests, in order. -/
def postSlots (rs : List QueuedRequest) : List (Fin 32) :=
  rs.filterMap fun r => match r.origin with
    | .post i => some i
    | .trigger _ => none
    | .follow => none

/-- The requests of playback `p` each hold a place of the result queue of their own (R172). -/
def QueueIsReserved (p : Fin 8) (b : Block) : Prop :=
  (postSlots (playbackOf b p).queue).Nodup ∧ ∀ i ∈ postSlots (playbackOf b p).queue, i ∈ b.results.reserved

/-- What serving a queue makes: the playback after it, the completions, the edits the mixer is handed, the load job submitted, and whether
a RESUME found the time it arms already reached. -/
structure Served where
  playback : Playback
  ended : List Completion
  edits : List PlaybackView
  job : Option (Nat × Search)
  late : Bool

/-- Playback `x`, its load state NONE, serves the requests of a queue one after another at the show time `now`, until one submits a load
job and stays at the head; in HALTED a GO or GO NEXT submits none and completes BUS_FAULT (R7, R9, R12 to R15, R25).  After a RESUME that
finds its time already reached see PauseAndResumeFreezeAndContinue. -/
def servedQueue (halted : Bool) (now : Time) : List QueuedRequest → Playback → Served
  | [], x => ⟨{ x with queue := [] }, [], [], none, false⟩
  | r :: rest, x =>
    let leaves := fun (code : ResultCode) (v : Int) (y : Playback) (edits : List PlaybackView) (late : Bool) =>
      let later := servedQueue halted now rest y
      (⟨later.playback, completionsOf r.origin code (BitVec.ofInt 32 v) 0 ++ later.ended, edits ++ later.edits, later.job,
        late || later.late⟩ : Served)
    let submits := fun (bank : Nat) (search : Search) =>
      if halted then leaves .busFault 0 { x with follow := none } [] false
      else (⟨{ x with queue := r :: rest, follow := none, load := .waiting }, [], [], some (bank, search), false⟩ : Served)
    let pauses := fun (st : Remembered) (v : Int) =>
      let y := { x with fade := .paused, remembered := some st, timing := { x.timing with paused := some v } }
      leaves .ok v y [y.view] false
    let left := x.timing.paused.getD 0
    let goesOn := fun st : FadeState =>
      let start := now - BitVec.ofInt 32 left
      let fadeEnd := x.timing.fadeEnd + (start - x.timing.start)
      let y := { x with
        fade := st, remembered := none, timing := { x.timing with start := start, fadeEnd := fadeEnd, paused := none } }
      leaves .ok 0 y [y.view] (reached now fadeEnd)
    match r.kind with
    | .go bank cue _ => submits bank (.exactly cue)
    | .goNext given =>
      match x.lastCue, given with
      | some c, _ => submits c.bank (if c.follow = .link then .exactly c.linkCue else .above c.cue)
      | none, some bank => submits bank .first
      | none, none => leaves (if halted then .busFault else .cueMissing) 0 { x with follow := none } [] false
    | .pause =>
      match x.fade, x.follow with
      | .fading, _ => pauses .fading (showDiff now x.timing.start)
      | .releasing, _ => pauses .releasing (showDiff now x.timing.start)
      | .holding, some d => pauses .holding (showDiff d now)
      | _, _ => leaves .badState 0 x [] false
    | .resume =>
      match x.fade, x.remembered with
      | .paused, some .fading => goesOn .fading
      | .paused, some .releasing => goesOn .releasing
      | .paused, some .holding =>
        let deadline := now + BitVec.ofInt 32 left
        let y := { x with
          fade := .holding, remembered := none, timing := { x.timing with paused := none }, follow := some deadline }
        leaves .ok 0 y [y.view] (reached now deadline)
      | _, _ => leaves .badState 0 x [] false

/-- The idle loader, with a queue and the playbacks as they are then, takes the eligible job nearest the head, and stays idle when there is
none; `stuck` is the stuck-lock count (R48). -/
def TheLoaderTakesFrom (queue : List LoadJob) (playbacks : Vector Playback 8) (stuck : Nat) (b t : Block) : Prop :=
  ((∀ j ∈ queue, j.deferred = true) →
    t.loader = { b.loader with queue := queue, current := none, stuck := stuck } ∧ t.playbacks = playbacks)
  ∧ ∀ before j after, queue = before ++ j :: after → (∀ k ∈ before, k.deferred = true) → j.deferred = false →
    t.loader = { b.loader with queue := before ++ after, current := some ⟨j, .lock, false, false, none, none⟩, stuck := stuck }
    ∧ t.playbacks = setAt playbacks j.playback { getAt playbacks j.playback with load := .reading }
    ∧ Asks .loader (.modify (b.anchor.banks[j.bank]?.getD 0) 0 2) t

/-- The loader has reported the end of playback `p`'s load, which leaves the playback `x` and the requests `rest`: the first completion and
the edits made so far are followed by those of serving `rest`, and a job it submits joins the loader queue's tail.  `m` is the mixer before the edits, `stuck` the stuck-lock count (R7, R10, R11, R40, R46, R48). -/
def TheQueueGoesOn (p : Fin 8) (x : Playback) (rest : List QueuedRequest) (first : List Completion) (edits : List HeldEdit) (m : Mixer)
    (stuck : Nat) (b t : Block) : Prop :=
  let served := servedQueue false b.time.clock rest x
  let all := edits ++ served.edits.map fun v => ⟨p, v, 0⟩
  let queue := b.loader.queue ++ served.job.toList.map fun j => ⟨p, j.1, j.2, 0, false⟩
  let playbacks := setAt b.playbacks p served.playback
  served.late = false →
    t.results.queue = b.results.queue ++ first ++ served.ended
    ∧ (b.mixer.pass = none → t.mixer = { m with views := landEdits m.views all })
    ∧ (b.mixer.pass.isSome = true → t.mixer = { m with held := m.held ++ all })
    ∧ TheLoaderTakesFrom queue playbacks stuck b t

/-- The current job ends, the request in service completing with a code to its origin, and the requests behind it are served; `stuck` is
the stuck-lock count then (R7, R11, R16, R57, R58). -/
def EndsTheJobWith (stuck : Nat) (c : CurrentLoad) (code : ResultCode) (b t : Block) : Prop :=
  let x := playbackOf b c.job.playback
  ∀ r rest, x.queue = r :: rest →
    TheQueueGoesOn c.job.playback { x with load := .none, incoming := [], reservation := 0 } rest (completionsOf r.origin code 0 0) []
      b.mixer stuck b t

/-- The current job ends with a code, its lock not stuck. -/
def EndsTheJob (c : CurrentLoad) (code : ResultCode) (b t : Block) : Prop := EndsTheJobWith b.loader.stuck c code b t

/-- A word of the directory meets the condition of a search (R51). -/
def MeetsSearch (search : Search) (w : Word) : Prop :=
  match search with
  | .exactly n => n ≤ w.toNat % 65536
  | .above n => n < w.toNat % 65536
  | .first => True

/-- The eight words of a header are one that passes the checks of R53 for the directory entry's number (R44, R53, R181). -/
def HeaderIs (number : Nat) (ws : List Word) (h : CueHeader) : Prop :=
  let w := fun k : Nat => (ws[k]?.getD 0).toNat
  let followCode := w 0 / 65536 % 256
  h.cue = w 0 % 65536 ∧ h.cue = number ∧ h.cue ≠ 0 ∧ h.cue ≠ 65535
    ∧ [FollowMode.manual, .auto, .link][followCode]? = some h.follow
    ∧ h.count = w 1 ∧ h.up = w 2 ∧ h.down = w 3 ∧ h.delay = w 4 ∧ h.hold = w 5 ∧ h.linkCue = w 6
    ∧ h.up ≤ 3600000 ∧ h.down ≤ 3600000 ∧ h.hold ≤ 3600000 ∧ h.delay ≤ 600000 ∧ h.count ≤ 1024
    ∧ (h.follow = .link → 1 ≤ h.linkCue ∧ h.linkCue ≤ 65534)

/-- An incoming list with the entry words taken in order: the last word of a channel decides (R29, R55). -/
def TakesTheWords (before after : List IncomingEntry) (ws : List Word) : Prop :=
  ∀ c : Channel, after.find? (fun e => e.channel == c)
    = match ws.reverse.find? fun w => w.toNat / 65536 % 32768 == c.val with
      | some w => some ⟨c, w.toNat % 65536, w.getLsbD 31⟩
      | none => before.find? fun e => e.channel == c

/-- The stages of the loader's current job: the acquire, the cue count, the directory, the header and the entries, what each goes on to,
its failures, and an abandoned job's end in each of them (R29, R30, R49 to R55, R57, R59).  Each new channel of the incoming list takes one
of the reserved entries, and the entries in use stay the same (R27, R29). -/
def TheLoadersStagesLeadOn : Prop :=
  ∀ (b : Block) (c : CurrentLoad), b.engine.state = .running ∨ b.engine.state = .stopping →
    b.loader.current = some c → c.failed = none → QueueIsReserved c.job.playback b →
    let x := playbackOf b c.job.playback
    let held := { c with lockHeld := true }
    let outcome := fun P : Block → Block → Prop => EndsWith b (P b)
    (∀ a, c.stage = .lock → c.lockHeld = false → EndsDone .loader (.modify a 0 2) b →
      (b.mem.load (wordAddress a) = 0 →
        (c.abandon = false → outcome (ReadsOn held .seekCount 1 1)) ∧ (c.abandon = true → outcome (Releases held .abandoned)))
      ∧ (b.mem.load (wordAddress a) ≠ 0 →
        (c.abandon = true → outcome (EndsTheJob c .abandoned))
        ∧ (c.abandon = false → 7 ≤ c.job.attempts → outcome (EndsTheJob c .bankBusy))
        ∧ (c.abandon = false → c.job.attempts < 7 →
          outcome (TheLoaderTakesFrom (b.loader.queue ++ [{ c.job with attempts := c.job.attempts + 1, deferred := true }])
            (setAt b.playbacks c.job.playback { x with load := .waiting }) b.loader.stuck))))
    ∧ ∀ a n, EndsDone .loader (.read a n) b → c.lockHeld = true →
      let words := b.mem.readBurst a n
      let w := fun k : Nat => words[k]?.getD 0
      (c.abandon = true → c.stage ≠ .lock → c.stage ≠ .unlock → outcome (Releases c .abandoned))
      ∧ (c.abandon = false → c.stage = .seekCount →
        ((w 0).toNat = 0 → outcome (Releases c .cueMissing)) ∧ (4096 < (w 0).toNat → outcome (Releases c .badCue))
        ∧ (1 ≤ (w 0).toNat → (w 0).toNat ≤ 4096 →
          outcome (ReadsOn c (.seekDirectory (w 0).toNat 0) 2 (min 16 (w 0).toNat))))
      ∧ (∀ count position, c.abandon = false → c.stage = .seekDirectory count position →
        (∀ earlier stop later, words = earlier ++ stop :: later → (∀ y ∈ earlier, ¬MeetsSearch c.job.search y) →
          MeetsSearch c.job.search stop →
          let cue := stop.toNat % 65536
          let offset := stop.toNat / 65536
          ((∃ m, c.job.search = .exactly m ∧ cue ≠ m) → outcome (Releases c .cueMissing))
          ∧ ((∀ m, c.job.search = .exactly m → cue = m) →
            (offset < 2 + count → outcome (Releases c .badCue))
            ∧ (2 + count ≤ offset → outcome (ReadsOn c (.header cue offset count) offset 8))))
        ∧ ((∀ y ∈ words, ¬MeetsSearch c.job.search y) →
          (count ≤ position + n → outcome (Releases c .cueMissing))
          ∧ (position + n < count →
            outcome (ReadsOn c (.seekDirectory count (position + n)) (2 + (position + n)) (min 16 (count - (position + n)))))))
      ∧ (∀ number offset count, c.abandon = false → c.stage = .header number offset count →
        ((∀ h, ¬HeaderIs number words h) → outcome (Releases c .badCue))
        ∧ ∀ h, HeaderIs number words h →
          (poolFree b < h.count → outcome (Releases c .noRoom))
          ∧ (h.count ≤ poolFree b → EndsWith b fun t =>
            t.playbacks = setAt b.playbacks c.job.playback { x with reservation := h.count }
            ∧ (h.count ≠ 0 → ReadsOn { c with header := some h } (.entries offset 0) (offset + 8) (min 16 h.count) b t)
            ∧ (h.count = 0 → t.loader = { b.loader with current := some { c with header := some h, stage := .unlock } }
              ∧ Asks .loader (.write (b.anchor.banks[c.job.bank]?.getD 0) [0]) t)))
      ∧ ∀ offset position h, c.abandon = false → c.stage = .entries offset position → c.header = some h →
        let words := words.take (h.count - position)
        ((∃ y ∈ words, 1024 ≤ y.toNat / 65536 % 32768) → outcome (Releases c .badCue))
        ∧ ((∀ y ∈ words, y.toNat / 65536 % 32768 < 1024) → EndsWith b fun t =>
          (∃ incoming reservation,
            t.playbacks = setAt b.playbacks c.job.playback { x with incoming := incoming, reservation := reservation }
            ∧ TakesTheWords x.incoming incoming words
            ∧ ((x.incoming.map IncomingEntry.channel).Pairwise (· < ·) →
              (incoming.map IncomingEntry.channel).Pairwise (· < ·) ∧ x.incoming.length ≤ incoming.length
              ∧ reservation = x.reservation - (incoming.length - x.incoming.length)
              ∧ (incoming.length ≤ x.incoming.length + x.reservation → poolInUse t = poolInUse b)))
          ∧ (position + n < h.count →
            ReadsOn c (.entries offset (position + n)) (offset + 8 + (position + n)) (min 16 (h.count - (position + n))) b t)
          ∧ (h.count ≤ position + n → t.loader = { b.loader with current := some { c with stage := .unlock } }
            ∧ Asks .loader (.write (b.anchor.banks[c.job.bank]?.getD 0) [0]) t))

/-- The release write of a job that has failed or is abandoned has ended: the job ends with its code, or ABANDONED (R57, R59). -/
def AReleaseWriteEndsTheJob : Prop :=
  ∀ (b : Block) (c : CurrentLoad) (k : TenureKind),
    b.engine.state = .running ∨ b.engine.state = .stopping → EndsDone .loader k b → b.loader.current = some c → c.stage = .unlock →
    QueueIsReserved c.job.playback b →
    (c.abandon = true → EndsWith b (EndsTheJob c .abandoned b))
    ∧ ∀ code, c.abandon = false → c.failed = some code → EndsWith b (EndsTheJob c code b)

/-- A load job's release write has ended, whatever the origin of its request and whatever waits behind it: the crossfade is built and the
request completes; a fade end already reached is then taken, with the last cue record just written, and arms its follow, which expires
at once when its time is reached too; and then the queue is served (R7, R8, R10, R21, R22; that the superseded count stops at its top is
notes/assumptions/16.md). -/
def ABuiltLoadLetsTheQueueGoOn : Prop :=
  ∀ (b : Block) (c : CurrentLoad) (h : CueHeader) (r : QueuedRequest) (rest : List QueuedRequest) (k : TenureKind),
    b.engine.state = .running → EndsDone .loader k b → b.loader.current = some c → c.stage = .unlock → c.abandon = false →
    c.failed = none → c.header = some h → (playbackOf b c.job.playback).queue = r :: rest → QueueIsReserved c.job.playback b →
    let p := c.job.playback
    let x := playbackOf b p
    let now := b.time.clock
    let override := match r.kind with | .go _ _ t => t | .goNext _ => none | .pause => none | .resume => none
    ∃ entries, IsTheCrossfadeOf x now b.mixer.takeStamp entries ∧
    let has := fun f : FadeClass => entries.any fun e => e.fadeClass == f
    let up := override.getD h.up
    let down := override.getD h.down
    let fadeEnd := now + BitVec.ofNat 32 (h.delay + max (if has .up then up else 0) (if has .down then down else 0))
    let built := { x with
      fade := .fading, remembered := none, load := .none, entries := entries, incoming := [], reservation := 0
      timing := ⟨now, h.delay, up, down, fadeEnd, none⟩
      follow := none
      lastCue := some ⟨c.job.bank, h.cue, h.follow, h.linkCue, h.hold, h.down⟩ }
    let isDue := reached now fadeEnd
    let settled := { built with
      fade := .holding
      entries := (entries.filter fun e => !e.leaving).map fun e => { e with start := e.target } }
    let follow := if isDue then FollowArmed built else none
    let expires : Bool := match follow with | some d => reached now d | none => false
    let y := { if isDue then settled else built with follow := if expires then none else follow }
    let edits := [⟨p, built.view, x.entries.length + x.incoming.length - entries.length⟩]
      ++ if isDue then [⟨p, settled.view, (entries.filter fun e => e.leaving).length⟩] else []
    let stamped := { b.mixer with takeStamp := if b.mixer.takeStamp < 2 ^ 48 - 1 then b.mixer.takeStamp + 1 else b.mixer.takeStamp }
    EndsWith b fun t =>
      TheQueueGoesOn p y (if expires ∧ rest = [] then [⟨.follow, .goNext none⟩] else rest)
        (completionsOf r.origin .ok (BitVec.ofNat 32 h.cue) (BitVec.ofNat 32 entries.length)) edits stamped b.loader.stuck b t
      ∧ isRaised .playback t = (isRaised .playback b || isDue)
      ∧ t.superseded = if expires ∧ rest ≠ [] then countUp b.superseded else b.superseded

/-- A load job's release write has ended: the playback fades from the old set to the incoming list, the set built as R33 tabulates it,
the last cue record is written, and the request completes OK with the cue number and the number of entries (R10, R28, R33, R35, R37,
R56; the third value 0 is notes/assumptions/26.md, and so are the values 0 of a job that does not complete).  What follows when the fade end is already reached, when the request is a
trigger's or a follow's, and when others wait behind it, is said in ABuiltLoadLetsTheQueueGoOn (R7, R8, R10, R21, R22), the stages
before it, with their failures and an abandoned job's end, in TheLoadersStagesLeadOn, and the end of a job that has failed or is abandoned in AReleaseWriteEndsTheJob (R29, R30, R49 to R55,
R57, R59). -/
def Obligations.ACompletedLoadBuildsTheCrossfade : Prop :=
  (∀ (b : Block) (q : List Instr) (c : CurrentLoad) (h : CueHeader) (slot : Fin 32) (kind : QueuedKind) (done : Nat)
    (value : Option Word) (a : Word) (ws : List Word),
    b.engine.phase = .released → b.engine.state = .running → b.engine.aborting = false → b.port.state = .transferring →
    b.port.current = some ⟨.loader, .write a ws, done, value⟩ →
    b.loader.current = some c → c.stage = .unlock → c.abandon = false → c.failed = none → c.header = some h →
    (playbackOf b c.job.playback).queue = [⟨.post slot, kind⟩] → slot ∈ b.results.reserved →
    (∀ j ∈ b.loader.queue, j.playback ≠ c.job.playback) →
    let p := c.job.playback
    let x := playbackOf b p
    let now := b.time.clock
    let override := match kind with | .go _ _ t => t | _ => none
    ∃ entries, IsTheCrossfadeOf x now b.mixer.takeStamp entries ∧
    let has := fun f : FadeClass => entries.any fun e => e.fadeClass == f
    let up := override.getD h.up
    let down := override.getD h.down
    let fadeEnd := now + BitVec.ofNat 32 (h.delay + max (if has .up then up else 0) (if has .down then down else 0))
    reached now fadeEnd = false →
    ∃ t, exec .tenureEnd ⟨b, q⟩ = .next ⟨t, q⟩
      ∧ playbackOf t p = { x with
          fade := .fading, remembered := none, load := .none, queue := [], entries := entries, incoming := [], reservation := 0
          timing := ⟨now, h.delay, up, down, fadeEnd, none⟩
          follow := none
          lastCue := some ⟨c.job.bank, h.cue, h.follow, h.linkCue, h.hold, h.down⟩ }
      ∧ t.results.queue = b.results.queue
          ++ [⟨slot, .ok, BitVec.ofNat 32 h.cue, BitVec.ofNat 32 entries.length, 0⟩]
      ∧ (let stamped := { b.mixer with takeStamp := if b.mixer.takeStamp < 2 ^ 48 - 1 then b.mixer.takeStamp + 1 else b.mixer.takeStamp }
        let spare := x.entries.length + x.incoming.length - entries.length
        (b.mixer.pass = none → t.mixer = { stamped with views := setAt b.mixer.views p (playbackOf t p).view })
        ∧ (b.mixer.pass.isSome = true → t.mixer = { stamped with held := b.mixer.held ++ [⟨p, (playbackOf t p).view, spare⟩] }
          ∧ awaitingLanding t = awaitingLanding b + spare))
      ∧ t.mem = b.mem.writeBurst a ws)
  ∧ ABuiltLoadLetsTheQueueGoOn ∧ TheLoadersStagesLeadOn ∧ AReleaseWriteEndsTheJob

/-- A tenure of a client is in hand whose fault leaves the run of faults below three, and no abort of a start waits for it. -/
def CanFault (c : Client) (k : TenureKind) (b : Block) : Prop :=
  b.engine.phase = .released ∧ b.engine.aborting = false ∧ b.port.consecutive < 2
    ∧ ∃ done value, b.port.current = some ⟨c, k, done, value⟩

/-- A fault of the tenure in hand, `done` of its words done, leaves the part as `P` says: no grant while it is REQUESTING, which comes
before its first word, and MRDY low or MERR while it is TRANSFERRING. -/
def FaultsWith (b : Block) (done : Nat) (P : Block → Prop) : Prop :=
  ∀ q, (b.port.state = .requesting → done = 0 → ∃ t, exec .grantTimeout ⟨b, q⟩ = .next ⟨t, q⟩ ∧ P t)
    ∧ (b.port.state = .transferring → ∀ landed, (∃ t, exec (.readyTimeout done landed) ⟨b, q⟩ = .next ⟨t, q⟩ ∧ P t)
      ∧ ∃ t, exec (.busError done landed) ⟨b, q⟩ = .next ⟨t, q⟩ ∧ P t)

/-- A fault in STARTING: of the anchor read it ends the start with ANCHOR_BAD, and of a sweep's tenure the sweep goes on with the next
bank or is complete (R63, R192).  The lock sweep count stays, whatever the faulted write left in memory, by notes/assumptions/38.md. -/
def AFaultInAStart : Prop :=
  ∀ (b : Block) (k : TenureKind) (done : Nat), b.engine.state = .starting →
    (∀ before, b.engine.start = .anchor before → CanFault .scanner k b → FaultsWith b done fun t =>
      t.engine = { b.engine with state := .stopped, fault := .anchorBad, start := .idle }
        ∧ t.control = { b.control with run := false } ∧ t.anchor = b.anchor ∧ isRaised .fault t = true)
    ∧ ∀ bank, b.engine.start = .sweep bank → CanFault .loader k b → FaultsWith b done fun t =>
      t.loader = b.loader
      ∧ (bank + 1 < b.anchor.bankCount → t.engine = { b.engine with start := .sweep (bank + 1) }
          ∧ Asks .loader (.modify (b.anchor.banks[bank + 1]?.getD 0) 2 0) t)
      ∧ (b.anchor.bankCount ≤ bank + 1 → t.engine = { b.engine with state := .running, start := .idle }
          ∧ t.scanner.countdown = b.time.inForce.scan ∧ t.status.countdown = b.time.inForce.status)

/-- A fault of a scanner tenure ends the scan, and a pending one starts at once in RUNNING: no slot is visited or taken, and one whose
body was being read completes BUS_FAULT, or CANCELLED in STOPPING (R171, R173; the values 0 of CANCELLED are R173's too). -/
def AFaultEndsTheScan : Prop :=
  ∀ (b : Block) (k : TenureKind) (done : Nat), b.engine.state = .running ∨ b.engine.state = .stopping → CanFault .scanner k b →
    let ends := fun t : Block =>
      (b.scanner.scanPending = true ∧ b.engine.state = .running →
        t.scanner = { b.scanner with step := .row [], scanPending := false }
          ∧ Asks .scanner (.read b.anchor.postTable (min 16 b.anchor.slots)) t)
      ∧ (b.scanner.scanPending = false ∨ b.engine.state = .stopping →
        t.scanner = { b.scanner with step := .idle, scanPending := false })
    ((∃ row, b.scanner.step = .row row) ∨ (∃ i rest n, b.scanner.step = .claim i rest n) → FaultsWith b done fun t =>
      ends t ∧ t.results = b.results)
    ∧ ∀ i rest n request, b.scanner.step = .body i rest n request → i ∈ b.results.reserved → FaultsWith b done fun t =>
      ends t ∧ t.results.reserved = b.results.reserved.erase i
        ∧ t.results.queue = b.results.queue ++ [⟨i, if b.engine.state = .stopping then .cancelled else .busFault, 0, 0, 0⟩]

/-- A fault of the result writer: the completion stays at the head and the writer waits for a boundary (R176); of a TALKBACK write: the
query completes BUS_FAULT, its buffer EMPTY, and the next line's reply is written (R153). -/
def AFaultStopsAResultOrAReply : Prop :=
  ∀ (b : Block) (k : TenureKind) (done : Nat), b.engine.state = .running ∨ b.engine.state = .stopping →
    (CanFault .results k b → FaultsWith b done fun t => t.results = { b.results with writer := .waiting })
    ∧ ∀ (l : Fin 4) (rest : List (Fin 4)) (r : Reply), CanFault .talkback k b → b.talkback = l :: rest → (lineOf b l).reply = some r →
      FaultsWith b done fun t => t.talkback = rest ∧ t.lines = setAt b.lines l { lineOf b l with reply := none }
        ∧ (r.slot ∈ b.results.reserved → t.results.queue = b.results.queue ++ [⟨r.slot, .busFault, 0, 0, 0⟩])
        ∧ ∀ l' rest' r', rest = l' :: rest' → l' ≠ l → (lineOf b l').reply = some r' →
          ∃ ws, Asks .talkback (.write r'.area ws) t ∧ AreTheReplyWords r' ws

/-- A fault of the table loader's reader ends its job BUS_FAULT, or ABANDONED in STOPPING, the staging or shadow it was filling EMPTY, and
the next head that can start is taken (R86, R94, R96, R97; the values 0 are notes/assumptions/26.md). -/
def AFaultEndsTheTableJob : Prop :=
  ∀ (b : Block) (j : TableJob) (k : TenureKind) (done : Nat), b.engine.state = .running ∨ b.engine.state = .stopping →
    CanFault .tables k b → b.tables.reader = some j →
    let code := if b.engine.state = .stopping then ResultCode.abandoned else .busFault
    (jobSlot j ∈ b.results.reserved → FaultsWith b done fun t =>
      TheReaderTakesTheHead (withoutJob j b.tables) [⟨jobSlot j, code, 0, 0, 0⟩] b t ∧ t.mixer = b.mixer)
    ∧ ∀ j' rest, b.tables.queue = j' :: rest → (∃ slot a n, j = .patch slot a n) ∨ (∃ slot i a, j' = .curve slot i a) →
      FaultsWith b done fun t => t.tables.reader = some j' ∧ t.tables.queue = rest

/-- A fault of the cue loader's tenure.  The acquire ends the job BUS_FAULT with no release, its lock counted as stuck when the write that
followed a read of FREE faults; a read of the bank fails it BUS_FAULT and its lock is released; and the release write gives the lock up as stuck, the job ending with the code it
had, or BUS_FAULT.  An abandoned job ends ABANDONED (R57 to R59; the values 0 are notes/assumptions/26.md). -/
def AFaultEndsOrReleasesTheLoad : Prop :=
  ∀ (b : Block) (c : CurrentLoad) (k : TenureKind) (done : Nat),
    b.engine.state = .running ∨ b.engine.state = .stopping → CanFault .loader k b → b.loader.current = some c →
    QueueIsReserved c.job.playback b →
    let code := if c.abandon then ResultCode.abandoned else c.failed.getD .busFault
    (∀ a, k = .modify a 0 2 → c.stage = .lock →
      (done = 0 ∨ b.mem.load (wordAddress a) ≠ 0 → FaultsWith b done (EndsTheJob c code b))
      ∧ (1 ≤ done → b.mem.load (wordAddress a) = 0 → FaultsWith b done (EndsTheJobWith (countUp b.loader.stuck) c code b)))
    ∧ (c.stage ≠ .lock → c.stage ≠ .unlock → c.lockHeld = true → c.failed = none → FaultsWith b done (Releases c .busFault b))
    ∧ (c.stage = .unlock → FaultsWith b done (EndsTheJobWith (countUp b.loader.stuck) c code b))

/-- A fault of the STATUS client ends its first job: a page job takes its even edition with STATUS not raised, a snapshot completes
BUS_FAULT, and the job that waits begins (R178, R180; the values 0 are notes/assumptions/26.md). -/
def AFaultEndsTheStatusJob : Prop :=
  ∀ (b : Block) (k : TenureKind) (done : Nat) (rest : List StatusJob), b.engine.state = .running ∨ b.engine.state = .stopping →
    CanFault .status k b →
    (b.status.order = .page :: rest → FaultsWith b done fun t =>
      t.status = { b.status with page := none, edition := b.status.edition + 2, order := rest } ∧ t.intStatus = b.intStatus
        ∧ ∀ slot address words rest', rest = .snapshot :: rest' → b.status.snapshot = some ⟨slot, address, .writing words 0⟩ →
          Asks .status (.write address (words.take 16)) t)
    ∧ ∀ slot address words n, b.status.order = .snapshot :: rest → b.status.snapshot = some ⟨slot, address, .writing words n⟩ →
      FaultsWith b done fun t => t.status = { b.status with snapshot := none, order := rest }
        ∧ (slot ∈ b.results.reserved → t.results.queue = b.results.queue ++ [⟨slot, .busFault, 0, 0, 0⟩])
        ∧ ∀ j rest', rest = .page :: rest' → b.status.page = some j → j.burst = 0 →
          Asks .status (.write b.anchor.statusPage [b.status.edition + 1]) t

/-- The memory after a fault of a tenure TRANSFERRING, `faulted` words done before the faulted one, which `landed` says has reached memory
or not: a read changes nothing, a write leaves those words, and a read-modify-write is made only by a fault on its write (R182, R183, R187;
notes/assumptions/4.md). -/
def TheWordsDoneStand (tn : Tenure) (faulted : Nat) (landed : Bool) (b t : Block) : Prop :=
  (∀ a n, tn.kind = .read a n → t.mem = b.mem)
  ∧ (∀ a ws, tn.kind = .write a ws → faulted < ws.length →
      t.mem = b.mem.writeBurst a (ws.take (if landed then faulted + 1 else faulted)))
  ∧ ∀ a expect put, tn.kind = .modify a expect put →
      t.mem = if 1 ≤ faulted ∧ landed = true ∧ b.mem.load (wordAddress a) = expect then b.mem.store (wordAddress a) put else b.mem

/-- A tenure that faults, the count of consecutive faults below 2 before it: both counts rise by one, the engine is not HALTED, the
arbiter serves the next client, and a grant timeout stores nothing, while a fault under way leaves the words done before it in memory.  A
read-modify-write that faults on its read writes nothing, and one that faults on its write may have made it; in STARTING with an abort
under way the fault is on the word that was in progress, and the engine is STOPPED (R182, R183, R185 to R189; which words landed is
notes/assumptions/4.md, and when the engine is STOPPED is 10.md).  What the client does is said in AFaultInAStart (R63, R192, 38.md),
AFaultEndsTheScan (R173), AFaultStopsAResultOrAReply (R153, R176), AFaultEndsTheTableJob (R96, R97), AFaultEndsOrReleasesTheLoad (R57 to
R59) and AFaultEndsTheStatusJob (R178, R180); result values not named are 26.md. -/
def Obligations.AFaultedTenureIsCounted : Prop :=
  (∀ (b : Block) (q : List Instr) (tn : Tenure) (done : Nat) (landed : Bool), b.engine.phase = .released →
    b.port.current = some tn → b.port.consecutive < 2 → b.engine.state ≠ .halted → b.control.run = false ∨ b.engine.aborting = false →
    let counted := fun t : Block => t.port.consecutive = b.port.consecutive + 1 ∧ t.port.faults = countUp b.port.faults
      ∧ t.engine.state ≠ .halted ∧ (b.engine.aborting = true → t.engine.state = .stopped ∧ t.port.state = .idle)
      ∧ (b.engine.aborting = false → b.engine.state = .running ∨ b.engine.state = .stopping → ServesInOrder tn.client b t)
    let stored := TheWordsDoneStand tn (if b.engine.aborting then tn.done else done) landed b
    (b.port.state = .requesting →
      ∃ t, exec .grantTimeout ⟨b, q⟩ = .next ⟨t, q⟩ ∧ counted t ∧ t.mem = b.mem)
    ∧ (b.port.state = .transferring →
      (∃ t, exec (.readyTimeout done landed) ⟨b, q⟩ = .next ⟨t, q⟩ ∧ counted t ∧ stored t)
      ∧ ∃ t, exec (.busError done landed) ⟨b, q⟩ = .next ⟨t, q⟩ ∧ counted t ∧ stored t))
  ∧ AFaultInAStart ∧ AFaultEndsTheScan ∧ AFaultStopsAResultOrAReply ∧ AFaultEndsTheTableJob ∧ AFaultEndsOrReleasesTheLoad
  ∧ AFaultEndsTheStatusJob

/-- Playback `p` has a job in the cue loader, waiting in its queue or its current one. -/
def HasLoad (p : Fin 8) (b : Block) : Prop :=
  (∃ j ∈ b.loader.queue, j.playback = p) ∨ ∃ c, b.loader.current = some c ∧ c.job.playback = p

/-- The end of every load at a halt.  A playback with a job in the loader has its request ended and serves its queue to the end, a GO or
GO NEXT as BUS_FAULT with no job; its load state is NONE and its queue empty, and the current job's list and reservation are freed.  A
playback with none stays as it is.  So where each load state has its job in the loader, as loadsOk says, every playback is left at NONE
with an empty queue.  After a RESUME that finds its time already reached see PauseAndResumeFreezeAndContinue (R7, R11, R14, R15, R25, R60). -/
def TheLoadsEndAtAHalt (b t : Block) : Prop :=
  let served := fun p : Fin 8 =>
    let x := playbackOf b p
    servedQueue true b.time.clock (x.queue.drop 1) { x with load := .none }
  let isCurrent := fun p : Fin 8 => ∃ c, b.loader.current = some c ∧ c.job.playback = p
  let lists := fun x : Playback => (x.incoming, x.reservation)
  (∀ p, HasLoad p b → (playbackOf t p).load = .none ∧ (playbackOf t p).queue = []
    ∧ (isCurrent p → lists (playbackOf t p) = ([], 0))
    ∧ (¬isCurrent p → lists (playbackOf t p) = lists (playbackOf b p))
    ∧ ((served p).late = false →
        playbackOf t p = { (served p).playback with
          incoming := (playbackOf t p).incoming, reservation := (playbackOf t p).reservation }))
  ∧ (∀ p, ¬HasLoad p b → playbackOf t p = playbackOf b p)
  ∧ (loadsOk b = true → ∀ p, (playbackOf t p).load = .none ∧ (playbackOf t p).queue = [])
  ∧ ((∀ p, HasLoad p b → (served p).late = false) → t.superseded = b.superseded ∧ ∀ i, i ≠ .fault → isRaised i t = isRaised i b)
  ∧ ((∀ p, HasLoad p b → (playbackOf b p).queue.length ≤ 1) → t.mixer = b.mixer)
  ∧ t.mixer = { b.mixer with views := t.mixer.views, held := t.mixer.held }

/-- The stuck-lock count after a fault of the tenure `tn`, `faulted` of its words done, that enters HALTED.  A lock that the current job
holds, whatever it waits for, is given up as stuck; so is one whose acquire had read FREE when its write faulted; no other is counted (R58,
R60). -/
def AHeldLockIsStuck (tn : Tenure) (faulted : Nat) (b t : Block) : Prop :=
  (b.loader.current = none → t.loader.stuck = b.loader.stuck)
  ∧ ∀ c, b.loader.current = some c →
    (c.lockHeld = true → c.stage ≠ .lock → t.loader.stuck = countUp b.loader.stuck)
    ∧ (c.lockHeld = false → c.stage = .lock →
      (tn.client ≠ .loader → t.loader.stuck = b.loader.stuck)
      ∧ ∀ a, tn.client = .loader → tn.kind = .modify a 0 2 →
        (1 ≤ faulted → b.mem.load (wordAddress a) = 0 → t.loader.stuck = countUp b.loader.stuck)
        ∧ (faulted = 0 ∨ b.mem.load (wordAddress a) ≠ 0 → t.loader.stuck = b.loader.stuck))

/-- The fault that brings the count of consecutive faults to 3 enters HALTED with BUS_HALT and FAULT raised: the port is IDLE with nothing
waiting, its counts counted, and no scan or scan-pending, result, load, table job, patch staging or curve shadow, reply, page or snapshot is
left; a query in flight is marked, so that its OK ends BUS_FAULT (AReplyGoesOnOrFails).  TheLoadsEndAtAHalt says what becomes of the
playbacks, and AHeldLockIsStuck of a lock held.  The show clock, the control, the frame store, the outputs and the triggers stay, and
memory keeps what the faulted tenure had stored (R25, R58, R60, R98, R156, R171, R173, R176, R178, R180, R182, R189, R194; that a query in
flight is marked is notes/assumptions/13.md, and which words landed is 4.md). -/
def Obligations.AThirdFaultHaltsTheEngine : Prop :=
  ∀ (b : Block) (q : List Instr) (tn : Tenure) (done : Nat) (landed : Bool), b.engine.phase = .released →
    b.port.current = some tn → b.port.consecutive = 2 →
    let halts := fun (faulted : Nat) (t : Block) =>
      t.engine = { b.engine with state := .halted, fault := .busHalt, start := .idle, aborting := false } ∧ isRaised .fault t = true
      ∧ t.port = { b.port with
          state := .idle, current := none, waiting := Vector.replicate 6 none, consecutive := 3, faults := countUp b.port.faults }
      ∧ t.scanner = { b.scanner with step := .idle, scanPending := false } ∧ t.results = ⟨[], [], .idle⟩
      ∧ t.loader.queue = [] ∧ t.loader.current = none ∧ t.loader.sweeps = b.loader.sweeps ∧ AHeldLockIsStuck tn faulted b t
      ∧ TheLoadsEndAtAHalt b t
      ∧ t.tables = ⟨[], none, .empty, Vector.replicate 7 .empty⟩
      ∧ t.talkback = []
      ∧ (∀ l, lineOf t l = { lineOf b l with
          queries := [], reply := none, inFlight := (lineOf b l).inFlight.map fun f => { f with halted := true } })
      ∧ t.status = { b.status with page := none, snapshot := none, order := [], edition := t.status.edition }
      ∧ (b.status.page = none → b.status.order.head? ≠ some .page → t.status.edition = b.status.edition)
      ∧ (b.status.page.isSome = true → t.status.edition = b.status.edition + 2)
      ∧ t.control = b.control ∧ t.intMask = b.intMask ∧ t.anchorReg = b.anchorReg ∧ t.anchor = b.anchor ∧ t.time = b.time
      ∧ t.store = b.store ∧ t.outputs = b.outputs ∧ t.triggers = b.triggers
    let faulted := if b.engine.aborting then tn.done else done
    (b.port.state = .requesting → ∃ t, exec .grantTimeout ⟨b, q⟩ = .next ⟨t, q⟩ ∧ halts 0 t ∧ t.mem = b.mem)
    ∧ (b.port.state = .transferring →
      (∃ t, exec (.readyTimeout done landed) ⟨b, q⟩ = .next ⟨t, q⟩ ∧ halts faulted t ∧ TheWordsDoneStand tn faulted landed b t)
      ∧ ∃ t, exec (.busError done landed) ⟨b, q⟩ = .next ⟨t, q⟩ ∧ halts faulted t ∧ TheWordsDoneStand tn faulted landed b t)

/-! ### The lighting lines (R115, R118, R129 to R138, R140, R146 to R152) -/

/-- The characters `cs` carry the data values of a header, a body and the check that makes their sum a multiple of 256, and the header
alone is flagged (R113, R114, R147). -/
def FrameCarries (header : Nat) (body : List Nat) (cs : List (Bool × Byte)) : Prop :=
  (∃ check, cs.map (fun c => c.2.toNat) = header :: (body ++ [check]) ∧ (header + body.sum + check) % 256 = 0)
  ∧ ∀ k c, cs[k]? = some c → c.1 = decide (k = 0)

/-- An output is, bit time by bit time, a break of 16, a mark of 4 and the characters back to back, each with a low start, its data bits
from the least significant, its flag and a high stop; after them it is at mark (R113, R114). -/
def SendsTheCharacters (cs : List (Bool × Byte)) (level : Nat → Bool) : Prop :=
  (∀ n, n < 16 → level n = false) ∧ (∀ n, 16 ≤ n → n < 20 → level n = true)
  ∧ (∀ k j c, cs[k]? = some c → j < 11 →
      level (20 + 11 * k + j) = if j = 0 then false else if j ≤ 8 then c.2.getLsbD (j - 1) else if j = 9 then c.1 else true)
  ∧ ∀ n, 20 + 11 * cs.length ≤ n → level n = true

/-- What a line's transmitter sends, by bit times from the start of its frame: a level frame with the first slot bytes presented, its
states BREAK, MARK, CHARACTERS with their index, and then TRAIL with talkback on or IDLE; a query frame, and then the turnaround; mark
while it sends none.  The pin of a SEND line shows it, and any other line's pin stays at mark (R112 to R115, R117, R119, R147). -/
def TheFramesGoOutBitByBit : Prop :=
  ∀ (l : Fin 4) (b : Block),
    let x := lineOf b l
    let presented := getAt b.store.presented.slots l
    let sentBytes := (List.ofFn fun i : Fin 256 => (getAt presented i).toNat).take x.config.slots
    let chars := 20 + 11 * (x.config.slots + 3)
    (x.tx = .brk ∨ x.tx = .mark ∨ (∃ k, x.tx = .characters k) → 1 ≤ x.config.slots → x.config.slots ≤ 256 →
      (∃ cs, FrameCarries 0x51 ((x.config.slots - 1) :: sentBytes) cs ∧ SendsTheCharacters cs (transmitterLevel b l))
      ∧ (∀ n, n < 16 → txStateAt b l n = .brk) ∧ (∀ n, 16 ≤ n → n < 20 → txStateAt b l n = .mark)
      ∧ (∀ n, 20 ≤ n → n < chars → txStateAt b l n = .characters ((n - 20) / 11))
      ∧ ∀ n, chars ≤ n → n < chars + 11 → txStateAt b l n = if x.config.talkback then .trail else .idle)
    ∧ (∀ q, x.tx = .query q → q.address ≤ 65535 → q.code ≤ 255 → q.bytes.length ≤ 8 →
      (∃ cs, FrameCarries 0x5A ([q.address / 256, q.address % 256, q.code, q.bytes.length] ++ q.bytes.map BitVec.toNat) cs
        ∧ SendsTheCharacters cs (transmitterLevel b l))
      ∧ ∀ n, 20 + 11 * (6 + q.bytes.length) ≤ n → n < 20 + 11 * (6 + q.bytes.length) + 11 → txStateAt b l n = .turnaround)
    ∧ (x.tx = .idle ∨ x.tx = .trail ∨ x.tx = .turnaround → ∀ n, transmitterLevel b l n = true)
    ∧ ∀ n, transmitPin b l n = if x.config.mode = .send then transmitterLevel b l n else true

/-- LEVEL_FRAME_END and TRAIL_END: the frame is counted; with talkback off the transmitter is IDLE, with it on TRAIL follows and the
head query, if none is in flight and the reply buffer is EMPTY, becomes the query in flight; at the end of TRAIL that query goes on into
its frame, and otherwise the driver is released (R115, R118, R146).  Bit by bit, a level frame and a query frame go out as
TheFramesGoOutBitByBit says (R112 to R115, R117, R119, R147).  Which events move the transmitter's state on is notes/assumptions/18.md, that the
show time at which the query's window opened is kept is 24.md, and that the frame is counted in whatever engine state it ends is 36.md. -/
def Obligations.ALevelFrameEndsAndHandsOver : Prop :=
  TheFramesGoOutBitByBit
  ∧ ∀ (l : Fin 4) (b : Block) (q : List Instr), clocked b = true →
    let x := lineOf b l
    let becomes := fun (c : Instr) (y : Line) => exec c ⟨b, q⟩ = .next ⟨{ b with lines := setAt b.lines l y }, q⟩
    (x.tx = .brk ∨ x.tx = .mark ∨ (∃ k, x.tx = .characters k) →
      (x.config.talkback = false → becomes (.levelFrameEnd l) { x with tx := .idle, sent := countUp x.sent })
      ∧ (x.config.talkback = true → x.queries = [] ∨ x.inFlight.isSome = true ∨ x.reply.isSome = true →
          becomes (.levelFrameEnd l) { x with tx := .trail, sent := countUp x.sent })
      ∧ ∀ f rest, x.config.talkback = true → x.queries = f :: rest → x.inFlight = none → x.reply = none →
          becomes (.levelFrameEnd l) { x with
            tx := .trail, sent := countUp x.sent, queries := rest
            inFlight := some ⟨f, .gap, b.time.clock, [], false, false⟩ })
    ∧ (x.tx = .trail →
      (∀ f, x.inFlight = some f → f.stage = .gap →
        becomes (.trailEnd l) { x with tx := .query f.query, inFlight := some { f with stage := .sending } })
      ∧ ((∀ f, x.inFlight = some f → f.stage ≠ .gap) → becomes (.trailEnd l) { x with tx := .idle, driver := false }))

/-- A query in flight on line `l` ends with a code and two values: its completion, CANCELLED when it is marked cancelled (R151, R155). -/
def QueryEnds (l : Fin 4) (b : Block) (q : List Instr) (c : Instr) (code : ResultCode) (v1 v2 : Word) : Prop :=
  ∀ f, (lineOf b l).inFlight = some f →
    let ended := { b with lines := setAt b.lines l { lineOf b l with inFlight := none } }
    exec c ⟨b, q⟩ = .next ⟨if f.cancelled then complete f.query.slot .cancelled 0 0 0 ended
      else complete f.query.slot code v1 v2 0 ended, q⟩

/-- QUERY_FRAME_END, TURNAROUND_END, REPLY_START, REPLY_START_TIMEOUT and a fall that begins a reply: a broadcast ends OK with its
frame, or BUS_FAULT when the engine has entered HALTED since it started, another query is held, released and awaits its reply, which a
fall begins and a timeout ends NO_REPLY, the driver is released after a broadcast too, and a query marked cancelled ends CANCELLED (R147 to R149, R155,
R156; a fall by START_OF_A_LOW is
notes/assumptions/25.md, the values 0 of these completions are 26.md). -/
def Obligations.AQueryFrameIsFollowedByItsReply : Prop :=
  ∀ (l : Fin 4) (b : Block) (q : List Instr), clocked b = true →
    let x := lineOf b l
    let becomes := fun (c : Instr) (y : Line) => exec c ⟨b, q⟩ = .next ⟨{ b with lines := setAt b.lines l y }, q⟩
    (x.tx = .turnaround → x.inFlight = none → becomes (.turnaroundEnd l) { x with tx := .idle, driver := false })
    ∧ ∀ f : InFlight, x.inFlight = some f →
    (∀ g, f.stage = .sending → x.tx = .query g →
      (f.query.address ≠ 65535 →
        becomes (.queryFrameEnd l) { x with tx := .turnaround, inFlight := some { f with stage := .turnaround } })
      ∧ (f.query.address = 65535 →
        exec (.queryFrameEnd l) ⟨b, q⟩
          = .next ⟨complete f.query.slot (if f.cancelled then .cancelled else if f.halted then .busFault else .ok) 0 0 0
              { b with lines := setAt b.lines l { x with tx := .turnaround, inFlight := none } }, q⟩))
    ∧ (f.stage = .turnaround → x.tx = .turnaround →
      becomes (.turnaroundEnd l) { x with tx := .idle, driver := false, inFlight := some { f with stage := .awaiting } })
    ∧ (f.stage = .awaiting →
      becomes (.replyStart l) { x with inFlight := some { f with stage := .receiving } }
      ∧ (x.config.mode = .send → x.config.talkback = true →
        becomes (.startOfALow l) { x with inFlight := some { f with stage := .receiving } })
      ∧ QueryEnds l b q (.replyStartTimeout l) .noReply 0 0)

/-- A reply being received: the character expected is taken, any other ends BAD_REPLY with its reason, the flag examined before the
value; a whole reply is placed in the reply buffer and joins the TALKBACK client's order, its write asked for when no other reply is
there, and one of a query marked cancelled ends it CANCELLED, or of one in flight at a halt BUS_FAULT, with none placed; a low stop, a break, a gap and the end of the window end it too.  The second result
value is the number of characters taken before (R140, R150 to R153, R155, R156; notes/assumptions/32.md, 33.md; the third result value and the values
of a CANCELLED are 26.md). -/
def Obligations.AReplyGoesOnOrFails : Prop :=
  ∀ (l : Fin 4) (flag : Bool) (data : Byte) (b : Block) (q : List Instr) (f : InFlight), clocked b = true →
    (lineOf b l).inFlight = some f → f.stage = .receiving → (lineOf b l).config.talkback = true → (lineOf b l).driver = false →
    let x := lineOf b l
    let c := Instr.replyCharacter l flag data
    let k := f.taken.length
    let m := (f.taken[4]?.getD 0).toNat
    let taken : Word := BitVec.ofNat 32 k
    let accepted := exec c ⟨b, q⟩
      = .next ⟨{ b with lines := setAt b.lines l { x with inFlight := some { f with taken := f.taken ++ [data] } } }, q⟩
    let fails := fun reason : Word => QueryEnds l b q c .badReply reason taken
    (k = 0 → flag = true → data = 0x5B → accepted)
    ∧ (k = 0 → ¬(flag = true ∧ data = 0x5B) → fails 1)
    ∧ (k ≠ 0 → flag = true → fails 2)
    ∧ (k = 1 → flag = false → data.toNat = f.query.address / 256 → accepted)
    ∧ (k = 1 → flag = false → data.toNat ≠ f.query.address / 256 → fails 3)
    ∧ (k = 2 → flag = false → data.toNat = f.query.address % 256 → accepted)
    ∧ (k = 2 → flag = false → data.toNat ≠ f.query.address % 256 → fails 3)
    ∧ (k = 3 → flag = false → accepted)
    ∧ (k = 4 → flag = false → data.toNat ≤ 32 → accepted)
    ∧ (k = 4 → flag = false → 32 < data.toNat → fails 4)
    ∧ (5 ≤ k → k < 5 + m → flag = false → accepted)
    ∧ (5 ≤ k → k = 5 + m → flag = false → ((f.taken.map BitVec.toNat).sum + data.toNat) % 256 ≠ 0 → fails 5)
    ∧ (5 ≤ k → k = 5 + m → flag = false → ((f.taken.map BitVec.toNat).sum + data.toNat) % 256 = 0 →
        f.cancelled = false → f.halted = false →
      let reply : Reply := ⟨f.query.slot, f.query.address, f.taken[3]?.getD 0, f.taken.drop 5, f.query.area⟩
      ∃ t, exec c ⟨b, q⟩ = .next ⟨t, q⟩
        ∧ t = { b with
            lines := setAt b.lines l { x with inFlight := none, reply := some reply }
            talkback := b.talkback ++ [l]
            port := t.port }
        ∧ (b.talkback ≠ [] → t.port = b.port)
        ∧ (b.talkback = [] → b.engine.state ≠ .halted →
            ∃ ws, Asks .talkback (.write reply.area ws) t ∧ AreTheReplyWords reply ws))
    ∧ (5 ≤ k → k = 5 + m → flag = false → ((f.taken.map BitVec.toNat).sum + data.toNat) % 256 = 0 →
        f.cancelled = true ∨ f.halted = true →
      exec c ⟨b, q⟩ = .next ⟨complete f.query.slot (if f.cancelled then .cancelled else .busFault) 0 0 0
        { b with lines := setAt b.lines l { x with inFlight := none } }, q⟩)
    ∧ QueryEnds l b q (.replyCollision l .framing) .collision 1 taken
    ∧ QueryEnds l b q (.replyCollision l .low) .collision 2 taken
    ∧ (k ≠ 0 → QueryEnds l b q (.replyGapExpiry l) .badReply 6 taken)
    ∧ QueryEnds l b q (.queryWindowEnd l) .badReply 7 taken

/-- A line whose frame ends in an error: its counter, its place in the summary, the last-frame status, and a staging buffer that this
frame was filling (R134). -/
def ErrorLine (k : ErrorKind) (rx : Receiver) (x : Line) : Line :=
  { x with
    rx := rx
    errors := x.errors.hit k
    lastFrame := .error k
    staging := match x.staging with | .filling _ => .empty | s => s }

/-- The table of R130 for a break, its end, a fall, a low stop and a gap expiry on a RECEIVE or LOOP line.  On a LOOP line, whose receiver
is given what its transmitter sends (R119, R128), a break and its end come only while the transmitter is at BREAK, a fall only within its
level frame, and a low stop or a gap expiry never, since every stop bit it sends is high and its characters are back to back (R113, R114);
the rise and the fall after a break show the transmitter at MARK and at its first character (R115; notes/assumptions/18.md). -/
def Obligations.TheReceiverFollowsItsTable : Prop :=
  ∀ (l : Fin 4) (b : Block) (q : List Instr), clocked b = true →
    (lineOf b l).config.mode = .receive ∨ (lineOf b l).config.mode = .loop →
    let x := lineOf b l
    let hunt : Receiver := ⟨.hunt, 0, 0, 0, false, false⟩
    let inBreak : Receiver := ⟨.brk, 0, 0, 0, true, false⟩
    let inFrame := x.rx.state = .header ∨ x.rx.state = .count ∨ x.rx.state = .slots ∨ x.rx.state = .check
    let breaks := x.config.mode = .loop → x.tx = .brk
    let falls := x.config.mode = .loop → x.tx = .brk ∨ x.tx = .mark ∨ ∃ k, x.tx = .characters k
    let sent := fun st : TxState => if x.config.mode = .loop then st else x.tx
    let becomes := fun (c : Instr) (y : Line) => exec c ⟨b, q⟩ = .next ⟨{ b with lines := setAt b.lines l y }, q⟩
    (breaks → x.rx.state = .hunt → becomes (.rxBreak l) { x with rx := inBreak })
    ∧ (breaks → inFrame → becomes (.rxBreak l) (ErrorLine .short inBreak x))
    ∧ (¬breaks → exec (.rxBreak l) ⟨b, q⟩ = .next ⟨b, q⟩ ∧ exec (.rxBreakEnd l) ⟨b, q⟩ = .next ⟨b, q⟩)
    ∧ (breaks → x.rx.state = .brk →
        becomes (.rxBreakEnd l) { x with rx := { x.rx with state := .mark, low := false, gap := true }, tx := sent .mark })
    ∧ (falls → x.rx.state = .mark →
        becomes (.startOfALow l) { x with rx := { x.rx with state := .header, low := true, gap := false }, tx := sent (.characters 0) })
    ∧ (falls → x.rx.state ≠ .mark → becomes (.startOfALow l) { x with rx := { x.rx with low := true, gap := false } })
    ∧ (¬falls → exec (.startOfALow l) ⟨b, q⟩ = .next ⟨b, q⟩)
    ∧ (x.config.mode = .loop →
        exec (.rxLowStop l) ⟨b, q⟩ = .next ⟨b, q⟩ ∧ exec (.rxGapExpiry l) ⟨b, q⟩ = .next ⟨b, q⟩)
    ∧ (x.config.mode = .receive → x.rx.state = .hunt → becomes (.rxLowStop l) { x with rx := { x.rx with low := false } })
    ∧ (x.config.mode = .receive → inFrame → becomes (.rxLowStop l) (ErrorLine .framing hunt x))
    ∧ (x.config.mode = .receive → x.rx.gap = true → x.rx.state = .mark ∨ x.rx.state = .count ∨ x.rx.state = .slots ∨ x.rx.state = .check →
        becomes (.rxGapExpiry l) (ErrorLine .short hunt x))

/-- The character that a LOOP line's transmitter gives its receiver, which is at the same place of the level frame: the flagged header
0x51, the slot count less one, the presented slot bytes in order, and the check that makes the sum of all data values a multiple of 256
(R114, R117, R119). -/
def LoopGives (l : Fin 4) (b : Block) (flag : Bool) (data : Byte) : Prop :=
  let x := lineOf b l
  let presented := getAt b.store.presented.slots l
  let sentBytes := (List.ofFn fun i : Fin 256 => (getAt presented i).toNat).take x.config.slots
  1 ≤ x.config.slots ∧ x.config.slots ≤ 256
  ∧ (x.rx.state = .header → flag = true ∧ data = 0x51)
  ∧ (x.rx.state = .count → flag = false ∧ data.toNat = x.config.slots - 1)
  ∧ (x.rx.state = .slots → flag = false ∧ x.rx.position < x.config.slots ∧ sentBytes[x.rx.position]? = some data.toNat)
  ∧ (x.rx.state = .check → flag = false ∧ (0x51 + (x.config.slots - 1) + sentBytes.sum + data.toNat) % 256 = 0)

/-- A character on a RECEIVE or LOOP line by the state of its receiver, and a stray one on a talkback line with nothing to receive:
header, count, slots and check as R131 to R133 give them, a flag ending the frame UNEXPECTED before anything else, a first slot over a
waiting frame OVERRUN, and a valid frame committed at once between passes (R131 to R136, R138, R140).  On a LOOP line the character is the
transmitter's own, whatever operands the row carries, and the transmitter goes on to its next; it comes only within the transmitter's level
frame, or at its end for a receiver at CHECK or in HUNT (R119, R128; notes/assumptions/18.md). -/
def Obligations.ACharacterMovesTheFrameOn : Prop :=
  ∀ (l : Fin 4) (flag : Bool) (data : Byte) (c : Instr) (b : Block) (q : List Instr), clocked b = true →
    let x := lineOf b l
    let hunt : Receiver := ⟨.hunt, 0, 0, 0, false, false⟩
    let sends := x.tx = .brk ∨ x.tx = .mark ∨ (∃ k, x.tx = .characters k) ∨ x.rx.state = .check ∨ x.rx.state = .hunt
    (x.config.mode = .receive ∧ c = .rxCharacter l flag data
        ∨ x.config.mode = .loop ∧ sends ∧ (∃ flag' data', c = .rxCharacter l flag' data') ∧ LoopGives l b flag data →
      let x := { x with tx := match x.config.mode, x.tx with | .loop, .characters k => .characters (k + 1) | _, tx => tx }
      let becomes := fun y : Line => exec c ⟨b, q⟩ = .next ⟨{ b with lines := setAt b.lines l y }, q⟩
      (x.rx.state = .hunt → becomes { x with rx := { x.rx with low := false } })
      ∧ (x.rx.state = .header → flag = true → data = 0x51 → becomes { x with rx := ⟨.count, 0, 0, 0x51, false, true⟩ })
      ∧ (x.rx.state = .header → ¬(flag = true ∧ data = 0x51) → becomes { x with rx := hunt, foreign := countUp x.foreign })
      ∧ (x.rx.state = .count ∨ x.rx.state = .slots → flag = true → becomes (ErrorLine .unexpected hunt x))
      ∧ (x.rx.state = .count → flag = false →
          becomes { x with rx := ⟨.slots, data.toNat + 1, 0, x.rx.sum + data.toNat, false, true⟩ })
      ∧ (∀ bytes, x.rx.state = .slots → flag = false → x.staging = .complete bytes → becomes (ErrorLine .overrun hunt x))
      ∧ (∀ bytes, x.rx.state = .slots → flag = false →
          (x.staging = .empty ∧ bytes = [] ∨ x.staging = .filling bytes) →
          becomes { x with
            staging := .filling (bytes ++ [data])
            rx := ⟨if x.rx.position + 1 < x.rx.count then .slots else .check, x.rx.count, x.rx.position + 1,
              x.rx.sum + data.toNat, false, true⟩ })
      ∧ (∀ bytes, x.rx.state = .check → x.staging = .filling bytes →
          (flag = true → becomes { ErrorLine .unexpected hunt x with staging := .empty })
          ∧ (flag = false → (x.rx.sum + data.toNat) % 256 ≠ 0 → becomes { ErrorLine .check hunt x with staging := .empty })
          ∧ (flag = false → (x.rx.sum + data.toNat) % 256 = 0 → b.mixer.pass.isSome = true →
              becomes { x with rx := hunt, staging := .complete bytes, received := countUp x.received, lastFrame := .ok })
          ∧ (flag = false → (x.rx.sum + data.toNat) % 256 = 0 → b.mixer.pass = none →
            ∃ t, exec c ⟨b, q⟩ = .next ⟨t, q⟩ ∧ t = { b with lines := t.lines, intStatus := t.intStatus }
              ∧ lineOf t l = { x with
                  rx := hunt, received := countUp x.received, lastFrame := .ok
                  layer := Vector.ofFn fun k => bytes[k.val]?.getD 0
                  staging := .empty, signal := .present
                  signalTimer := some (b.time.clock + BitVec.ofNat 32 x.config.lossTimeout) }
              ∧ (∀ l', l' ≠ l → lineOf t l' = lineOf b l')
              ∧ (x.signal ≠ .present → isRaised .line t = true)
              ∧ (x.signal = .present → t.intStatus = b.intStatus))))
    ∧ (x.config.mode = .loop → ¬sends → exec (.rxCharacter l flag data) ⟨b, q⟩ = .next ⟨b, q⟩)
    ∧ (x.config.mode = .send → x.config.talkback = true → x.driver = false → x.inFlight = none →
        exec (.rxCharacter l flag data) ⟨b, q⟩
          = .next ⟨{ b with lines := setAt b.lines l { x with stray := countUp x.stray } }, q⟩)

/-- SIGNAL_TIMER_EXPIRY in PRESENT: the signal is LOST, LINE is raised, the timer is stopped, and the layer is cleared or held by the
loss action (R138, R139). -/
def Obligations.ALossOfSignalActsOnTheLayer : Prop :=
  ∀ (l : Fin 4) (b : Block) (q : List Instr) (d : Time), clocked b = true → (lineOf b l).signal = .present →
    (lineOf b l).signalTimer = some d → reached b.time.clock d = true →
    ∃ t, exec (.signalTimerExpiry l) ⟨b, q⟩ = .next ⟨t, q⟩ ∧ isRaised .line t = true
      ∧ t = { b with lines := t.lines, intStatus := t.intStatus } ∧ (∀ l', l' ≠ l → lineOf t l' = lineOf b l')
      ∧ lineOf t l = { lineOf b l with
          signal := .lost, signalTimer := none
          layer := if (lineOf b l).config.lossAction = .clear then Vector.replicate 256 0 else (lineOf b l).layer }

/-! ### Response curves (R91, R92) -/

/-- A level passed through a curve of 65 points (R92). -/
def Obligations.ALevelPassesThroughACurve : Prop :=
  (∀ (points : List Nat) (level : Nat), points.length = 65 → (∀ p ∈ points, p ≤ 65535) → level ≤ 65535 →
    let i := level / 1024
    let f := level % 1024
    let here := points[i]?.getD 0
    let next := points[i + 1]?.getD 0
    i ≤ 63 ∧ (curveValue points level : Int) = (here : Int) + Int.tdiv (((next : Int) - here) * f) 1024
    ∧ min here next ≤ curveValue points level ∧ curveValue points level ≤ max here next
    ∧ (f = 0 → curveValue points level = here)
    ∧ (level = 65535 → (curveValue points level : Int)
        = (points[63]?.getD 0 : Nat) + Int.tdiv (((points[64]?.getD 0 : Nat) - (points[63]?.getD 0 : Nat) : Int) * 1023) 1024))
  ∧ (∀ level : Nat, level ≤ 64511 → curveValue curveZero level = level)
  ∧ (∀ level : Nat, 64512 ≤ level → level ≤ 65535 → curveValue curveZero level = 64512 + 1023 * (level % 1024) / 1024)
  ∧ curveValue curveZero 65535 = 65534
  ∧ ∀ (landed : Nat) (b : Block) (q : List Instr), ∃ t, exec (.coldReset landed) ⟨b, q⟩ = .next ⟨t, q⟩
      ∧ ∀ k : Fin 8, curveOf t.mixer k = curveZero

/-! ### Invariants of every step -/

/-- Every step keeps shared memory in its canonical form, so equal memories are equal data (notes/assumptions/3.md). -/
def Obligations.EveryStepKeepsMemoryCanonical : Prop :=
  ∀ s t : State, Memory.wf s.block.mem = true → step s = .next t → Memory.wf t.block.mem = true

/-- Every step keeps the port in order: a tenure is in hand exactly while the port is not IDLE, and in HALTED the port is IDLE with
nothing waiting (R182, R189). -/
def Obligations.EveryStepKeepsThePortInOrder : Prop :=
  ∀ s t : State, portOk s.block.port = true → haltedQuiet s.block = true → step s = .next t →
    portOk t.block.port = true ∧ haltedQuiet t.block = true

/-- Every step keeps the mixer's views of the playbacks, with the held edits, equal to the playbacks themselves, and holds edits only
during a pass (R40). -/
def Obligations.EveryStepKeepsTheViews : Prop :=
  ∀ s t : State, viewsOk s.block = true → step s = .next t → viewsOk t.block = true

/-- Every step keeps the queues within their entries, every set and incoming list in ascending channel order, no slot with two places
of the result queue, which therefore holds at most its 64, and each load state with its job in the cue loader, a playback with none having
served its queue.  The pool keeps its bound: with a reserved entry for every entry the loader has still to read, which every step keeps too,
the entries in use and awaiting landing are at most 3072, and the free entries are the rest (R2, R5, R7, R27, R28, R29, R30, R41, R48, R55, R84,
R144, R172, R175). -/
def Obligations.EveryStepKeepsQueuesBoundedAndListsOrdered : Prop :=
  (∀ s t : State, queuesOk s.block = true → step s = .next t → queuesOk t.block = true)
  ∧ (∀ s t : State, listsOk s.block = true → step s = .next t → listsOk t.block = true)
  ∧ (∀ s t : State, placesOk s.block = true → step s = .next t → placesOk t.block = true)
  ∧ (∀ b : Block, placesOk b = true → b.results.queue.length + b.results.reserved.length ≤ 64)
  ∧ (∀ s t : State, loadsOk s.block = true → step s = .next t → loadsOk t.block = true)
  ∧ (∀ s t : State, listsOk s.block = true → poolOk s.block = true → entriesReserved s.block = true → step s = .next t →
      poolOk t.block = true ∧ entriesReserved t.block = true)
  ∧ ∀ b : Block, poolOk b = true → poolInUse b + awaitingLanding b ≤ 3072 ∧ poolFree b + poolInUse b + awaitingLanding b = 3072

/-- The invariants hold of the machine after reset. -/
def Obligations.TheInvariantsHoldAtReset : Prop :=
  let b := State.reset.block
  Memory.wf b.mem = true ∧ portOk b.port = true ∧ haltedQuiet b = true ∧ viewsOk b = true ∧ queuesOk b = true ∧ listsOk b = true ∧ placesOk b = true
    ∧ loadsOk b = true ∧ poolOk b = true ∧ entriesReserved b = true
end

