-- ==== Sys2Proof/Laws/Memory.lean ====
section
/-! SUPPORT. Shared memory: every operation keeps the canonical form, a stored word reads back, and other words read as before. -/

namespace Sys2Proof.Machine

/-- A word address is one that the canonical form may list. -/
theorem wordAddress_ok (a : Word) : wordAddress a % 4 = 0 ∧ wordAddress a < 2 ^ 32 := by
  have := a.isLt
  unfold wordAddress
  omega

/-- Every cell of `m` lies above address `a`. -/
def Above (a : Nat) (m : Memory) : Prop := ∀ c ∈ m, a < c.1

/-- The canonical form of a non-empty memory, cell by cell. -/
theorem wf_cons (c : Nat × Word) (m : Memory) :
    Memory.wf (c :: m) = true ↔ cellOk c = true ∧ Above c.1 m ∧ Memory.wf m = true := by
  induction m generalizing c with
  | nil => simp [Memory.wf, Above]
  | cons d rest ih =>
    rw [Memory.wf]
    simp only [Bool.and_eq_true, decide_eq_true_eq]
    constructor
    · rintro ⟨⟨hc, hlt⟩, hw⟩
      refine ⟨hc, ?_, hw⟩
      intro x hx
      rcases List.mem_cons.mp hx with rfl | hx
      · exact hlt
      · exact Nat.lt_trans hlt (((ih d).mp hw).2.1 x hx)
    · rintro ⟨hc, ha, hw⟩
      exact ⟨⟨hc, ha d (List.mem_cons_self ..)⟩, hw⟩

/-- An address below every cell reads as unwritten. -/
theorem load_above (m : Memory) (a : Nat) (h : Above a m) : m.load a = unwritten := by
  induction m with
  | nil => rfl
  | cons c rest ih =>
    have hc := h c (List.mem_cons_self ..)
    rw [Memory.load, if_neg (by omega)]
    exact ih fun x hx => h x (List.mem_cons_of_mem _ hx)

/-- A store keeps what lies above an address below it. -/
theorem above_store (m : Memory) (a b : Nat) (w : Word) (h : Above b m) (hb : b < a) : Above b (m.store a w) := by
  induction m with
  | nil =>
    unfold Memory.store
    split
    · intro x hx; cases hx
    · intro x hx
      simp only [List.mem_singleton] at hx
      subst hx; exact hb
  | cons c rest ih =>
    have hr : Above b rest := fun x hx => h x (List.mem_cons_of_mem _ hx)
    have hc := h c (List.mem_cons_self ..)
    unfold Memory.store
    split
    · split
      · exact h
      · intro x hx
        rcases List.mem_cons.mp hx with rfl | hx
        · exact hb
        · exact h x hx
    · split
      · split
        · exact hr
        · intro x hx
          rcases List.mem_cons.mp hx with rfl | hx
          · exact hb
          · exact hr x hx
      · intro x hx
        rcases List.mem_cons.mp hx with rfl | hx
        · exact hc
        · exact ih hr x hx

/-- A store keeps the canonical form. -/
theorem wf_store (m : Memory) (a : Nat) (w : Word) (ha : a % 4 = 0 ∧ a < 2 ^ 32) (h : Memory.wf m = true) :
    Memory.wf (m.store a w) = true := by
  have ok : w ≠ unwritten → cellOk (a, w) = true := fun hw => by
    simp only [cellOk, Bool.and_eq_true, bne_iff_ne, ne_eq, decide_eq_true_eq]
    exact ⟨⟨hw, ha.1⟩, ha.2⟩
  induction m with
  | nil =>
    unfold Memory.store
    split
    · rfl
    · rename_i hw; simpa [Memory.wf] using ok hw
  | cons c rest ih =>
    have hcr := (wf_cons c rest).mp h
    unfold Memory.store
    split
    · rename_i hlt
      split
      · exact h
      · rename_i hw
        refine (wf_cons _ _).mpr ⟨ok hw, ?_, h⟩
        intro x hx
        rcases List.mem_cons.mp hx with rfl | hx
        · exact hlt
        · exact Nat.lt_trans hlt (hcr.2.1 x hx)
    · split
      · rename_i heq
        split
        · exact hcr.2.2
        · rename_i hw
          refine (wf_cons _ _).mpr ⟨ok hw, ?_, hcr.2.2⟩
          intro x hx
          have := hcr.2.1 x hx
          dsimp only
          omega
      · refine (wf_cons _ _).mpr ⟨hcr.1, ?_, ih hcr.2.2⟩
        exact above_store rest a c.1 w hcr.2.1 (by omega)

/-- Another address reads as before a store, in any list of cells. -/
theorem load_store_ne (m : Memory) (a b : Nat) (w : Word) (h : b ≠ a) : (m.store a w).load b = m.load b := by
  induction m with
  | nil =>
    unfold Memory.store
    split
    · rfl
    · simp [Memory.load, Ne.symm h]
  | cons c rest ih =>
    unfold Memory.store
    split
    · split
      · rfl
      · simp [Memory.load, Ne.symm h]
    · split
      · rename_i heq
        split
        · rw [Memory.load, if_neg (by omega)]
        · rw [Memory.load, Memory.load, if_neg (by simpa using Ne.symm h), if_neg (by omega)]
      · rw [Memory.load, Memory.load, ih]

/-- A stored word reads back. -/
theorem load_store (m : Memory) (a : Nat) (w : Word) (h : Memory.wf m = true) : (m.store a w).load a = w := by
  induction m with
  | nil =>
    unfold Memory.store
    split
    · rename_i hw; rw [hw]; rfl
    · simp [Memory.load]
  | cons c rest ih =>
    have hcr := (wf_cons c rest).mp h
    unfold Memory.store
    split
    · rename_i hlt
      split
      · rename_i hw
        rw [hw]
        refine load_above _ _ ?_
        intro x hx
        rcases List.mem_cons.mp hx with rfl | hx
        · exact hlt
        · exact Nat.lt_trans hlt (hcr.2.1 x hx)
      · simp [Memory.load]
    · split
      · rename_i heq
        split
        · rename_i hw
          rw [hw, heq]
          exact load_above _ _ hcr.2.1
        · simp [Memory.load]
      · rename_i hne
        rw [Memory.load, if_neg (fun e => hne e.symm)]
        exact ih hcr.2.2

/-- A store in words of a stored word, by the address of a word. -/
theorem load_store_ite (m : Memory) (a b : Nat) (w : Word) (h : Memory.wf m = true) :
    (m.store a w).load b = if b = a then w else m.load b := by
  by_cases e : b = a
  · subst e; simp [load_store m b w h]
  · simp [e, load_store_ne]

/-- A burst write keeps the canonical form. -/
theorem wf_writeBurst (ws : List Word) (m : Memory) (a : Word) (h : Memory.wf m = true) : Memory.wf (m.writeBurst a ws) = true := by
  induction ws generalizing m a with
  | nil => exact h
  | cons w rest ih => exact ih _ _ (wf_store m _ w (wordAddress_ok a) h)

/-- The stores of other masters keep the canonical form. -/
theorem wf_storeAll (stores : List (Word × Word)) (m : Memory) (h : Memory.wf m = true) : Memory.wf (m.storeAll stores) = true := by
  induction stores generalizing m with
  | nil => exact h
  | cons st rest ih => exact ih _ (wf_store m _ st.2 (wordAddress_ok st.1) h)

/-- The words of a tenure keep the canonical form. -/
theorem wf_performWords (k : TenureKind) (n : Nat) (m : Memory) (h : Memory.wf m = true) :
    Memory.wf (performWords k n m) = true := by
  cases k with
  | read a l => exact h
  | write a ws => exact wf_writeBurst _ _ _ h
  | modify a e p =>
    unfold performWords
    dsimp only
    split
    · exact wf_store m _ p (wordAddress_ok a) h
    · exact h

/-- A reset keeps the canonical form. -/
theorem wf_cutMemory (n : Nat) (s : Block) (h : Memory.wf s.mem = true) : Memory.wf (cutMemory n s) = true := by
  unfold cutMemory
  split
  · dsimp only
    split
    · exact h
    · exact wf_performWords _ _ _ h
  · exact h

/-- A reset that cuts a release write leaves every lock word as it stands. -/
theorem cutMemory_release (n : Nat) (s : Block) (t : Tenure) (ht : s.port.current = some t) (h : t.isRelease = true) :
    cutMemory n s = s.mem := by
  unfold cutMemory
  split
  · next _ _ _ hc =>
    have : t = _ := Option.some.inj (ht.symm.trans hc)
    subst this
    simp [h]
  · rfl

/-- The memory of the machine after reset has the canonical form. -/
theorem wf_reset : Memory.wf State.reset.block.mem = true := rfl

/-- Memories in canonical form that read alike are the same data. -/
theorem memory_ext (m n : Memory) (hm : Memory.wf m = true) (hn : Memory.wf n = true) (h : ∀ a, m.load a = n.load a) : m = n := by
  induction m generalizing n with
  | nil =>
    cases n with
    | nil => rfl
    | cons d rest =>
      have hd := (wf_cons d rest).mp hn
      have := h d.1
      simp only [Memory.load, if_true] at this
      have hk := hd.1
      simp [cellOk, ← this, unwritten] at hk
  | cons c rest ih =>
    have hc := (wf_cons c rest).mp hm
    cases n with
    | nil =>
      have := h c.1
      simp only [Memory.load, if_true] at this
      have hk := hc.1
      simp [cellOk, this, unwritten] at hk
    | cons d rest' =>
      have hd := (wf_cons d rest').mp hn
      have nz : ∀ e : Nat × Word, cellOk e = true → e.2 ≠ unwritten := by
        intro e he; simp [cellOk] at he; exact he.1.1
      have hcd : c.1 = d.1 := by
        rcases Nat.lt_trichotomy c.1 d.1 with hl | hl | hl
        · exfalso
          have h1 := h c.1
          rw [Memory.load, if_pos rfl, load_above (d :: rest') c.1 ?_] at h1
          · exact nz c hc.1 h1
          · intro x hx
            rcases List.mem_cons.mp hx with rfl | hx
            · exact hl
            · exact Nat.lt_trans hl (hd.2.1 x hx)
        · exact hl
        · exfalso
          have h1 := h d.1
          rw [Memory.load.eq_def (d :: rest')] at h1
          simp only [if_true] at h1
          rw [load_above (c :: rest) d.1 ?_] at h1
          · exact nz d hd.1 h1.symm
          · intro x hx
            rcases List.mem_cons.mp hx with rfl | hx
            · exact hl
            · exact Nat.lt_trans hl (hc.2.1 x hx)
      have hv : c.2 = d.2 := by
        have h1 := h c.1
        rw [Memory.load, if_pos rfl, Memory.load, if_pos hcd.symm] at h1
        exact h1
      have hcd' : c = d := Prod.ext hcd hv
      subst hcd'
      have : rest = rest' := by
        refine ih rest' hc.2.2 hd.2.2 ?_
        intro a
        by_cases e : c.1 = a
        · subst e
          rw [load_above rest _ hc.2.1, load_above rest' _ hd.2.1]
        · have h1 := h a
          rw [Memory.load, Memory.load, if_neg e, if_neg e] at h1
          exact h1
      rw [this]

/-! ### The words a tenure stores, and the request between a claim and its body read (R170, R183) -/

@[simp] theorem storedTo_read (a : Word) (n k : Nat) (m : Memory) : storedTo (.read a n) k m = [] := rfl

/-- The first address of a burst, and those after it. -/
theorem burstAddress_zero (a : Word) : burstAddress a 0 = wordAddress a := by simp [burstAddress]

theorem burstAddress_next (a : Word) (k : Nat) : burstAddress (a + 4) k = burstAddress a (k + 1) := by
  have : a + 4 + BitVec.ofNat 32 (4 * k) = a + BitVec.ofNat 32 (4 * (k + 1)) := by
    apply BitVec.eq_of_toNat_eq
    have four : (4 : Word).toNat = 4 := rfl
    simp only [BitVec.toNat_add, BitVec.toNat_ofNat, four]
    omega
  rw [burstAddress, burstAddress, this]

/-- A burst write leaves every address but those of its words. -/
theorem load_writeBurst_ne (ws : List Word) (m : Memory) (a : Word) (b : Nat) (h : ∀ k, k < ws.length → b ≠ burstAddress a k) :
    (m.writeBurst a ws).load b = m.load b := by
  induction ws generalizing m a with
  | nil => rfl
  | cons w rest ih =>
    rw [Memory.writeBurst, ih _ _ fun k hk => ?_]
    · exact load_store_ne _ _ _ _ (by rw [← burstAddress_zero]; exact h 0 (by simp))
    · rw [burstAddress_next]
      exact h (k + 1) (by simpa using hk)

/-- A tenure leaves every address it does not store to. -/
theorem load_performWords_of_not_stored {k : TenureKind} {n : Nat} {m : Memory} {b : Nat} (h : b ∉ storedTo k n m) :
    (performWords k n m).load b = m.load b := by
  unfold storedTo at h
  unfold performWords
  split at h
  · rfl
  · refine load_writeBurst_ne _ _ _ _ fun j hj e => h ?_
    rw [List.length_take] at hj
    exact List.mem_map.2 ⟨j, List.mem_range.2 hj, e.symm⟩
  · split at h
    · rename_i writes
      rw [if_pos writes]
      exact load_store_ne _ _ _ _ (by simpa using h)
    · rename_i no
      rw [if_neg no]

/-- A pending request that is what memory held stays so under the part's own stores (R170). -/
theorem withOwnStores_requestOf (i : Fin 32) (rest : List (Fin 32)) (taken : Nat) (a : Anchor) (k : TenureKind) (n : Nat) (m : Memory) :
    (ScanStep.body i rest taken (requestOf a i m)).withOwnStores a k n m
      = .body i rest taken (requestOf a i (performWords k n m)) := by
  refine congrArg (ScanStep.body i rest taken) (List.ext_getElem ?_ fun j _ _ => ?_)
  · rw [List.length_mapIdx]
    simp only [requestOf, Memory.readBurst, List.length_map]
  rw [List.getElem_mapIdx]
  simp only [requestOf, Memory.readBurst, List.getElem_map, List.getElem_range]
  split
  · rfl
  · rename_i out
    exact (load_performWords_of_not_stored out).symm

/-- A tenure that stores to none of its words leaves a pending request (R170). -/
theorem withOwnStores_of_not_stored {i : Fin 32} {rest : List (Fin 32)} {taken : Nat} {request : List Word} {a : Anchor} {k : TenureKind}
    {n : Nat} {m : Memory} (h : ∀ j, j < request.length → burstAddress (bodyWordAddress a i 1) j ∉ storedTo k n m) :
    (ScanStep.body i rest taken request).withOwnStores a k n m = .body i rest taken request := by
  refine congrArg (ScanStep.body i rest taken) (List.ext_getElem (List.length_mapIdx ..) fun j _ hj => ?_)
  rw [List.getElem_mapIdx, if_neg (h j hj)]

/-- A read leaves the scan's step. -/
@[simp] theorem withOwnStores_read (st : ScanStep) (a : Anchor) (x : Word) (n k : Nat) (m : Memory) :
    st.withOwnStores a (.read x n) k m = st := by
  cases st with
  | idle => rfl
  | row words => rfl
  | claim i rest taken => rfl
  | body i rest taken request => exact withOwnStores_of_not_stored fun j _ => by simp

end Sys2Proof.Machine
end

