-- ==== Sys2Proof/Laws/State.lean ====
section
/-! SUPPORT. What each single-field update of the part does to every field, so that no proof unfolds a record update. -/

namespace Sys2Proof.Machine

variable (s : Block)

/-! #### raiseInt -/

@[simp] theorem raiseInt_control (src : IntSource) : (raiseInt src s).control = s.control := rfl
@[simp] theorem raiseInt_anchorReg (src : IntSource) : (raiseInt src s).anchorReg = s.anchorReg := rfl
@[simp] theorem raiseInt_intStatus (src : IntSource) : (raiseInt src s).intStatus = s.intStatus ||| src.bit := rfl
@[simp] theorem raiseInt_intMask (src : IntSource) : (raiseInt src s).intMask = s.intMask := rfl
@[simp] theorem raiseInt_engine (src : IntSource) : (raiseInt src s).engine = s.engine := rfl
@[simp] theorem raiseInt_anchor (src : IntSource) : (raiseInt src s).anchor = s.anchor := rfl
@[simp] theorem raiseInt_time (src : IntSource) : (raiseInt src s).time = s.time := rfl
@[simp] theorem raiseInt_port (src : IntSource) : (raiseInt src s).port = s.port := rfl
@[simp] theorem raiseInt_mem (src : IntSource) : (raiseInt src s).mem = s.mem := rfl
@[simp] theorem raiseInt_scanner (src : IntSource) : (raiseInt src s).scanner = s.scanner := rfl
@[simp] theorem raiseInt_results (src : IntSource) : (raiseInt src s).results = s.results := rfl
@[simp] theorem raiseInt_status (src : IntSource) : (raiseInt src s).status = s.status := rfl
@[simp] theorem raiseInt_playbacks (src : IntSource) : (raiseInt src s).playbacks = s.playbacks := rfl
@[simp] theorem raiseInt_superseded (src : IntSource) : (raiseInt src s).superseded = s.superseded := rfl
@[simp] theorem raiseInt_loader (src : IntSource) : (raiseInt src s).loader = s.loader := rfl
@[simp] theorem raiseInt_tables (src : IntSource) : (raiseInt src s).tables = s.tables := rfl
@[simp] theorem raiseInt_mixer (src : IntSource) : (raiseInt src s).mixer = s.mixer := rfl
@[simp] theorem raiseInt_store (src : IntSource) : (raiseInt src s).store = s.store := rfl
@[simp] theorem raiseInt_lines (src : IntSource) : (raiseInt src s).lines = s.lines := rfl
@[simp] theorem raiseInt_talkback (src : IntSource) : (raiseInt src s).talkback = s.talkback := rfl
@[simp] theorem raiseInt_outputs (src : IntSource) : (raiseInt src s).outputs = s.outputs := rfl
@[simp] theorem raiseInt_triggers (src : IntSource) : (raiseInt src s).triggers = s.triggers := rfl

/-! #### reservePlace -/

@[simp] theorem reservePlace_control (i : Fin 32) : (reservePlace i s).control = s.control := rfl
@[simp] theorem reservePlace_anchorReg (i : Fin 32) : (reservePlace i s).anchorReg = s.anchorReg := rfl
@[simp] theorem reservePlace_intStatus (i : Fin 32) : (reservePlace i s).intStatus = s.intStatus := rfl
@[simp] theorem reservePlace_intMask (i : Fin 32) : (reservePlace i s).intMask = s.intMask := rfl
@[simp] theorem reservePlace_engine (i : Fin 32) : (reservePlace i s).engine = s.engine := rfl
@[simp] theorem reservePlace_anchor (i : Fin 32) : (reservePlace i s).anchor = s.anchor := rfl
@[simp] theorem reservePlace_time (i : Fin 32) : (reservePlace i s).time = s.time := rfl
@[simp] theorem reservePlace_port (i : Fin 32) : (reservePlace i s).port = s.port := rfl
@[simp] theorem reservePlace_mem (i : Fin 32) : (reservePlace i s).mem = s.mem := rfl
@[simp] theorem reservePlace_scanner (i : Fin 32) : (reservePlace i s).scanner = s.scanner := rfl
@[simp] theorem reservePlace_results (i : Fin 32) : (reservePlace i s).results = { s.results with reserved := s.results.reserved ++ [i] } := rfl
@[simp] theorem reservePlace_status (i : Fin 32) : (reservePlace i s).status = s.status := rfl
@[simp] theorem reservePlace_playbacks (i : Fin 32) : (reservePlace i s).playbacks = s.playbacks := rfl
@[simp] theorem reservePlace_superseded (i : Fin 32) : (reservePlace i s).superseded = s.superseded := rfl
@[simp] theorem reservePlace_loader (i : Fin 32) : (reservePlace i s).loader = s.loader := rfl
@[simp] theorem reservePlace_tables (i : Fin 32) : (reservePlace i s).tables = s.tables := rfl
@[simp] theorem reservePlace_mixer (i : Fin 32) : (reservePlace i s).mixer = s.mixer := rfl
@[simp] theorem reservePlace_store (i : Fin 32) : (reservePlace i s).store = s.store := rfl
@[simp] theorem reservePlace_lines (i : Fin 32) : (reservePlace i s).lines = s.lines := rfl
@[simp] theorem reservePlace_talkback (i : Fin 32) : (reservePlace i s).talkback = s.talkback := rfl
@[simp] theorem reservePlace_outputs (i : Fin 32) : (reservePlace i s).outputs = s.outputs := rfl
@[simp] theorem reservePlace_triggers (i : Fin 32) : (reservePlace i s).triggers = s.triggers := rfl

/-! #### setPlayback -/

@[simp] theorem setPlayback_control (p : Fin 8) (x : Playback) : (setPlayback p x s).control = s.control := rfl
@[simp] theorem setPlayback_anchorReg (p : Fin 8) (x : Playback) : (setPlayback p x s).anchorReg = s.anchorReg := rfl
@[simp] theorem setPlayback_intStatus (p : Fin 8) (x : Playback) : (setPlayback p x s).intStatus = s.intStatus := rfl
@[simp] theorem setPlayback_intMask (p : Fin 8) (x : Playback) : (setPlayback p x s).intMask = s.intMask := rfl
@[simp] theorem setPlayback_engine (p : Fin 8) (x : Playback) : (setPlayback p x s).engine = s.engine := rfl
@[simp] theorem setPlayback_anchor (p : Fin 8) (x : Playback) : (setPlayback p x s).anchor = s.anchor := rfl
@[simp] theorem setPlayback_time (p : Fin 8) (x : Playback) : (setPlayback p x s).time = s.time := rfl
@[simp] theorem setPlayback_port (p : Fin 8) (x : Playback) : (setPlayback p x s).port = s.port := rfl
@[simp] theorem setPlayback_mem (p : Fin 8) (x : Playback) : (setPlayback p x s).mem = s.mem := rfl
@[simp] theorem setPlayback_scanner (p : Fin 8) (x : Playback) : (setPlayback p x s).scanner = s.scanner := rfl
@[simp] theorem setPlayback_results (p : Fin 8) (x : Playback) : (setPlayback p x s).results = s.results := rfl
@[simp] theorem setPlayback_status (p : Fin 8) (x : Playback) : (setPlayback p x s).status = s.status := rfl
@[simp] theorem setPlayback_playbacks (p : Fin 8) (x : Playback) : (setPlayback p x s).playbacks = setAt s.playbacks p x := rfl
@[simp] theorem setPlayback_superseded (p : Fin 8) (x : Playback) : (setPlayback p x s).superseded = s.superseded := rfl
@[simp] theorem setPlayback_loader (p : Fin 8) (x : Playback) : (setPlayback p x s).loader = s.loader := rfl
@[simp] theorem setPlayback_tables (p : Fin 8) (x : Playback) : (setPlayback p x s).tables = s.tables := rfl
@[simp] theorem setPlayback_mixer (p : Fin 8) (x : Playback) : (setPlayback p x s).mixer = s.mixer := rfl
@[simp] theorem setPlayback_store (p : Fin 8) (x : Playback) : (setPlayback p x s).store = s.store := rfl
@[simp] theorem setPlayback_lines (p : Fin 8) (x : Playback) : (setPlayback p x s).lines = s.lines := rfl
@[simp] theorem setPlayback_talkback (p : Fin 8) (x : Playback) : (setPlayback p x s).talkback = s.talkback := rfl
@[simp] theorem setPlayback_outputs (p : Fin 8) (x : Playback) : (setPlayback p x s).outputs = s.outputs := rfl
@[simp] theorem setPlayback_triggers (p : Fin 8) (x : Playback) : (setPlayback p x s).triggers = s.triggers := rfl

/-! #### modPlayback -/

@[simp] theorem modPlayback_control (p : Fin 8) (f : Playback → Playback) : (modPlayback p f s).control = s.control := rfl
@[simp] theorem modPlayback_anchorReg (p : Fin 8) (f : Playback → Playback) : (modPlayback p f s).anchorReg = s.anchorReg := rfl
@[simp] theorem modPlayback_intStatus (p : Fin 8) (f : Playback → Playback) : (modPlayback p f s).intStatus = s.intStatus := rfl
@[simp] theorem modPlayback_intMask (p : Fin 8) (f : Playback → Playback) : (modPlayback p f s).intMask = s.intMask := rfl
@[simp] theorem modPlayback_engine (p : Fin 8) (f : Playback → Playback) : (modPlayback p f s).engine = s.engine := rfl
@[simp] theorem modPlayback_anchor (p : Fin 8) (f : Playback → Playback) : (modPlayback p f s).anchor = s.anchor := rfl
@[simp] theorem modPlayback_time (p : Fin 8) (f : Playback → Playback) : (modPlayback p f s).time = s.time := rfl
@[simp] theorem modPlayback_port (p : Fin 8) (f : Playback → Playback) : (modPlayback p f s).port = s.port := rfl
@[simp] theorem modPlayback_mem (p : Fin 8) (f : Playback → Playback) : (modPlayback p f s).mem = s.mem := rfl
@[simp] theorem modPlayback_scanner (p : Fin 8) (f : Playback → Playback) : (modPlayback p f s).scanner = s.scanner := rfl
@[simp] theorem modPlayback_results (p : Fin 8) (f : Playback → Playback) : (modPlayback p f s).results = s.results := rfl
@[simp] theorem modPlayback_status (p : Fin 8) (f : Playback → Playback) : (modPlayback p f s).status = s.status := rfl
@[simp] theorem modPlayback_playbacks (p : Fin 8) (f : Playback → Playback) : (modPlayback p f s).playbacks = modAt s.playbacks p f := rfl
@[simp] theorem modPlayback_superseded (p : Fin 8) (f : Playback → Playback) : (modPlayback p f s).superseded = s.superseded := rfl
@[simp] theorem modPlayback_loader (p : Fin 8) (f : Playback → Playback) : (modPlayback p f s).loader = s.loader := rfl
@[simp] theorem modPlayback_tables (p : Fin 8) (f : Playback → Playback) : (modPlayback p f s).tables = s.tables := rfl
@[simp] theorem modPlayback_mixer (p : Fin 8) (f : Playback → Playback) : (modPlayback p f s).mixer = s.mixer := rfl
@[simp] theorem modPlayback_store (p : Fin 8) (f : Playback → Playback) : (modPlayback p f s).store = s.store := rfl
@[simp] theorem modPlayback_lines (p : Fin 8) (f : Playback → Playback) : (modPlayback p f s).lines = s.lines := rfl
@[simp] theorem modPlayback_talkback (p : Fin 8) (f : Playback → Playback) : (modPlayback p f s).talkback = s.talkback := rfl
@[simp] theorem modPlayback_outputs (p : Fin 8) (f : Playback → Playback) : (modPlayback p f s).outputs = s.outputs := rfl
@[simp] theorem modPlayback_triggers (p : Fin 8) (f : Playback → Playback) : (modPlayback p f s).triggers = s.triggers := rfl

/-! #### modLine -/

@[simp] theorem modLine_control (l : Fin 4) (f : Line → Line) : (modLine l f s).control = s.control := rfl
@[simp] theorem modLine_anchorReg (l : Fin 4) (f : Line → Line) : (modLine l f s).anchorReg = s.anchorReg := rfl
@[simp] theorem modLine_intStatus (l : Fin 4) (f : Line → Line) : (modLine l f s).intStatus = s.intStatus := rfl
@[simp] theorem modLine_intMask (l : Fin 4) (f : Line → Line) : (modLine l f s).intMask = s.intMask := rfl
@[simp] theorem modLine_engine (l : Fin 4) (f : Line → Line) : (modLine l f s).engine = s.engine := rfl
@[simp] theorem modLine_anchor (l : Fin 4) (f : Line → Line) : (modLine l f s).anchor = s.anchor := rfl
@[simp] theorem modLine_time (l : Fin 4) (f : Line → Line) : (modLine l f s).time = s.time := rfl
@[simp] theorem modLine_port (l : Fin 4) (f : Line → Line) : (modLine l f s).port = s.port := rfl
@[simp] theorem modLine_mem (l : Fin 4) (f : Line → Line) : (modLine l f s).mem = s.mem := rfl
@[simp] theorem modLine_scanner (l : Fin 4) (f : Line → Line) : (modLine l f s).scanner = s.scanner := rfl
@[simp] theorem modLine_results (l : Fin 4) (f : Line → Line) : (modLine l f s).results = s.results := rfl
@[simp] theorem modLine_status (l : Fin 4) (f : Line → Line) : (modLine l f s).status = s.status := rfl
@[simp] theorem modLine_playbacks (l : Fin 4) (f : Line → Line) : (modLine l f s).playbacks = s.playbacks := rfl
@[simp] theorem modLine_superseded (l : Fin 4) (f : Line → Line) : (modLine l f s).superseded = s.superseded := rfl
@[simp] theorem modLine_loader (l : Fin 4) (f : Line → Line) : (modLine l f s).loader = s.loader := rfl
@[simp] theorem modLine_tables (l : Fin 4) (f : Line → Line) : (modLine l f s).tables = s.tables := rfl
@[simp] theorem modLine_mixer (l : Fin 4) (f : Line → Line) : (modLine l f s).mixer = s.mixer := rfl
@[simp] theorem modLine_store (l : Fin 4) (f : Line → Line) : (modLine l f s).store = s.store := rfl
@[simp] theorem modLine_lines (l : Fin 4) (f : Line → Line) : (modLine l f s).lines = modAt s.lines l f := rfl
@[simp] theorem modLine_talkback (l : Fin 4) (f : Line → Line) : (modLine l f s).talkback = s.talkback := rfl
@[simp] theorem modLine_outputs (l : Fin 4) (f : Line → Line) : (modLine l f s).outputs = s.outputs := rfl
@[simp] theorem modLine_triggers (l : Fin 4) (f : Line → Line) : (modLine l f s).triggers = s.triggers := rfl

/-! #### modTrigger -/

@[simp] theorem modTrigger_control (t : Fin 8) (f : Trigger → Trigger) : (modTrigger t f s).control = s.control := rfl
@[simp] theorem modTrigger_anchorReg (t : Fin 8) (f : Trigger → Trigger) : (modTrigger t f s).anchorReg = s.anchorReg := rfl
@[simp] theorem modTrigger_intStatus (t : Fin 8) (f : Trigger → Trigger) : (modTrigger t f s).intStatus = s.intStatus := rfl
@[simp] theorem modTrigger_intMask (t : Fin 8) (f : Trigger → Trigger) : (modTrigger t f s).intMask = s.intMask := rfl
@[simp] theorem modTrigger_engine (t : Fin 8) (f : Trigger → Trigger) : (modTrigger t f s).engine = s.engine := rfl
@[simp] theorem modTrigger_anchor (t : Fin 8) (f : Trigger → Trigger) : (modTrigger t f s).anchor = s.anchor := rfl
@[simp] theorem modTrigger_time (t : Fin 8) (f : Trigger → Trigger) : (modTrigger t f s).time = s.time := rfl
@[simp] theorem modTrigger_port (t : Fin 8) (f : Trigger → Trigger) : (modTrigger t f s).port = s.port := rfl
@[simp] theorem modTrigger_mem (t : Fin 8) (f : Trigger → Trigger) : (modTrigger t f s).mem = s.mem := rfl
@[simp] theorem modTrigger_scanner (t : Fin 8) (f : Trigger → Trigger) : (modTrigger t f s).scanner = s.scanner := rfl
@[simp] theorem modTrigger_results (t : Fin 8) (f : Trigger → Trigger) : (modTrigger t f s).results = s.results := rfl
@[simp] theorem modTrigger_status (t : Fin 8) (f : Trigger → Trigger) : (modTrigger t f s).status = s.status := rfl
@[simp] theorem modTrigger_playbacks (t : Fin 8) (f : Trigger → Trigger) : (modTrigger t f s).playbacks = s.playbacks := rfl
@[simp] theorem modTrigger_superseded (t : Fin 8) (f : Trigger → Trigger) : (modTrigger t f s).superseded = s.superseded := rfl
@[simp] theorem modTrigger_loader (t : Fin 8) (f : Trigger → Trigger) : (modTrigger t f s).loader = s.loader := rfl
@[simp] theorem modTrigger_tables (t : Fin 8) (f : Trigger → Trigger) : (modTrigger t f s).tables = s.tables := rfl
@[simp] theorem modTrigger_mixer (t : Fin 8) (f : Trigger → Trigger) : (modTrigger t f s).mixer = s.mixer := rfl
@[simp] theorem modTrigger_store (t : Fin 8) (f : Trigger → Trigger) : (modTrigger t f s).store = s.store := rfl
@[simp] theorem modTrigger_lines (t : Fin 8) (f : Trigger → Trigger) : (modTrigger t f s).lines = s.lines := rfl
@[simp] theorem modTrigger_talkback (t : Fin 8) (f : Trigger → Trigger) : (modTrigger t f s).talkback = s.talkback := rfl
@[simp] theorem modTrigger_outputs (t : Fin 8) (f : Trigger → Trigger) : (modTrigger t f s).outputs = s.outputs := rfl
@[simp] theorem modTrigger_triggers (t : Fin 8) (f : Trigger → Trigger) : (modTrigger t f s).triggers = modAt s.triggers t f := rfl

/-! #### setCurrent -/

@[simp] theorem setCurrent_control (c : CurrentLoad) : (setCurrent c s).control = s.control := rfl
@[simp] theorem setCurrent_anchorReg (c : CurrentLoad) : (setCurrent c s).anchorReg = s.anchorReg := rfl
@[simp] theorem setCurrent_intStatus (c : CurrentLoad) : (setCurrent c s).intStatus = s.intStatus := rfl
@[simp] theorem setCurrent_intMask (c : CurrentLoad) : (setCurrent c s).intMask = s.intMask := rfl
@[simp] theorem setCurrent_engine (c : CurrentLoad) : (setCurrent c s).engine = s.engine := rfl
@[simp] theorem setCurrent_anchor (c : CurrentLoad) : (setCurrent c s).anchor = s.anchor := rfl
@[simp] theorem setCurrent_time (c : CurrentLoad) : (setCurrent c s).time = s.time := rfl
@[simp] theorem setCurrent_port (c : CurrentLoad) : (setCurrent c s).port = s.port := rfl
@[simp] theorem setCurrent_mem (c : CurrentLoad) : (setCurrent c s).mem = s.mem := rfl
@[simp] theorem setCurrent_scanner (c : CurrentLoad) : (setCurrent c s).scanner = s.scanner := rfl
@[simp] theorem setCurrent_results (c : CurrentLoad) : (setCurrent c s).results = s.results := rfl
@[simp] theorem setCurrent_status (c : CurrentLoad) : (setCurrent c s).status = s.status := rfl
@[simp] theorem setCurrent_playbacks (c : CurrentLoad) : (setCurrent c s).playbacks = s.playbacks := rfl
@[simp] theorem setCurrent_superseded (c : CurrentLoad) : (setCurrent c s).superseded = s.superseded := rfl
@[simp] theorem setCurrent_loader (c : CurrentLoad) : (setCurrent c s).loader = { s.loader with current := some c } := rfl
@[simp] theorem setCurrent_tables (c : CurrentLoad) : (setCurrent c s).tables = s.tables := rfl
@[simp] theorem setCurrent_mixer (c : CurrentLoad) : (setCurrent c s).mixer = s.mixer := rfl
@[simp] theorem setCurrent_store (c : CurrentLoad) : (setCurrent c s).store = s.store := rfl
@[simp] theorem setCurrent_lines (c : CurrentLoad) : (setCurrent c s).lines = s.lines := rfl
@[simp] theorem setCurrent_talkback (c : CurrentLoad) : (setCurrent c s).talkback = s.talkback := rfl
@[simp] theorem setCurrent_outputs (c : CurrentLoad) : (setCurrent c s).outputs = s.outputs := rfl
@[simp] theorem setCurrent_triggers (c : CurrentLoad) : (setCurrent c s).triggers = s.triggers := rfl

/-! #### countStuck -/

@[simp] theorem countStuck_control : (countStuck s).control = s.control := rfl
@[simp] theorem countStuck_anchorReg : (countStuck s).anchorReg = s.anchorReg := rfl
@[simp] theorem countStuck_intStatus : (countStuck s).intStatus = s.intStatus := rfl
@[simp] theorem countStuck_intMask : (countStuck s).intMask = s.intMask := rfl
@[simp] theorem countStuck_engine : (countStuck s).engine = s.engine := rfl
@[simp] theorem countStuck_anchor : (countStuck s).anchor = s.anchor := rfl
@[simp] theorem countStuck_time : (countStuck s).time = s.time := rfl
@[simp] theorem countStuck_port : (countStuck s).port = s.port := rfl
@[simp] theorem countStuck_mem : (countStuck s).mem = s.mem := rfl
@[simp] theorem countStuck_scanner : (countStuck s).scanner = s.scanner := rfl
@[simp] theorem countStuck_results : (countStuck s).results = s.results := rfl
@[simp] theorem countStuck_status : (countStuck s).status = s.status := rfl
@[simp] theorem countStuck_playbacks : (countStuck s).playbacks = s.playbacks := rfl
@[simp] theorem countStuck_superseded : (countStuck s).superseded = s.superseded := rfl
@[simp] theorem countStuck_loader : (countStuck s).loader = { s.loader with stuck := countUp s.loader.stuck } := rfl
@[simp] theorem countStuck_tables : (countStuck s).tables = s.tables := rfl
@[simp] theorem countStuck_mixer : (countStuck s).mixer = s.mixer := rfl
@[simp] theorem countStuck_store : (countStuck s).store = s.store := rfl
@[simp] theorem countStuck_lines : (countStuck s).lines = s.lines := rfl
@[simp] theorem countStuck_talkback : (countStuck s).talkback = s.talkback := rfl
@[simp] theorem countStuck_outputs : (countStuck s).outputs = s.outputs := rfl
@[simp] theorem countStuck_triggers : (countStuck s).triggers = s.triggers := rfl

/-! #### countSweep -/

@[simp] theorem countSweep_control : (countSweep s).control = s.control := rfl
@[simp] theorem countSweep_anchorReg : (countSweep s).anchorReg = s.anchorReg := rfl
@[simp] theorem countSweep_intStatus : (countSweep s).intStatus = s.intStatus := rfl
@[simp] theorem countSweep_intMask : (countSweep s).intMask = s.intMask := rfl
@[simp] theorem countSweep_engine : (countSweep s).engine = s.engine := rfl
@[simp] theorem countSweep_anchor : (countSweep s).anchor = s.anchor := rfl
@[simp] theorem countSweep_time : (countSweep s).time = s.time := rfl
@[simp] theorem countSweep_port : (countSweep s).port = s.port := rfl
@[simp] theorem countSweep_mem : (countSweep s).mem = s.mem := rfl
@[simp] theorem countSweep_scanner : (countSweep s).scanner = s.scanner := rfl
@[simp] theorem countSweep_results : (countSweep s).results = s.results := rfl
@[simp] theorem countSweep_status : (countSweep s).status = s.status := rfl
@[simp] theorem countSweep_playbacks : (countSweep s).playbacks = s.playbacks := rfl
@[simp] theorem countSweep_superseded : (countSweep s).superseded = s.superseded := rfl
@[simp] theorem countSweep_loader : (countSweep s).loader = { s.loader with sweeps := countUp s.loader.sweeps } := rfl
@[simp] theorem countSweep_tables : (countSweep s).tables = s.tables := rfl
@[simp] theorem countSweep_mixer : (countSweep s).mixer = s.mixer := rfl
@[simp] theorem countSweep_store : (countSweep s).store = s.store := rfl
@[simp] theorem countSweep_lines : (countSweep s).lines = s.lines := rfl
@[simp] theorem countSweep_talkback : (countSweep s).talkback = s.talkback := rfl
@[simp] theorem countSweep_outputs : (countSweep s).outputs = s.outputs := rfl
@[simp] theorem countSweep_triggers : (countSweep s).triggers = s.triggers := rfl

/-! #### setStaging -/

@[simp] theorem setStaging_control (x : Staging) : (setStaging x s).control = s.control := rfl
@[simp] theorem setStaging_anchorReg (x : Staging) : (setStaging x s).anchorReg = s.anchorReg := rfl
@[simp] theorem setStaging_intStatus (x : Staging) : (setStaging x s).intStatus = s.intStatus := rfl
@[simp] theorem setStaging_intMask (x : Staging) : (setStaging x s).intMask = s.intMask := rfl
@[simp] theorem setStaging_engine (x : Staging) : (setStaging x s).engine = s.engine := rfl
@[simp] theorem setStaging_anchor (x : Staging) : (setStaging x s).anchor = s.anchor := rfl
@[simp] theorem setStaging_time (x : Staging) : (setStaging x s).time = s.time := rfl
@[simp] theorem setStaging_port (x : Staging) : (setStaging x s).port = s.port := rfl
@[simp] theorem setStaging_mem (x : Staging) : (setStaging x s).mem = s.mem := rfl
@[simp] theorem setStaging_scanner (x : Staging) : (setStaging x s).scanner = s.scanner := rfl
@[simp] theorem setStaging_results (x : Staging) : (setStaging x s).results = s.results := rfl
@[simp] theorem setStaging_status (x : Staging) : (setStaging x s).status = s.status := rfl
@[simp] theorem setStaging_playbacks (x : Staging) : (setStaging x s).playbacks = s.playbacks := rfl
@[simp] theorem setStaging_superseded (x : Staging) : (setStaging x s).superseded = s.superseded := rfl
@[simp] theorem setStaging_loader (x : Staging) : (setStaging x s).loader = s.loader := rfl
@[simp] theorem setStaging_tables (x : Staging) : (setStaging x s).tables = { s.tables with staging := x } := rfl
@[simp] theorem setStaging_mixer (x : Staging) : (setStaging x s).mixer = s.mixer := rfl
@[simp] theorem setStaging_store (x : Staging) : (setStaging x s).store = s.store := rfl
@[simp] theorem setStaging_lines (x : Staging) : (setStaging x s).lines = s.lines := rfl
@[simp] theorem setStaging_talkback (x : Staging) : (setStaging x s).talkback = s.talkback := rfl
@[simp] theorem setStaging_outputs (x : Staging) : (setStaging x s).outputs = s.outputs := rfl
@[simp] theorem setStaging_triggers (x : Staging) : (setStaging x s).triggers = s.triggers := rfl

/-! #### setShadow -/

@[simp] theorem setShadow_control (k : Fin 7) (x : Shadow) : (setShadow k x s).control = s.control := rfl
@[simp] theorem setShadow_anchorReg (k : Fin 7) (x : Shadow) : (setShadow k x s).anchorReg = s.anchorReg := rfl
@[simp] theorem setShadow_intStatus (k : Fin 7) (x : Shadow) : (setShadow k x s).intStatus = s.intStatus := rfl
@[simp] theorem setShadow_intMask (k : Fin 7) (x : Shadow) : (setShadow k x s).intMask = s.intMask := rfl
@[simp] theorem setShadow_engine (k : Fin 7) (x : Shadow) : (setShadow k x s).engine = s.engine := rfl
@[simp] theorem setShadow_anchor (k : Fin 7) (x : Shadow) : (setShadow k x s).anchor = s.anchor := rfl
@[simp] theorem setShadow_time (k : Fin 7) (x : Shadow) : (setShadow k x s).time = s.time := rfl
@[simp] theorem setShadow_port (k : Fin 7) (x : Shadow) : (setShadow k x s).port = s.port := rfl
@[simp] theorem setShadow_mem (k : Fin 7) (x : Shadow) : (setShadow k x s).mem = s.mem := rfl
@[simp] theorem setShadow_scanner (k : Fin 7) (x : Shadow) : (setShadow k x s).scanner = s.scanner := rfl
@[simp] theorem setShadow_results (k : Fin 7) (x : Shadow) : (setShadow k x s).results = s.results := rfl
@[simp] theorem setShadow_status (k : Fin 7) (x : Shadow) : (setShadow k x s).status = s.status := rfl
@[simp] theorem setShadow_playbacks (k : Fin 7) (x : Shadow) : (setShadow k x s).playbacks = s.playbacks := rfl
@[simp] theorem setShadow_superseded (k : Fin 7) (x : Shadow) : (setShadow k x s).superseded = s.superseded := rfl
@[simp] theorem setShadow_loader (k : Fin 7) (x : Shadow) : (setShadow k x s).loader = s.loader := rfl
@[simp] theorem setShadow_tables (k : Fin 7) (x : Shadow) : (setShadow k x s).tables = { s.tables with shadows := setAt s.tables.shadows k x } := rfl
@[simp] theorem setShadow_mixer (k : Fin 7) (x : Shadow) : (setShadow k x s).mixer = s.mixer := rfl
@[simp] theorem setShadow_store (k : Fin 7) (x : Shadow) : (setShadow k x s).store = s.store := rfl
@[simp] theorem setShadow_lines (k : Fin 7) (x : Shadow) : (setShadow k x s).lines = s.lines := rfl
@[simp] theorem setShadow_talkback (k : Fin 7) (x : Shadow) : (setShadow k x s).talkback = s.talkback := rfl
@[simp] theorem setShadow_outputs (k : Fin 7) (x : Shadow) : (setShadow k x s).outputs = s.outputs := rfl
@[simp] theorem setShadow_triggers (k : Fin 7) (x : Shadow) : (setShadow k x s).triggers = s.triggers := rfl

/-! #### modStatus -/

@[simp] theorem modStatus_control (f : StatusWriter → StatusWriter) : (modStatus f s).control = s.control := rfl
@[simp] theorem modStatus_anchorReg (f : StatusWriter → StatusWriter) : (modStatus f s).anchorReg = s.anchorReg := rfl
@[simp] theorem modStatus_intStatus (f : StatusWriter → StatusWriter) : (modStatus f s).intStatus = s.intStatus := rfl
@[simp] theorem modStatus_intMask (f : StatusWriter → StatusWriter) : (modStatus f s).intMask = s.intMask := rfl
@[simp] theorem modStatus_engine (f : StatusWriter → StatusWriter) : (modStatus f s).engine = s.engine := rfl
@[simp] theorem modStatus_anchor (f : StatusWriter → StatusWriter) : (modStatus f s).anchor = s.anchor := rfl
@[simp] theorem modStatus_time (f : StatusWriter → StatusWriter) : (modStatus f s).time = s.time := rfl
@[simp] theorem modStatus_port (f : StatusWriter → StatusWriter) : (modStatus f s).port = s.port := rfl
@[simp] theorem modStatus_mem (f : StatusWriter → StatusWriter) : (modStatus f s).mem = s.mem := rfl
@[simp] theorem modStatus_scanner (f : StatusWriter → StatusWriter) : (modStatus f s).scanner = s.scanner := rfl
@[simp] theorem modStatus_results (f : StatusWriter → StatusWriter) : (modStatus f s).results = s.results := rfl
@[simp] theorem modStatus_status (f : StatusWriter → StatusWriter) : (modStatus f s).status = f s.status := rfl
@[simp] theorem modStatus_playbacks (f : StatusWriter → StatusWriter) : (modStatus f s).playbacks = s.playbacks := rfl
@[simp] theorem modStatus_superseded (f : StatusWriter → StatusWriter) : (modStatus f s).superseded = s.superseded := rfl
@[simp] theorem modStatus_loader (f : StatusWriter → StatusWriter) : (modStatus f s).loader = s.loader := rfl
@[simp] theorem modStatus_tables (f : StatusWriter → StatusWriter) : (modStatus f s).tables = s.tables := rfl
@[simp] theorem modStatus_mixer (f : StatusWriter → StatusWriter) : (modStatus f s).mixer = s.mixer := rfl
@[simp] theorem modStatus_store (f : StatusWriter → StatusWriter) : (modStatus f s).store = s.store := rfl
@[simp] theorem modStatus_lines (f : StatusWriter → StatusWriter) : (modStatus f s).lines = s.lines := rfl
@[simp] theorem modStatus_talkback (f : StatusWriter → StatusWriter) : (modStatus f s).talkback = s.talkback := rfl
@[simp] theorem modStatus_outputs (f : StatusWriter → StatusWriter) : (modStatus f s).outputs = s.outputs := rfl
@[simp] theorem modStatus_triggers (f : StatusWriter → StatusWriter) : (modStatus f s).triggers = s.triggers := rfl

/-! #### modMixer -/

@[simp] theorem modMixer_control (f : Mixer → Mixer) : (modMixer f s).control = s.control := rfl
@[simp] theorem modMixer_anchorReg (f : Mixer → Mixer) : (modMixer f s).anchorReg = s.anchorReg := rfl
@[simp] theorem modMixer_intStatus (f : Mixer → Mixer) : (modMixer f s).intStatus = s.intStatus := rfl
@[simp] theorem modMixer_intMask (f : Mixer → Mixer) : (modMixer f s).intMask = s.intMask := rfl
@[simp] theorem modMixer_engine (f : Mixer → Mixer) : (modMixer f s).engine = s.engine := rfl
@[simp] theorem modMixer_anchor (f : Mixer → Mixer) : (modMixer f s).anchor = s.anchor := rfl
@[simp] theorem modMixer_time (f : Mixer → Mixer) : (modMixer f s).time = s.time := rfl
@[simp] theorem modMixer_port (f : Mixer → Mixer) : (modMixer f s).port = s.port := rfl
@[simp] theorem modMixer_mem (f : Mixer → Mixer) : (modMixer f s).mem = s.mem := rfl
@[simp] theorem modMixer_scanner (f : Mixer → Mixer) : (modMixer f s).scanner = s.scanner := rfl
@[simp] theorem modMixer_results (f : Mixer → Mixer) : (modMixer f s).results = s.results := rfl
@[simp] theorem modMixer_status (f : Mixer → Mixer) : (modMixer f s).status = s.status := rfl
@[simp] theorem modMixer_playbacks (f : Mixer → Mixer) : (modMixer f s).playbacks = s.playbacks := rfl
@[simp] theorem modMixer_superseded (f : Mixer → Mixer) : (modMixer f s).superseded = s.superseded := rfl
@[simp] theorem modMixer_loader (f : Mixer → Mixer) : (modMixer f s).loader = s.loader := rfl
@[simp] theorem modMixer_tables (f : Mixer → Mixer) : (modMixer f s).tables = s.tables := rfl
@[simp] theorem modMixer_mixer (f : Mixer → Mixer) : (modMixer f s).mixer = f s.mixer := rfl
@[simp] theorem modMixer_store (f : Mixer → Mixer) : (modMixer f s).store = s.store := rfl
@[simp] theorem modMixer_lines (f : Mixer → Mixer) : (modMixer f s).lines = s.lines := rfl
@[simp] theorem modMixer_talkback (f : Mixer → Mixer) : (modMixer f s).talkback = s.talkback := rfl
@[simp] theorem modMixer_outputs (f : Mixer → Mixer) : (modMixer f s).outputs = s.outputs := rfl
@[simp] theorem modMixer_triggers (f : Mixer → Mixer) : (modMixer f s).triggers = s.triggers := rfl

/-! #### modStore -/

@[simp] theorem modStore_control (f : FrameStore → FrameStore) : (modStore f s).control = s.control := rfl
@[simp] theorem modStore_anchorReg (f : FrameStore → FrameStore) : (modStore f s).anchorReg = s.anchorReg := rfl
@[simp] theorem modStore_intStatus (f : FrameStore → FrameStore) : (modStore f s).intStatus = s.intStatus := rfl
@[simp] theorem modStore_intMask (f : FrameStore → FrameStore) : (modStore f s).intMask = s.intMask := rfl
@[simp] theorem modStore_engine (f : FrameStore → FrameStore) : (modStore f s).engine = s.engine := rfl
@[simp] theorem modStore_anchor (f : FrameStore → FrameStore) : (modStore f s).anchor = s.anchor := rfl
@[simp] theorem modStore_time (f : FrameStore → FrameStore) : (modStore f s).time = s.time := rfl
@[simp] theorem modStore_port (f : FrameStore → FrameStore) : (modStore f s).port = s.port := rfl
@[simp] theorem modStore_mem (f : FrameStore → FrameStore) : (modStore f s).mem = s.mem := rfl
@[simp] theorem modStore_scanner (f : FrameStore → FrameStore) : (modStore f s).scanner = s.scanner := rfl
@[simp] theorem modStore_results (f : FrameStore → FrameStore) : (modStore f s).results = s.results := rfl
@[simp] theorem modStore_status (f : FrameStore → FrameStore) : (modStore f s).status = s.status := rfl
@[simp] theorem modStore_playbacks (f : FrameStore → FrameStore) : (modStore f s).playbacks = s.playbacks := rfl
@[simp] theorem modStore_superseded (f : FrameStore → FrameStore) : (modStore f s).superseded = s.superseded := rfl
@[simp] theorem modStore_loader (f : FrameStore → FrameStore) : (modStore f s).loader = s.loader := rfl
@[simp] theorem modStore_tables (f : FrameStore → FrameStore) : (modStore f s).tables = s.tables := rfl
@[simp] theorem modStore_mixer (f : FrameStore → FrameStore) : (modStore f s).mixer = s.mixer := rfl
@[simp] theorem modStore_store (f : FrameStore → FrameStore) : (modStore f s).store = f s.store := rfl
@[simp] theorem modStore_lines (f : FrameStore → FrameStore) : (modStore f s).lines = s.lines := rfl
@[simp] theorem modStore_talkback (f : FrameStore → FrameStore) : (modStore f s).talkback = s.talkback := rfl
@[simp] theorem modStore_outputs (f : FrameStore → FrameStore) : (modStore f s).outputs = s.outputs := rfl
@[simp] theorem modStore_triggers (f : FrameStore → FrameStore) : (modStore f s).triggers = s.triggers := rfl

/-! #### modTime -/

@[simp] theorem modTime_control (f : TimeBase → TimeBase) : (modTime f s).control = s.control := rfl
@[simp] theorem modTime_anchorReg (f : TimeBase → TimeBase) : (modTime f s).anchorReg = s.anchorReg := rfl
@[simp] theorem modTime_intStatus (f : TimeBase → TimeBase) : (modTime f s).intStatus = s.intStatus := rfl
@[simp] theorem modTime_intMask (f : TimeBase → TimeBase) : (modTime f s).intMask = s.intMask := rfl
@[simp] theorem modTime_engine (f : TimeBase → TimeBase) : (modTime f s).engine = s.engine := rfl
@[simp] theorem modTime_anchor (f : TimeBase → TimeBase) : (modTime f s).anchor = s.anchor := rfl
@[simp] theorem modTime_time (f : TimeBase → TimeBase) : (modTime f s).time = f s.time := rfl
@[simp] theorem modTime_port (f : TimeBase → TimeBase) : (modTime f s).port = s.port := rfl
@[simp] theorem modTime_mem (f : TimeBase → TimeBase) : (modTime f s).mem = s.mem := rfl
@[simp] theorem modTime_scanner (f : TimeBase → TimeBase) : (modTime f s).scanner = s.scanner := rfl
@[simp] theorem modTime_results (f : TimeBase → TimeBase) : (modTime f s).results = s.results := rfl
@[simp] theorem modTime_status (f : TimeBase → TimeBase) : (modTime f s).status = s.status := rfl
@[simp] theorem modTime_playbacks (f : TimeBase → TimeBase) : (modTime f s).playbacks = s.playbacks := rfl
@[simp] theorem modTime_superseded (f : TimeBase → TimeBase) : (modTime f s).superseded = s.superseded := rfl
@[simp] theorem modTime_loader (f : TimeBase → TimeBase) : (modTime f s).loader = s.loader := rfl
@[simp] theorem modTime_tables (f : TimeBase → TimeBase) : (modTime f s).tables = s.tables := rfl
@[simp] theorem modTime_mixer (f : TimeBase → TimeBase) : (modTime f s).mixer = s.mixer := rfl
@[simp] theorem modTime_store (f : TimeBase → TimeBase) : (modTime f s).store = s.store := rfl
@[simp] theorem modTime_lines (f : TimeBase → TimeBase) : (modTime f s).lines = s.lines := rfl
@[simp] theorem modTime_talkback (f : TimeBase → TimeBase) : (modTime f s).talkback = s.talkback := rfl
@[simp] theorem modTime_outputs (f : TimeBase → TimeBase) : (modTime f s).outputs = s.outputs := rfl
@[simp] theorem modTime_triggers (f : TimeBase → TimeBase) : (modTime f s).triggers = s.triggers := rfl

/-! #### modScanner -/

@[simp] theorem modScanner_control (f : Scanner → Scanner) : (modScanner f s).control = s.control := rfl
@[simp] theorem modScanner_anchorReg (f : Scanner → Scanner) : (modScanner f s).anchorReg = s.anchorReg := rfl
@[simp] theorem modScanner_intStatus (f : Scanner → Scanner) : (modScanner f s).intStatus = s.intStatus := rfl
@[simp] theorem modScanner_intMask (f : Scanner → Scanner) : (modScanner f s).intMask = s.intMask := rfl
@[simp] theorem modScanner_engine (f : Scanner → Scanner) : (modScanner f s).engine = s.engine := rfl
@[simp] theorem modScanner_anchor (f : Scanner → Scanner) : (modScanner f s).anchor = s.anchor := rfl
@[simp] theorem modScanner_time (f : Scanner → Scanner) : (modScanner f s).time = s.time := rfl
@[simp] theorem modScanner_port (f : Scanner → Scanner) : (modScanner f s).port = s.port := rfl
@[simp] theorem modScanner_mem (f : Scanner → Scanner) : (modScanner f s).mem = s.mem := rfl
@[simp] theorem modScanner_scanner (f : Scanner → Scanner) : (modScanner f s).scanner = f s.scanner := rfl
@[simp] theorem modScanner_results (f : Scanner → Scanner) : (modScanner f s).results = s.results := rfl
@[simp] theorem modScanner_status (f : Scanner → Scanner) : (modScanner f s).status = s.status := rfl
@[simp] theorem modScanner_playbacks (f : Scanner → Scanner) : (modScanner f s).playbacks = s.playbacks := rfl
@[simp] theorem modScanner_superseded (f : Scanner → Scanner) : (modScanner f s).superseded = s.superseded := rfl
@[simp] theorem modScanner_loader (f : Scanner → Scanner) : (modScanner f s).loader = s.loader := rfl
@[simp] theorem modScanner_tables (f : Scanner → Scanner) : (modScanner f s).tables = s.tables := rfl
@[simp] theorem modScanner_mixer (f : Scanner → Scanner) : (modScanner f s).mixer = s.mixer := rfl
@[simp] theorem modScanner_store (f : Scanner → Scanner) : (modScanner f s).store = s.store := rfl
@[simp] theorem modScanner_lines (f : Scanner → Scanner) : (modScanner f s).lines = s.lines := rfl
@[simp] theorem modScanner_talkback (f : Scanner → Scanner) : (modScanner f s).talkback = s.talkback := rfl
@[simp] theorem modScanner_outputs (f : Scanner → Scanner) : (modScanner f s).outputs = s.outputs := rfl
@[simp] theorem modScanner_triggers (f : Scanner → Scanner) : (modScanner f s).triggers = s.triggers := rfl

/-! #### setWriter -/

@[simp] theorem setWriter_control (w : WriterStep) : (setWriter w s).control = s.control := rfl
@[simp] theorem setWriter_anchorReg (w : WriterStep) : (setWriter w s).anchorReg = s.anchorReg := rfl
@[simp] theorem setWriter_intStatus (w : WriterStep) : (setWriter w s).intStatus = s.intStatus := rfl
@[simp] theorem setWriter_intMask (w : WriterStep) : (setWriter w s).intMask = s.intMask := rfl
@[simp] theorem setWriter_engine (w : WriterStep) : (setWriter w s).engine = s.engine := rfl
@[simp] theorem setWriter_anchor (w : WriterStep) : (setWriter w s).anchor = s.anchor := rfl
@[simp] theorem setWriter_time (w : WriterStep) : (setWriter w s).time = s.time := rfl
@[simp] theorem setWriter_port (w : WriterStep) : (setWriter w s).port = s.port := rfl
@[simp] theorem setWriter_mem (w : WriterStep) : (setWriter w s).mem = s.mem := rfl
@[simp] theorem setWriter_scanner (w : WriterStep) : (setWriter w s).scanner = s.scanner := rfl
@[simp] theorem setWriter_results (w : WriterStep) : (setWriter w s).results = { s.results with writer := w } := rfl
@[simp] theorem setWriter_status (w : WriterStep) : (setWriter w s).status = s.status := rfl
@[simp] theorem setWriter_playbacks (w : WriterStep) : (setWriter w s).playbacks = s.playbacks := rfl
@[simp] theorem setWriter_superseded (w : WriterStep) : (setWriter w s).superseded = s.superseded := rfl
@[simp] theorem setWriter_loader (w : WriterStep) : (setWriter w s).loader = s.loader := rfl
@[simp] theorem setWriter_tables (w : WriterStep) : (setWriter w s).tables = s.tables := rfl
@[simp] theorem setWriter_mixer (w : WriterStep) : (setWriter w s).mixer = s.mixer := rfl
@[simp] theorem setWriter_store (w : WriterStep) : (setWriter w s).store = s.store := rfl
@[simp] theorem setWriter_lines (w : WriterStep) : (setWriter w s).lines = s.lines := rfl
@[simp] theorem setWriter_talkback (w : WriterStep) : (setWriter w s).talkback = s.talkback := rfl
@[simp] theorem setWriter_outputs (w : WriterStep) : (setWriter w s).outputs = s.outputs := rfl
@[simp] theorem setWriter_triggers (w : WriterStep) : (setWriter w s).triggers = s.triggers := rfl

/-! #### modEngine -/

@[simp] theorem modEngine_control (f : Engine → Engine) : (modEngine f s).control = s.control := rfl
@[simp] theorem modEngine_anchorReg (f : Engine → Engine) : (modEngine f s).anchorReg = s.anchorReg := rfl
@[simp] theorem modEngine_intStatus (f : Engine → Engine) : (modEngine f s).intStatus = s.intStatus := rfl
@[simp] theorem modEngine_intMask (f : Engine → Engine) : (modEngine f s).intMask = s.intMask := rfl
@[simp] theorem modEngine_engine (f : Engine → Engine) : (modEngine f s).engine = f s.engine := rfl
@[simp] theorem modEngine_anchor (f : Engine → Engine) : (modEngine f s).anchor = s.anchor := rfl
@[simp] theorem modEngine_time (f : Engine → Engine) : (modEngine f s).time = s.time := rfl
@[simp] theorem modEngine_port (f : Engine → Engine) : (modEngine f s).port = s.port := rfl
@[simp] theorem modEngine_mem (f : Engine → Engine) : (modEngine f s).mem = s.mem := rfl
@[simp] theorem modEngine_scanner (f : Engine → Engine) : (modEngine f s).scanner = s.scanner := rfl
@[simp] theorem modEngine_results (f : Engine → Engine) : (modEngine f s).results = s.results := rfl
@[simp] theorem modEngine_status (f : Engine → Engine) : (modEngine f s).status = s.status := rfl
@[simp] theorem modEngine_playbacks (f : Engine → Engine) : (modEngine f s).playbacks = s.playbacks := rfl
@[simp] theorem modEngine_superseded (f : Engine → Engine) : (modEngine f s).superseded = s.superseded := rfl
@[simp] theorem modEngine_loader (f : Engine → Engine) : (modEngine f s).loader = s.loader := rfl
@[simp] theorem modEngine_tables (f : Engine → Engine) : (modEngine f s).tables = s.tables := rfl
@[simp] theorem modEngine_mixer (f : Engine → Engine) : (modEngine f s).mixer = s.mixer := rfl
@[simp] theorem modEngine_store (f : Engine → Engine) : (modEngine f s).store = s.store := rfl
@[simp] theorem modEngine_lines (f : Engine → Engine) : (modEngine f s).lines = s.lines := rfl
@[simp] theorem modEngine_talkback (f : Engine → Engine) : (modEngine f s).talkback = s.talkback := rfl
@[simp] theorem modEngine_outputs (f : Engine → Engine) : (modEngine f s).outputs = s.outputs := rfl
@[simp] theorem modEngine_triggers (f : Engine → Engine) : (modEngine f s).triggers = s.triggers := rfl

/-! #### modPort -/

@[simp] theorem modPort_control (f : Port → Port) : (modPort f s).control = s.control := rfl
@[simp] theorem modPort_anchorReg (f : Port → Port) : (modPort f s).anchorReg = s.anchorReg := rfl
@[simp] theorem modPort_intStatus (f : Port → Port) : (modPort f s).intStatus = s.intStatus := rfl
@[simp] theorem modPort_intMask (f : Port → Port) : (modPort f s).intMask = s.intMask := rfl
@[simp] theorem modPort_engine (f : Port → Port) : (modPort f s).engine = s.engine := rfl
@[simp] theorem modPort_anchor (f : Port → Port) : (modPort f s).anchor = s.anchor := rfl
@[simp] theorem modPort_time (f : Port → Port) : (modPort f s).time = s.time := rfl
@[simp] theorem modPort_port (f : Port → Port) : (modPort f s).port = f s.port := rfl
@[simp] theorem modPort_mem (f : Port → Port) : (modPort f s).mem = s.mem := rfl
@[simp] theorem modPort_scanner (f : Port → Port) : (modPort f s).scanner = s.scanner := rfl
@[simp] theorem modPort_results (f : Port → Port) : (modPort f s).results = s.results := rfl
@[simp] theorem modPort_status (f : Port → Port) : (modPort f s).status = s.status := rfl
@[simp] theorem modPort_playbacks (f : Port → Port) : (modPort f s).playbacks = s.playbacks := rfl
@[simp] theorem modPort_superseded (f : Port → Port) : (modPort f s).superseded = s.superseded := rfl
@[simp] theorem modPort_loader (f : Port → Port) : (modPort f s).loader = s.loader := rfl
@[simp] theorem modPort_tables (f : Port → Port) : (modPort f s).tables = s.tables := rfl
@[simp] theorem modPort_mixer (f : Port → Port) : (modPort f s).mixer = s.mixer := rfl
@[simp] theorem modPort_store (f : Port → Port) : (modPort f s).store = s.store := rfl
@[simp] theorem modPort_lines (f : Port → Port) : (modPort f s).lines = s.lines := rfl
@[simp] theorem modPort_talkback (f : Port → Port) : (modPort f s).talkback = s.talkback := rfl
@[simp] theorem modPort_outputs (f : Port → Port) : (modPort f s).outputs = s.outputs := rfl
@[simp] theorem modPort_triggers (f : Port → Port) : (modPort f s).triggers = s.triggers := rfl

/-! #### setLoadFlags -/

@[simp] theorem setLoadFlags_control : (setLoadFlags s).control = s.control := rfl
@[simp] theorem setLoadFlags_anchorReg : (setLoadFlags s).anchorReg = s.anchorReg := rfl
@[simp] theorem setLoadFlags_intStatus : (setLoadFlags s).intStatus = s.intStatus := rfl
@[simp] theorem setLoadFlags_intMask : (setLoadFlags s).intMask = s.intMask := rfl
@[simp] theorem setLoadFlags_engine : (setLoadFlags s).engine = s.engine := rfl
@[simp] theorem setLoadFlags_anchor : (setLoadFlags s).anchor = s.anchor := rfl
@[simp] theorem setLoadFlags_time : (setLoadFlags s).time = s.time := rfl
@[simp] theorem setLoadFlags_port : (setLoadFlags s).port = s.port := rfl
@[simp] theorem setLoadFlags_mem : (setLoadFlags s).mem = s.mem := rfl
@[simp] theorem setLoadFlags_scanner : (setLoadFlags s).scanner = s.scanner := rfl
@[simp] theorem setLoadFlags_results : (setLoadFlags s).results = s.results := rfl
@[simp] theorem setLoadFlags_status : (setLoadFlags s).status = s.status := rfl
@[simp] theorem setLoadFlags_playbacks : (setLoadFlags s).playbacks = s.playbacks := rfl
@[simp] theorem setLoadFlags_superseded : (setLoadFlags s).superseded = s.superseded := rfl
@[simp] theorem setLoadFlags_loader : (setLoadFlags s).loader = s.loader := rfl
@[simp] theorem setLoadFlags_tables : (setLoadFlags s).tables = s.tables := rfl
@[simp] theorem setLoadFlags_mixer : (setLoadFlags s).mixer = s.mixer := rfl
@[simp] theorem setLoadFlags_store : (setLoadFlags s).store = s.store := rfl
@[simp] theorem setLoadFlags_lines : (setLoadFlags s).lines = s.lines := rfl
@[simp] theorem setLoadFlags_talkback : (setLoadFlags s).talkback = s.talkback := rfl
@[simp] theorem setLoadFlags_outputs : (setLoadFlags s).outputs = { s.outputs with load := Vector.replicate 16 true } := rfl
@[simp] theorem setLoadFlags_triggers : (setLoadFlags s).triggers = s.triggers := rfl

/-! #### takeSettled -/

@[simp] theorem takeSettled_control : (takeSettled s).control = s.control := rfl
@[simp] theorem takeSettled_anchorReg : (takeSettled s).anchorReg = s.anchorReg := rfl
@[simp] theorem takeSettled_intStatus : (takeSettled s).intStatus = s.intStatus := rfl
@[simp] theorem takeSettled_intMask : (takeSettled s).intMask = s.intMask := rfl
@[simp] theorem takeSettled_engine : (takeSettled s).engine = s.engine := rfl
@[simp] theorem takeSettled_anchor : (takeSettled s).anchor = s.anchor := rfl
@[simp] theorem takeSettled_time : (takeSettled s).time = s.time := rfl
@[simp] theorem takeSettled_port : (takeSettled s).port = s.port := rfl
@[simp] theorem takeSettled_mem : (takeSettled s).mem = s.mem := rfl
@[simp] theorem takeSettled_scanner : (takeSettled s).scanner = s.scanner := rfl
@[simp] theorem takeSettled_results : (takeSettled s).results = s.results := rfl
@[simp] theorem takeSettled_status : (takeSettled s).status = s.status := rfl
@[simp] theorem takeSettled_playbacks : (takeSettled s).playbacks = s.playbacks := rfl
@[simp] theorem takeSettled_superseded : (takeSettled s).superseded = s.superseded := rfl
@[simp] theorem takeSettled_loader : (takeSettled s).loader = s.loader := rfl
@[simp] theorem takeSettled_tables : (takeSettled s).tables = s.tables := rfl
@[simp] theorem takeSettled_mixer : (takeSettled s).mixer = s.mixer := rfl
@[simp] theorem takeSettled_store : (takeSettled s).store = s.store := rfl
@[simp] theorem takeSettled_lines : (takeSettled s).lines = s.lines := rfl
@[simp] theorem takeSettled_talkback : (takeSettled s).talkback = s.talkback := rfl
@[simp] theorem takeSettled_outputs : (takeSettled s).outputs = s.outputs := rfl
@[simp] theorem takeSettled_triggers : (takeSettled s).triggers = mapAll s.triggers fun g => { g with settled := g.pin } := rfl

/-! #### perform -/

@[simp] theorem perform_control (k : TenureKind) (n : Nat) : (perform k n s).control = s.control := rfl
@[simp] theorem perform_anchorReg (k : TenureKind) (n : Nat) : (perform k n s).anchorReg = s.anchorReg := rfl
@[simp] theorem perform_intStatus (k : TenureKind) (n : Nat) : (perform k n s).intStatus = s.intStatus := rfl
@[simp] theorem perform_intMask (k : TenureKind) (n : Nat) : (perform k n s).intMask = s.intMask := rfl
@[simp] theorem perform_engine (k : TenureKind) (n : Nat) : (perform k n s).engine = s.engine := rfl
@[simp] theorem perform_anchor (k : TenureKind) (n : Nat) : (perform k n s).anchor = s.anchor := rfl
@[simp] theorem perform_time (k : TenureKind) (n : Nat) : (perform k n s).time = s.time := rfl
@[simp] theorem perform_port (k : TenureKind) (n : Nat) : (perform k n s).port = s.port := rfl
@[simp] theorem perform_mem (k : TenureKind) (n : Nat) : (perform k n s).mem = performWords k n s.mem := rfl
@[simp] theorem perform_scanner (k : TenureKind) (n : Nat) : (perform k n s).scanner = { s.scanner with step := s.scanner.step.withOwnStores s.anchor k n s.mem } := rfl
@[simp] theorem perform_results (k : TenureKind) (n : Nat) : (perform k n s).results = s.results := rfl
@[simp] theorem perform_status (k : TenureKind) (n : Nat) : (perform k n s).status = s.status := rfl
@[simp] theorem perform_playbacks (k : TenureKind) (n : Nat) : (perform k n s).playbacks = s.playbacks := rfl
@[simp] theorem perform_superseded (k : TenureKind) (n : Nat) : (perform k n s).superseded = s.superseded := rfl
@[simp] theorem perform_loader (k : TenureKind) (n : Nat) : (perform k n s).loader = s.loader := rfl
@[simp] theorem perform_tables (k : TenureKind) (n : Nat) : (perform k n s).tables = s.tables := rfl
@[simp] theorem perform_mixer (k : TenureKind) (n : Nat) : (perform k n s).mixer = s.mixer := rfl
@[simp] theorem perform_store (k : TenureKind) (n : Nat) : (perform k n s).store = s.store := rfl
@[simp] theorem perform_lines (k : TenureKind) (n : Nat) : (perform k n s).lines = s.lines := rfl
@[simp] theorem perform_talkback (k : TenureKind) (n : Nat) : (perform k n s).talkback = s.talkback := rfl
@[simp] theorem perform_outputs (k : TenureKind) (n : Nat) : (perform k n s).outputs = s.outputs := rfl
@[simp] theorem perform_triggers (k : TenureKind) (n : Nat) : (perform k n s).triggers = s.triggers := rfl

end Sys2Proof.Machine
end

