-- ==== Sys2Proof/Laws/Vectors.lean ====
section
/-! SUPPORT. Places of a vector: reading a replaced place, and replacing twice. -/

namespace Sys2Proof.Machine

variable {α β : Type} {n : Nat}

/-- A replaced place reads as what was put there. -/
@[simp] theorem getAt_setAt (v : Vector α n) (i : Fin n) (x : α) : getAt (setAt v i x) i = x := by
  simp [getAt, setAt]

/-- Another place reads as before. -/
theorem getAt_setAt_ne (v : Vector α n) (i j : Fin n) (x : α) (h : j ≠ i) : getAt (setAt v i x) j = getAt v j := by
  have : i.val ≠ j.val := fun e => h (Fin.ext e.symm)
  simp [getAt, setAt, this]

/-- Any place after one has been replaced. -/
theorem getAt_setAt_ite (v : Vector α n) (i j : Fin n) (x : α) :
    getAt (setAt v i x) j = if j = i then x else getAt v j := by
  by_cases h : j = i
  · subst h; simp
  · simp [h, getAt_setAt_ne]

/-- The later of two replacements of a place stands. -/
@[simp] theorem setAt_setAt (v : Vector α n) (i : Fin n) (x y : α) : setAt (setAt v i x) i y = setAt v i y := by
  simp [setAt]

/-- Putting back what a place holds changes nothing. -/
@[simp] theorem setAt_getAt (v : Vector α n) (i : Fin n) : setAt v i (getAt v i) = v := by
  simp [setAt, getAt]

/-- A changed place. -/
@[simp] theorem modAt_eq (v : Vector α n) (i : Fin n) (f : α → α) : modAt v i f = setAt v i (f (getAt v i)) := rfl

/-- A place of a vector changed everywhere. -/
@[simp] theorem getAt_mapAll (v : Vector α n) (f : α → β) (i : Fin n) : getAt (mapAll v f) i = f (getAt v i) := by
  simp [getAt, mapAll]

/-- A place of a constant vector. -/
@[simp] theorem getAt_replicate (x : α) (i : Fin n) : getAt (Vector.replicate n x) i = x := by
  simp [getAt]

/-- A place of a vector given by a function. -/
@[simp] theorem getAt_ofFn (f : Fin n → α) (i : Fin n) : getAt (Vector.ofFn f) i = f i := by
  simp [getAt]

/-- Vectors that agree at every place are equal. -/
theorem vector_ext {v w : Vector α n} (h : ∀ i, getAt v i = getAt w i) : v = w := by
  apply Vector.ext
  intro i hi
  exact h ⟨i, hi⟩

end Sys2Proof.Machine
end

