-- ==== Sys2Proof/Laws/Ops.lean ====
section
/-! SUPPORT. What the shared operations can do: a client's request at the port, a completion, an edit, and the answer of a command. -/

namespace Sys2Proof.Machine

/-! ### Answers -/

/-- An answered command goes on, with the queue of commands as it was. -/
theorem answer_next (c : Bool) (f : Block → Block) (b : Block) (q : List Instr) :
    answer c f ⟨b, q⟩ = .next ⟨if c then f b else b, q⟩ := rfl

/-- An event that can fall is taken. -/
theorem answer_taken {c : Bool} (h : c = true) (f : Block → Block) (b : Block) (q : List Instr) :
    answer c f ⟨b, q⟩ = .next ⟨f b, q⟩ := by
  rw [answer_next, h]; rfl

/-- An event that cannot fall leaves the part as it is. -/
theorem answer_not_taken {c : Bool} (h : c = false) (f : Block → Block) (b : Block) (q : List Instr) :
    answer c f ⟨b, q⟩ = .next ⟨b, q⟩ := by
  rw [answer_next, h]; rfl

/-- Whatever holds of a part that an event leaves or changes holds after the command. -/
theorem answer_keeps {P : Block → Prop} {c : Bool} {f : Block → Block} {s t : State} (h : P s.block)
    (hf : c = true → P (f s.block)) (e : answer c f s = .next t) : P t.block := by
  unfold answer at e
  cases e
  dsimp only
  split
  · rename_i hc; exact hf hc
  · exact h

/-- No reset applied. -/
theorem live_iff (b : Block) : live b = true ↔ b.engine.phase = .released := by simp [live]

/-- No reset applied, and the clocks run. -/
theorem clocked_iff (b : Block) : clocked b = true ↔ b.engine.phase = .released ∧ b.time.ready = true := by
  simp [clocked, live_iff]

/-! ### Requests at the memory port (R188) -/

/-- A client's request changes the port and nothing else, and depends on the engine state and the port alone. -/
theorem ask_eq (c : Client) (k : TenureKind) (s : Block) : ask c k s = { s with port := (ask c k s).port } := by
  unfold ask
  split
  · rfl
  · split <;> rfl

/-- In HALTED a request is refused (R189). -/
theorem ask_halted {s : Block} (h : s.engine.state = .halted) (c : Client) (k : TenureKind) : ask c k s = s := by
  simp [ask, h]

/-- At an IDLE port with nothing waiting the tenure begins at once (R188). -/
theorem ask_idle {s : Block} (h : s.engine.state ≠ .halted) (hp : s.port.state = .idle) (hw : s.port.nextClient = none)
    (c : Client) (k : TenureKind) : ask c k s = { s with port := s.port.start c k } := by
  simp [ask, h, hp, hw]

/-- At a port that is busy, or at which something waits, the request waits (R188). -/
theorem ask_waits {s : Block} (h : s.engine.state ≠ .halted) (hp : s.port.state ≠ .idle ∨ s.port.nextClient ≠ none)
    (c : Client) (k : TenureKind) :
    ask c k s = { s with port := { s.port with waiting := setAt s.port.waiting c.index (some k) } } := by
  unfold ask
  rw [if_neg h, if_neg]
  rintro ⟨a, b⟩
  rcases hp with hp | hp
  · exact hp a
  · exact hp b

/-- A request touches the port only where the arbiter does. -/
@[simp] theorem ask_consecutive (c : Client) (k : TenureKind) (s : Block) : (ask c k s).port.consecutive = s.port.consecutive := by
  unfold ask; split
  · rfl
  · split <;> rfl

@[simp] theorem ask_faults (c : Client) (k : TenureKind) (s : Block) : (ask c k s).port.faults = s.port.faults := by
  unfold ask; split
  · rfl
  · split <;> rfl

@[simp] theorem ask_waits_value (c : Client) (k : TenureKind) (s : Block) : (ask c k s).port.waits = s.port.waits := by
  unfold ask; split
  · rfl
  · split <;> rfl

/-- The client at its own place of the cyclic order. -/
@[simp] theorem ofIndex_index (c : Client) : Client.ofIndex c.index = c := by cases c <;> rfl

/-- Every client comes round once (R188). -/
theorem mem_after (c d : Client) : d ∈ c.after := by cases c <;> cases d <;> decide

/-- No client is next exactly when no request waits. -/
theorem nextClient_none (p : Port) : p.nextClient = none ↔ ∀ c : Client, p.waitingOf c = none := by
  unfold Port.nextClient
  rw [List.findSome?_eq_none_iff]
  constructor
  · intro h c
    simpa using h c (mem_after p.pointer c)
  · intro h c _
    simp [h c]

/-- Nothing waits at a port whose requests have been withdrawn. -/
@[simp] theorem withdraw_nextClient (p : Port) : p.withdraw.nextClient = none := by
  rw [nextClient_none]
  intro c
  simp [Port.waitingOf, Port.withdraw]

/-! ### Completions (R175, R176) -/

/-- The result writer's start changes its step and the port. -/
theorem startWriter_eq (s : Block) :
    startWriter s = { s with results := { s.results with writer := (startWriter s).results.writer }, port := (startWriter s).port } := by
  unfold startWriter
  split
  · split
    · rw [ask_eq]
    · rfl
  · rfl

/-- A completion without a reservation changes nothing. -/
theorem complete_unreserved {s : Block} {i : Fin 32} (h : s.results.reserved.contains i = false) (code : ResultCode) (v1 v2 v3 : Word) :
    complete i code v1 v2 v3 s = s := by
  unfold complete
  simp only [h, Bool.false_eq_true, if_false]

/-- A completion changes the results and the port and nothing else. -/
theorem complete_eq (i : Fin 32) (code : ResultCode) (v1 v2 v3 : Word) (s : Block) :
    complete i code v1 v2 v3 s
      = { s with results := (complete i code v1 v2 v3 s).results, port := (complete i code v1 v2 v3 s).port } := by
  unfold complete
  dsimp only
  split
  · split
    · rfl
    · rw [startWriter_eq]
  · rfl

/-! ### Fields that these operations leave -/

section Fields

variable (s : Block)

@[simp] theorem ask_control (c : Client) (k : TenureKind) : (ask c k s).control = s.control := by rw [ask_eq]
@[simp] theorem ask_anchorReg (c : Client) (k : TenureKind) : (ask c k s).anchorReg = s.anchorReg := by rw [ask_eq]
@[simp] theorem ask_intStatus (c : Client) (k : TenureKind) : (ask c k s).intStatus = s.intStatus := by rw [ask_eq]
@[simp] theorem ask_intMask (c : Client) (k : TenureKind) : (ask c k s).intMask = s.intMask := by rw [ask_eq]
@[simp] theorem ask_engine (c : Client) (k : TenureKind) : (ask c k s).engine = s.engine := by rw [ask_eq]
@[simp] theorem ask_anchor (c : Client) (k : TenureKind) : (ask c k s).anchor = s.anchor := by rw [ask_eq]
@[simp] theorem ask_time (c : Client) (k : TenureKind) : (ask c k s).time = s.time := by rw [ask_eq]
@[simp] theorem ask_mem (c : Client) (k : TenureKind) : (ask c k s).mem = s.mem := by rw [ask_eq]
@[simp] theorem ask_scanner (c : Client) (k : TenureKind) : (ask c k s).scanner = s.scanner := by rw [ask_eq]
@[simp] theorem ask_results (c : Client) (k : TenureKind) : (ask c k s).results = s.results := by rw [ask_eq]
@[simp] theorem ask_status (c : Client) (k : TenureKind) : (ask c k s).status = s.status := by rw [ask_eq]
@[simp] theorem ask_playbacks (c : Client) (k : TenureKind) : (ask c k s).playbacks = s.playbacks := by rw [ask_eq]
@[simp] theorem ask_superseded (c : Client) (k : TenureKind) : (ask c k s).superseded = s.superseded := by rw [ask_eq]
@[simp] theorem ask_loader (c : Client) (k : TenureKind) : (ask c k s).loader = s.loader := by rw [ask_eq]
@[simp] theorem ask_tables (c : Client) (k : TenureKind) : (ask c k s).tables = s.tables := by rw [ask_eq]
@[simp] theorem ask_mixer (c : Client) (k : TenureKind) : (ask c k s).mixer = s.mixer := by rw [ask_eq]
@[simp] theorem ask_store (c : Client) (k : TenureKind) : (ask c k s).store = s.store := by rw [ask_eq]
@[simp] theorem ask_lines (c : Client) (k : TenureKind) : (ask c k s).lines = s.lines := by rw [ask_eq]
@[simp] theorem ask_talkback (c : Client) (k : TenureKind) : (ask c k s).talkback = s.talkback := by rw [ask_eq]
@[simp] theorem ask_outputs (c : Client) (k : TenureKind) : (ask c k s).outputs = s.outputs := by rw [ask_eq]
@[simp] theorem ask_triggers (c : Client) (k : TenureKind) : (ask c k s).triggers = s.triggers := by rw [ask_eq]

@[simp] theorem startWriter_control : (startWriter s).control = s.control := by rw [startWriter_eq]
@[simp] theorem startWriter_anchorReg : (startWriter s).anchorReg = s.anchorReg := by rw [startWriter_eq]
@[simp] theorem startWriter_intStatus : (startWriter s).intStatus = s.intStatus := by rw [startWriter_eq]
@[simp] theorem startWriter_intMask : (startWriter s).intMask = s.intMask := by rw [startWriter_eq]
@[simp] theorem startWriter_engine : (startWriter s).engine = s.engine := by rw [startWriter_eq]
@[simp] theorem startWriter_anchor : (startWriter s).anchor = s.anchor := by rw [startWriter_eq]
@[simp] theorem startWriter_time : (startWriter s).time = s.time := by rw [startWriter_eq]
@[simp] theorem startWriter_mem : (startWriter s).mem = s.mem := by rw [startWriter_eq]
@[simp] theorem startWriter_scanner : (startWriter s).scanner = s.scanner := by rw [startWriter_eq]
@[simp] theorem startWriter_status : (startWriter s).status = s.status := by rw [startWriter_eq]
@[simp] theorem startWriter_playbacks : (startWriter s).playbacks = s.playbacks := by rw [startWriter_eq]
@[simp] theorem startWriter_superseded : (startWriter s).superseded = s.superseded := by rw [startWriter_eq]
@[simp] theorem startWriter_loader : (startWriter s).loader = s.loader := by rw [startWriter_eq]
@[simp] theorem startWriter_tables : (startWriter s).tables = s.tables := by rw [startWriter_eq]
@[simp] theorem startWriter_mixer : (startWriter s).mixer = s.mixer := by rw [startWriter_eq]
@[simp] theorem startWriter_store : (startWriter s).store = s.store := by rw [startWriter_eq]
@[simp] theorem startWriter_lines : (startWriter s).lines = s.lines := by rw [startWriter_eq]
@[simp] theorem startWriter_talkback : (startWriter s).talkback = s.talkback := by rw [startWriter_eq]
@[simp] theorem startWriter_outputs : (startWriter s).outputs = s.outputs := by rw [startWriter_eq]
@[simp] theorem startWriter_triggers : (startWriter s).triggers = s.triggers := by rw [startWriter_eq]

@[simp] theorem complete_control (i : Fin 32) (code : ResultCode) (v1 v2 v3 : Word) : (complete i code v1 v2 v3 s).control = s.control := by rw [complete_eq]
@[simp] theorem complete_anchorReg (i : Fin 32) (code : ResultCode) (v1 v2 v3 : Word) : (complete i code v1 v2 v3 s).anchorReg = s.anchorReg := by rw [complete_eq]
@[simp] theorem complete_intStatus (i : Fin 32) (code : ResultCode) (v1 v2 v3 : Word) : (complete i code v1 v2 v3 s).intStatus = s.intStatus := by rw [complete_eq]
@[simp] theorem complete_intMask (i : Fin 32) (code : ResultCode) (v1 v2 v3 : Word) : (complete i code v1 v2 v3 s).intMask = s.intMask := by rw [complete_eq]
@[simp] theorem complete_engine (i : Fin 32) (code : ResultCode) (v1 v2 v3 : Word) : (complete i code v1 v2 v3 s).engine = s.engine := by rw [complete_eq]
@[simp] theorem complete_anchor (i : Fin 32) (code : ResultCode) (v1 v2 v3 : Word) : (complete i code v1 v2 v3 s).anchor = s.anchor := by rw [complete_eq]
@[simp] theorem complete_time (i : Fin 32) (code : ResultCode) (v1 v2 v3 : Word) : (complete i code v1 v2 v3 s).time = s.time := by rw [complete_eq]
@[simp] theorem complete_mem (i : Fin 32) (code : ResultCode) (v1 v2 v3 : Word) : (complete i code v1 v2 v3 s).mem = s.mem := by rw [complete_eq]
@[simp] theorem complete_scanner (i : Fin 32) (code : ResultCode) (v1 v2 v3 : Word) : (complete i code v1 v2 v3 s).scanner = s.scanner := by rw [complete_eq]
@[simp] theorem complete_status (i : Fin 32) (code : ResultCode) (v1 v2 v3 : Word) : (complete i code v1 v2 v3 s).status = s.status := by rw [complete_eq]
@[simp] theorem complete_playbacks (i : Fin 32) (code : ResultCode) (v1 v2 v3 : Word) : (complete i code v1 v2 v3 s).playbacks = s.playbacks := by rw [complete_eq]
@[simp] theorem complete_superseded (i : Fin 32) (code : ResultCode) (v1 v2 v3 : Word) : (complete i code v1 v2 v3 s).superseded = s.superseded := by rw [complete_eq]
@[simp] theorem complete_loader (i : Fin 32) (code : ResultCode) (v1 v2 v3 : Word) : (complete i code v1 v2 v3 s).loader = s.loader := by rw [complete_eq]
@[simp] theorem complete_tables (i : Fin 32) (code : ResultCode) (v1 v2 v3 : Word) : (complete i code v1 v2 v3 s).tables = s.tables := by rw [complete_eq]
@[simp] theorem complete_mixer (i : Fin 32) (code : ResultCode) (v1 v2 v3 : Word) : (complete i code v1 v2 v3 s).mixer = s.mixer := by rw [complete_eq]
@[simp] theorem complete_store (i : Fin 32) (code : ResultCode) (v1 v2 v3 : Word) : (complete i code v1 v2 v3 s).store = s.store := by rw [complete_eq]
@[simp] theorem complete_lines (i : Fin 32) (code : ResultCode) (v1 v2 v3 : Word) : (complete i code v1 v2 v3 s).lines = s.lines := by rw [complete_eq]
@[simp] theorem complete_talkback (i : Fin 32) (code : ResultCode) (v1 v2 v3 : Word) : (complete i code v1 v2 v3 s).talkback = s.talkback := by rw [complete_eq]
@[simp] theorem complete_outputs (i : Fin 32) (code : ResultCode) (v1 v2 v3 : Word) : (complete i code v1 v2 v3 s).outputs = s.outputs := by rw [complete_eq]
@[simp] theorem complete_triggers (i : Fin 32) (code : ResultCode) (v1 v2 v3 : Word) : (complete i code v1 v2 v3 s).triggers = s.triggers := by rw [complete_eq]

@[simp] theorem completePlain_control (i : Fin 32) (code : ResultCode) : (completePlain i code s).control = s.control := complete_control ..
@[simp] theorem completePlain_anchorReg (i : Fin 32) (code : ResultCode) : (completePlain i code s).anchorReg = s.anchorReg := complete_anchorReg ..
@[simp] theorem completePlain_intStatus (i : Fin 32) (code : ResultCode) : (completePlain i code s).intStatus = s.intStatus := complete_intStatus ..
@[simp] theorem completePlain_intMask (i : Fin 32) (code : ResultCode) : (completePlain i code s).intMask = s.intMask := complete_intMask ..
@[simp] theorem completePlain_engine (i : Fin 32) (code : ResultCode) : (completePlain i code s).engine = s.engine := complete_engine ..
@[simp] theorem completePlain_anchor (i : Fin 32) (code : ResultCode) : (completePlain i code s).anchor = s.anchor := complete_anchor ..
@[simp] theorem completePlain_time (i : Fin 32) (code : ResultCode) : (completePlain i code s).time = s.time := complete_time ..
@[simp] theorem completePlain_mem (i : Fin 32) (code : ResultCode) : (completePlain i code s).mem = s.mem := complete_mem ..
@[simp] theorem completePlain_scanner (i : Fin 32) (code : ResultCode) : (completePlain i code s).scanner = s.scanner := complete_scanner ..
@[simp] theorem completePlain_status (i : Fin 32) (code : ResultCode) : (completePlain i code s).status = s.status := complete_status ..
@[simp] theorem completePlain_playbacks (i : Fin 32) (code : ResultCode) : (completePlain i code s).playbacks = s.playbacks := complete_playbacks ..
@[simp] theorem completePlain_superseded (i : Fin 32) (code : ResultCode) : (completePlain i code s).superseded = s.superseded := complete_superseded ..
@[simp] theorem completePlain_loader (i : Fin 32) (code : ResultCode) : (completePlain i code s).loader = s.loader := complete_loader ..
@[simp] theorem completePlain_tables (i : Fin 32) (code : ResultCode) : (completePlain i code s).tables = s.tables := complete_tables ..
@[simp] theorem completePlain_mixer (i : Fin 32) (code : ResultCode) : (completePlain i code s).mixer = s.mixer := complete_mixer ..
@[simp] theorem completePlain_store (i : Fin 32) (code : ResultCode) : (completePlain i code s).store = s.store := complete_store ..
@[simp] theorem completePlain_lines (i : Fin 32) (code : ResultCode) : (completePlain i code s).lines = s.lines := complete_lines ..
@[simp] theorem completePlain_talkback (i : Fin 32) (code : ResultCode) : (completePlain i code s).talkback = s.talkback := complete_talkback ..
@[simp] theorem completePlain_outputs (i : Fin 32) (code : ResultCode) : (completePlain i code s).outputs = s.outputs := complete_outputs ..
@[simp] theorem completePlain_triggers (i : Fin 32) (code : ResultCode) : (completePlain i code s).triggers = s.triggers := complete_triggers ..

@[simp] theorem completeOrigin_control (o : Origin) (code : ResultCode) (v1 v2 : Word) :
    (completeOrigin o code v1 v2 s).control = s.control := by cases o <;> simp [completeOrigin]
@[simp] theorem completeOrigin_anchorReg (o : Origin) (code : ResultCode) (v1 v2 : Word) :
    (completeOrigin o code v1 v2 s).anchorReg = s.anchorReg := by cases o <;> simp [completeOrigin]
@[simp] theorem completeOrigin_intStatus (o : Origin) (code : ResultCode) (v1 v2 : Word) :
    (completeOrigin o code v1 v2 s).intStatus = s.intStatus := by cases o <;> simp [completeOrigin]
@[simp] theorem completeOrigin_intMask (o : Origin) (code : ResultCode) (v1 v2 : Word) :
    (completeOrigin o code v1 v2 s).intMask = s.intMask := by cases o <;> simp [completeOrigin]
@[simp] theorem completeOrigin_engine (o : Origin) (code : ResultCode) (v1 v2 : Word) :
    (completeOrigin o code v1 v2 s).engine = s.engine := by cases o <;> simp [completeOrigin]
@[simp] theorem completeOrigin_anchor (o : Origin) (code : ResultCode) (v1 v2 : Word) :
    (completeOrigin o code v1 v2 s).anchor = s.anchor := by cases o <;> simp [completeOrigin]
@[simp] theorem completeOrigin_time (o : Origin) (code : ResultCode) (v1 v2 : Word) :
    (completeOrigin o code v1 v2 s).time = s.time := by cases o <;> simp [completeOrigin]
@[simp] theorem completeOrigin_mem (o : Origin) (code : ResultCode) (v1 v2 : Word) :
    (completeOrigin o code v1 v2 s).mem = s.mem := by cases o <;> simp [completeOrigin]
@[simp] theorem completeOrigin_scanner (o : Origin) (code : ResultCode) (v1 v2 : Word) :
    (completeOrigin o code v1 v2 s).scanner = s.scanner := by cases o <;> simp [completeOrigin]
@[simp] theorem completeOrigin_status (o : Origin) (code : ResultCode) (v1 v2 : Word) :
    (completeOrigin o code v1 v2 s).status = s.status := by cases o <;> simp [completeOrigin]
@[simp] theorem completeOrigin_playbacks (o : Origin) (code : ResultCode) (v1 v2 : Word) :
    (completeOrigin o code v1 v2 s).playbacks = s.playbacks := by cases o <;> simp [completeOrigin]
@[simp] theorem completeOrigin_superseded (o : Origin) (code : ResultCode) (v1 v2 : Word) :
    (completeOrigin o code v1 v2 s).superseded = s.superseded := by cases o <;> simp [completeOrigin]
@[simp] theorem completeOrigin_loader (o : Origin) (code : ResultCode) (v1 v2 : Word) :
    (completeOrigin o code v1 v2 s).loader = s.loader := by cases o <;> simp [completeOrigin]
@[simp] theorem completeOrigin_tables (o : Origin) (code : ResultCode) (v1 v2 : Word) :
    (completeOrigin o code v1 v2 s).tables = s.tables := by cases o <;> simp [completeOrigin]
@[simp] theorem completeOrigin_mixer (o : Origin) (code : ResultCode) (v1 v2 : Word) :
    (completeOrigin o code v1 v2 s).mixer = s.mixer := by cases o <;> simp [completeOrigin]
@[simp] theorem completeOrigin_store (o : Origin) (code : ResultCode) (v1 v2 : Word) :
    (completeOrigin o code v1 v2 s).store = s.store := by cases o <;> simp [completeOrigin]
@[simp] theorem completeOrigin_lines (o : Origin) (code : ResultCode) (v1 v2 : Word) :
    (completeOrigin o code v1 v2 s).lines = s.lines := by cases o <;> simp [completeOrigin]
@[simp] theorem completeOrigin_talkback (o : Origin) (code : ResultCode) (v1 v2 : Word) :
    (completeOrigin o code v1 v2 s).talkback = s.talkback := by cases o <;> simp [completeOrigin]
@[simp] theorem completeOrigin_outputs (o : Origin) (code : ResultCode) (v1 v2 : Word) :
    (completeOrigin o code v1 v2 s).outputs = s.outputs := by cases o <;> simp [completeOrigin]
@[simp] theorem completeOrigin_triggers (o : Origin) (code : ResultCode) (v1 v2 : Word) :
    (completeOrigin o code v1 v2 s).triggers = s.triggers := by cases o <;> simp [completeOrigin]

end Fields

/-! ### Closed forms -/

/-- The port after a request, in closed form. -/
theorem ask_port (c : Client) (k : TenureKind) (s : Block) :
    (ask c k s).port
      = if s.engine.state = .halted then s.port
        else if s.port.state = .idle ∧ s.port.nextClient = none then s.port.start c k
        else { s.port with waiting := setAt s.port.waiting c.index (some k) } := by
  unfold ask
  split
  · rfl
  · split <;> rfl

/-- The completion at the head of the result queue once one more has joined it. -/
def headAfter (queue : List Completion) (c : Completion) : Completion := (queue ++ [c]).headD c

/-- Whether a completion that joins the result queue makes the writer begin (R176). -/
def writerBegins (s : Block) : Bool :=
  s.results.writer == .idle && (s.engine.state == .running || s.engine.state == .stopping)

/-- The results after a completion, in closed form. -/
theorem complete_results (i : Fin 32) (code : ResultCode) (v1 v2 v3 : Word) (s : Block) :
    (complete i code v1 v2 v3 s).results
      = if s.results.reserved.contains i then
          if s.engine.state = .halted then { s.results with reserved := s.results.reserved.erase i }
          else ⟨s.results.queue ++ [⟨i, code, v1, v2, v3⟩], s.results.reserved.erase i,
            if writerBegins s then .values else s.results.writer⟩
        else s.results := by
  unfold complete
  dsimp only
  split
  · split
    · rfl
    · unfold startWriter writerBegins
      cases hw : s.results.writer <;> cases hq : s.results.queue <;> simp <;> split <;> simp_all [ask_results]
  · rfl

/-- The port after a completion, in closed form. -/
theorem complete_port (i : Fin 32) (code : ResultCode) (v1 v2 v3 : Word) (s : Block) :
    (complete i code v1 v2 v3 s).port
      = if s.results.reserved.contains i && writerBegins s then
          (ask .results (valuesBurst s.anchor (headAfter s.results.queue ⟨i, code, v1, v2, v3⟩)) s).port
        else s.port := by
  unfold complete headAfter
  dsimp only
  split
  · rename_i hi
    simp only [hi, Bool.true_and]
    split
    · rename_i hh
      simp [writerBegins, hh]
    · unfold startWriter writerBegins
      cases hw : s.results.writer <;> cases hq : s.results.queue <;> simp <;> split <;> simp_all [ask_port]
  · rename_i hi
    rw [Bool.not_eq_true] at hi
    rw [hi, Bool.false_and, if_neg Bool.false_ne_true]

/-- A completion's effect depends on the results, the port, the engine state and the anchor alone. -/
theorem complete_congr {s t : Block} (hr : s.results = t.results) (hp : s.port = t.port) (he : s.engine.state = t.engine.state)
    (ha : s.anchor = t.anchor) (i : Fin 32) (code : ResultCode) (v1 v2 v3 : Word) :
    (complete i code v1 v2 v3 s).results = (complete i code v1 v2 v3 t).results
      ∧ (complete i code v1 v2 v3 s).port = (complete i code v1 v2 v3 t).port := by
  rw [complete_results, complete_results, complete_port, complete_port]
  simp only [ask_port, writerBegins, hr, hp, he, ha]
  exact ⟨rfl, trivial⟩

end Sys2Proof.Machine
end

