-- ==== Sys2Proof/Laws/Frames.lean ====
section
/-! SUPPORT. Only a reset and the memory port's own events change shared memory: every other operation leaves it as it is. -/

namespace Sys2Proof.Machine

/-- A fold of changes that each keep a value keeps it. -/
theorem foldl_keeps {α γ : Type} (g : Block → γ) (f : Block → α → Block) (h : ∀ t x, g (f t x) = g t) (xs : List α) (s : Block) :
    g (xs.foldl f s) = g s := by
  induction xs generalizing s with
  | nil => rfl
  | cons x rest ih => rw [List.foldl_cons, ih, h]


@[simp] theorem edit_mem (p : Fin 8) (freed : Nat) (s : Block) : (edit p freed s).mem = s.mem := by unfold edit; split <;> simp
@[simp] theorem takeLoadJob_mem (s : Block) : (takeLoadJob s).mem = s.mem := by
  unfold takeLoadJob
  repeat' split
  all_goals simp
@[simp] theorem submitLoad_mem (p : Fin 8) (bank : Nat) (search : Search) (s : Block) : (submitLoad p bank search s).mem = s.mem := by simp [submitLoad]
@[simp] theorem followEnd_mem (p : Fin 8) (s : Block) : (followEnd p s).mem = s.mem := by
  unfold followEnd
  dsimp only
  split <;> simp
@[simp] theorem followIfDue_mem (p : Fin 8) (s : Block) : (followIfDue p s).mem = s.mem := by unfold followIfDue; split <;> simp
@[simp] theorem fadeEnds_mem (p : Fin 8) (s : Block) : (fadeEnds p s).mem = s.mem := by
  unfold fadeEnds
  dsimp only
  split <;> simp
@[simp] theorem fadeEndIfDue_mem (p : Fin 8) (s : Block) : (fadeEndIfDue p s).mem = s.mem := by unfold fadeEndIfDue; split <;> simp
@[simp] theorem finishHead_mem (p : Fin 8) (code : ResultCode) (v1 v2 : Word) (s : Block) : (finishHead p code v1 v2 s).mem = s.mem := by unfold finishHead; split <;> simp
@[simp] theorem servePause_mem (p : Fin 8) (s : Block) : (servePause p s).mem = s.mem := by
  unfold servePause
  dsimp only
  split <;> simp
@[simp] theorem serveResume_mem (p : Fin 8) (s : Block) : (serveResume p s).mem = s.mem := by
  unfold serveResume
  dsimp only
  split <;> simp
@[simp] theorem serveLoad_mem (p : Fin 8) (choice : Option (Nat × Search)) (s : Block) : (serveLoad p choice s).mem = s.mem := by
  unfold serveLoad
  repeat' split
  all_goals simp
@[simp] theorem serveHead_mem (p : Fin 8) (s : Block) : (serveHead p s).mem = s.mem := by
  unfold serveHead
  dsimp only
  repeat' split
  all_goals simp
@[simp] theorem serveUpTo_mem (n : Nat) (p : Fin 8) (s : Block) : (serveUpTo n p s).mem = s.mem := by
  induction n generalizing s with
  | zero => rfl
  | succ n ih => unfold serveUpTo; split <;> simp [ih]
@[simp] theorem serve_mem (p : Fin 8) (s : Block) : (serve p s).mem = s.mem := by simp [serve]
@[simp] theorem queueFull_mem (o : Origin) (s : Block) : (queueFull o s).mem = s.mem := by unfold queueFull; split <;> simp
@[simp] theorem arriveQueued_mem (p : Fin 8) (o : Origin) (k : QueuedKind) (s : Block) : (arriveQueued p o k s).mem = s.mem := by
  unfold arriveQueued
  repeat' split
  all_goals simp
@[simp] theorem cancelRequests_mem (rs : List QueuedRequest) (s : Block) : (cancelRequests rs s).mem = s.mem := by simp [cancelRequests, foldl_keeps (fun b : Block => b.mem)]
@[simp] theorem markAbandoned_mem (p : Fin 8) (s : Block) : (markAbandoned p s).mem = s.mem := by
  unfold markAbandoned
  repeat' split
  all_goals simp
@[simp] theorem abandonLoad_mem (p : Fin 8) (s : Block) : (abandonLoad p s).mem = s.mem := by unfold abandonLoad; split <;> simp
@[simp] theorem cancelAndAbandon_mem (p : Fin 8) (s : Block) : (cancelAndAbandon p s).mem = s.mem := by simp [cancelAndAbandon]
@[simp] theorem releaseBuild_mem (p : Fin 8) (time : Option Nat) (s : Block) : (releaseBuild p time s).mem = s.mem := by simp [releaseBuild]
@[simp] theorem arriveRelease_mem (p : Fin 8) (o : Origin) (time : Option Nat) (s : Block) : (arriveRelease p o time s).mem = s.mem := by
  unfold arriveRelease
  dsimp only
  repeat' split
  all_goals simp
@[simp] theorem arriveSetMaster_mem (p : Fin 8) (slot : Fin 32) (level time : Word) (s : Block) : (arriveSetMaster p slot level time s).mem = s.mem := by unfold arriveSetMaster; split <;> simp
@[simp] theorem clearPlayback_mem (p : Fin 8) (s : Block) : (clearPlayback p s).mem = s.mem := by simp [clearPlayback]
@[simp] theorem clearPlaybacks_mem (s : Block) : (clearPlaybacks s).mem = s.mem := by simp [clearPlaybacks, foldl_keeps (fun b : Block => b.mem)]
@[simp] theorem loadCompleted_mem (p : Fin 8) (bank : Nat) (h : CueHeader) (s : Block) : (loadCompleted p bank h s).mem = s.mem := by simp [loadCompleted]
@[simp] theorem loadEnded_mem (p : Fin 8) (code : ResultCode) (s : Block) : (loadEnded p code s).mem = s.mem := by simp [loadEnded]
@[simp] theorem freeLoad_mem (p : Fin 8) (s : Block) : (freeLoad p s).mem = s.mem := by simp [freeLoad]
theorem endJob_mem (report : Block → Block) (s : Block) (h : ∀ t, (report t).mem = t.mem) : (endJob report s).mem = s.mem := by simp [endJob, h]
@[simp] theorem endUnfinished_mem (c : CurrentLoad) (code : ResultCode) (s : Block) : (endUnfinished c code s).mem = s.mem := endJob_mem _ s (fun _ => by simp)
@[simp] theorem enterUnlock_mem (c : CurrentLoad) (s : Block) : (enterUnlock c s).mem = s.mem := by simp [enterUnlock]
@[simp] theorem failLoad_mem (c : CurrentLoad) (code : ResultCode) (s : Block) : (failLoad c code s).mem = s.mem := by unfold failLoad; split <;> simp
@[simp] theorem readBank_mem (c : CurrentLoad) (stage : LoadStage) (k words : Nat) (s : Block) : (readBank c stage k words s).mem = s.mem := by simp [readBank]
@[simp] theorem putBack_mem (c : CurrentLoad) (s : Block) : (putBack c s).mem = s.mem := by simp [putBack]
@[simp] theorem lockDone_mem (c : CurrentLoad) (value : Word) (s : Block) : (lockDone c value s).mem = s.mem := by
  unfold lockDone
  repeat' split
  all_goals simp
@[simp] theorem countRead_mem (c : CurrentLoad) (n : Nat) (s : Block) : (countRead c n s).mem = s.mem := by
  unfold countRead
  repeat' split
  all_goals simp
@[simp] theorem directoryRead_mem (c : CurrentLoad) (count position : Nat) (words : List Word) (s : Block) : (directoryRead c count position words s).mem = s.mem := by
  unfold directoryRead
  dsimp only
  repeat' split
  all_goals simp
@[simp] theorem headerRead_mem (c : CurrentLoad) (number offset : Nat) (words : List Word) (s : Block) : (headerRead c number offset words s).mem = s.mem := by
  unfold headerRead
  repeat' split
  all_goals simp
@[simp] theorem entriesRead_mem (c : CurrentLoad) (offset position : Nat) (words : List Word) (s : Block) : (entriesRead c offset position words s).mem = s.mem := by
  unfold entriesRead
  dsimp only
  repeat' split
  all_goals simp
@[simp] theorem unlockDone_mem (c : CurrentLoad) (s : Block) : (unlockDone c s).mem = s.mem := by
  unfold unlockDone
  split
  · rw [endJob_mem _ _ (fun _ => by simp)]; simp
  · simp
@[simp] theorem loaderDone_mem (words : List Word) (s : Block) : (loaderDone words s).mem = s.mem := by
  unfold loaderDone
  repeat' split
  all_goals simp
@[simp] theorem loaderFault_mem (read : Bool) (s : Block) : (loaderFault read s).mem = s.mem := by
  unfold loaderFault
  repeat' split
  all_goals simp
@[simp] theorem haltJobs_mem (jobs : List LoadJob) (s : Block) : (haltJobs jobs s).mem = s.mem := by simp [haltJobs, foldl_keeps (fun b : Block => b.mem)]
@[simp] theorem haltCurrent_mem (s : Block) : (haltCurrent s).mem = s.mem := by
  unfold haltCurrent
  repeat' split
  all_goals simp
@[simp] theorem loaderHalt_mem (s : Block) : (loaderHalt s).mem = s.mem := by simp [loaderHalt]
@[simp] theorem loaderBoundary_mem (s : Block) : (loaderBoundary s).mem = s.mem := by simp [loaderBoundary]
@[simp] theorem endShadow_mem (x : Shadow) (code : ResultCode) (s : Block) : (endShadow x code s).mem = s.mem := by unfold endShadow; split <;> simp
@[simp] theorem endStaging_mem (x : Staging) (code : ResultCode) (s : Block) : (endStaging x code s).mem = s.mem := by unfold endStaging; split <;> simp
@[simp] theorem beginTable_mem (j : TableJob) (s : Block) : (beginTable j s).mem = s.mem := by unfold beginTable; split <;> simp
@[simp] theorem takeTableJob_mem (s : Block) : (takeTableJob s).mem = s.mem := by
  unfold takeTableJob
  repeat' split
  all_goals simp
@[simp] theorem submitTable_mem (slot : Fin 32) (j : TableJob) (s : Block) : (submitTable slot j s).mem = s.mem := by unfold submitTable; split <;> simp
@[simp] theorem arrivePatch_mem (slot : Fin 32) (address count : Word) (s : Block) : (arrivePatch slot address count s).mem = s.mem := by unfold arrivePatch; split <;> simp
@[simp] theorem arriveCurve_mem (slot : Fin 32) (curve address : Word) (s : Block) : (arriveCurve slot curve address s).mem = s.mem := by unfold arriveCurve; split <;> simp
@[simp] theorem readerIdle_mem (s : Block) : (readerIdle s).mem = s.mem := by simp [readerIdle]
@[simp] theorem emptyFilling_mem (j : TableJob) (s : Block) : (emptyFilling j s).mem = s.mem := by unfold emptyFilling; split <;> simp
@[simp] theorem failTable_mem (j : TableJob) (code : ResultCode) (v1 v2 : Word) (s : Block) : (failTable j code v1 v2 s).mem = s.mem := by simp [failTable]
@[simp] theorem validatePatch_mem (slot : Fin 32) (j : TableJob) (words : List Word) (s : Block) : (validatePatch slot j words s).mem = s.mem := by
  unfold validatePatch
  dsimp only
  repeat' split
  all_goals simp
@[simp] theorem patchRead_mem (j : TableJob) (slot : Fin 32) (address : Word) (count : Nat) (words : List Word) (s : Block) : (patchRead j slot address count words s).mem = s.mem := by
  unfold patchRead
  dsimp only
  repeat' split
  all_goals simp
@[simp] theorem curveRead_mem (j : TableJob) (slot : Fin 32) (k : Fin 7) (address : Word) (words : List Word) (s : Block) : (curveRead j slot k address words s).mem = s.mem := by
  unfold curveRead
  dsimp only
  repeat' split
  all_goals simp
@[simp] theorem tablesDone_mem (words : List Word) (s : Block) : (tablesDone words s).mem = s.mem := by
  unfold tablesDone
  repeat' split
  all_goals simp
@[simp] theorem tablesFault_mem (s : Block) : (tablesFault s).mem = s.mem := by unfold tablesFault; split <;> simp
@[simp] theorem endTables_mem (code : ResultCode) (s : Block) : (endTables code s).mem = s.mem := by simp [endTables, foldl_keeps (fun b : Block => b.mem)]
@[simp] theorem tablesStop_mem (s : Block) : (tablesStop s).mem = s.mem := by simp [tablesStop]
@[simp] theorem tablesHalt_mem (s : Block) : (tablesHalt s).mem = s.mem := by unfold tablesHalt; split <;> simp
@[simp] theorem installPatch_mem (s : Block) : (installPatch s).mem = s.mem := by unfold installPatch; split <;> simp
@[simp] theorem installCurve_mem (k : Fin 7) (s : Block) : (installCurve k s).mem = s.mem := by unfold installCurve; split <;> simp
@[simp] theorem installTables_mem (s : Block) : (installTables s).mem = s.mem := by simp [installTables, foldl_keeps (fun b : Block => b.mem)]
@[simp] theorem periodEnds_mem (s : Block) : (periodEnds s).mem = s.mem := by simp [periodEnds]
@[simp] theorem arriveSetOutputs_mem (slot : Fin 32) (clock modes inverts : Word) (s : Block) : (arriveSetOutputs slot clock modes inverts s).mem = s.mem := by unfold arriveSetOutputs; split <;> simp
@[simp] theorem askStatus_mem (s : Block) : (askStatus s).mem = s.mem := by unfold askStatus; split <;> simp
@[simp] theorem joinStatus_mem (j : StatusJob) (s : Block) : (joinStatus j s).mem = s.mem := by unfold joinStatus; split <;> simp
@[simp] theorem leaveStatus_mem (s : Block) : (leaveStatus s).mem = s.mem := by simp [leaveStatus]
@[simp] theorem beginPage_mem (s : Block) : (beginPage s).mem = s.mem := by simp [beginPage]
@[simp] theorem statusDue_mem (s : Block) : (statusDue s).mem = s.mem := by
  unfold statusDue
  repeat' split
  all_goals simp
@[simp] theorem endPage_mem (s : Block) : (endPage s).mem = s.mem := by simp [endPage]
@[simp] theorem endSnapshot_mem (code : ResultCode) (s : Block) : (endSnapshot code s).mem = s.mem := by unfold endSnapshot; split <;> simp
@[simp] theorem statusDone_mem (s : Block) : (statusDone s).mem = s.mem := by
  unfold statusDone
  repeat' split
  all_goals simp
@[simp] theorem statusFault_mem (s : Block) : (statusFault s).mem = s.mem := by unfold statusFault; split <;> simp
@[simp] theorem statusHalt_mem (s : Block) : (statusHalt s).mem = s.mem := by unfold statusHalt; split <;> simp
@[simp] theorem statusStop_mem (s : Block) : (statusStop s).mem = s.mem := by unfold statusStop; split <;> simp
@[simp] theorem countStatus_mem (installed : Bool) (s : Block) : (countStatus installed s).mem = s.mem := by
  unfold countStatus
  dsimp only
  split <;> simp
@[simp] theorem arriveSnapshot_mem (slot : Fin 32) (address : Word) (s : Block) : (arriveSnapshot slot address s).mem = s.mem := by unfold arriveSnapshot; split <;> simp
@[simp] theorem copySnapshot_mem (s : Block) : (copySnapshot s).mem = s.mem := by unfold copySnapshot; split <;> simp
@[simp] theorem swap_mem (s : Block) : (swap s).mem = s.mem := by simp [swap]
@[simp] theorem passStarts_mem (s : Block) : (passStarts s).mem = s.mem := by simp [passStarts]
@[simp] theorem mixerBoundary_mem (s : Block) : (mixerBoundary s).mem = s.mem := by
  unfold mixerBoundary
  repeat' split
  all_goals simp
@[simp] theorem passEnds_mem (latch : PassLatch) (s : Block) : (passEnds latch s).mem = s.mem := by simp [passEnds]
@[simp] theorem arriveSetGrand_mem (slot : Fin 32) (level time : Word) (s : Block) : (arriveSetGrand slot level time s).mem = s.mem := by unfold arriveSetGrand; split <;> simp
@[simp] theorem arriveBlackout_mem (slot : Fin 32) (action : Word) (s : Block) : (arriveBlackout slot action s).mem = s.mem := by
  unfold arriveBlackout
  dsimp only
  split <;> simp
@[simp] theorem toggleBlackout_mem (s : Block) : (toggleBlackout s).mem = s.mem := by simp [toggleBlackout]
@[simp] theorem grandSettles_mem (s : Block) : (grandSettles s).mem = s.mem := by simp [grandSettles]
@[simp] theorem placeLine_mem (l : Fin 4) (slot : Fin 32) (c : LineConfig) (s : Block) : (placeLine l slot c s).mem = s.mem := by unfold placeLine; split <;> simp
@[simp] theorem arriveSetLine_mem (l : Fin 4) (slot : Fin 32) (mode rate count talkback base timeout action : Word) (s : Block) : (arriveSetLine l slot mode rate count talkback base timeout action s).mem = s.mem := by
  unfold arriveSetLine
  repeat' split
  all_goals simp
@[simp] theorem endQueries_mem (code : ResultCode) (qs : List Query) (s : Block) : (endQueries code qs s).mem = s.mem := by simp [endQueries, foldl_keeps (fun b : Block => b.mem)]
@[simp] theorem installLine_mem (l : Fin 4) (s : Block) : (installLine l s).mem = s.mem := by
  unfold installLine
  dsimp only
  repeat' split
  all_goals simp
@[simp] theorem startFrame_mem (l : Fin 4) (s : Block) : (startFrame l s).mem = s.mem := by unfold startFrame; split <;> simp
@[simp] theorem lineBoundary_mem (l : Fin 4) (s : Block) : (lineBoundary l s).mem = s.mem := by simp [lineBoundary]
@[simp] theorem commit_mem (l : Fin 4) (s : Block) : (commit l s).mem = s.mem := by
  unfold commit
  dsimp only
  repeat' split
  all_goals simp
@[simp] theorem mixCompletes_mem (latch : PassLatch) (s : Block) : (mixCompletes latch s).mem = s.mem := by simp [mixCompletes, foldl_keeps (fun b : Block => b.mem)]
@[simp] theorem signalExpires_mem (l : Fin 4) (s : Block) : (signalExpires l s).mem = s.mem := by unfold signalExpires; split <;> simp
@[simp] theorem receiveCharacter_mem (l : Fin 4) (flag : Bool) (data : Byte) (s : Block) : (receiveCharacter l flag data s).mem = s.mem := by
  unfold receiveCharacter
  dsimp only
  split <;> simp
@[simp] theorem receiving_mem (l : Fin 4) (f : Line → Line) (s : Block) : (receiving l f s).mem = s.mem := by unfold receiving; split <;> simp
@[simp] theorem arriveClearLine_mem (l : Fin 4) (slot : Fin 32) (s : Block) : (arriveClearLine l slot s).mem = s.mem := by simp [arriveClearLine]
@[simp] theorem dropPendingLine_mem (l : Fin 4) (s : Block) : (dropPendingLine l s).mem = s.mem := by unfold dropPendingLine; split <;> simp
@[simp] theorem dropPendingLines_mem (s : Block) : (dropPendingLines s).mem = s.mem := by simp [dropPendingLines, foldl_keeps (fun b : Block => b.mem)]
@[simp] theorem arriveQuery_mem (l : Fin 4) (slot : Fin 32) (address code count bytes0 bytes4 reply : Word) (s : Block) : (arriveQuery l slot address code count bytes0 bytes4 reply s).mem = s.mem := by
  unfold arriveQuery
  dsimp only
  repeat' split
  all_goals simp
@[simp] theorem endQuery_mem (l : Fin 4) (code : ResultCode) (v1 v2 : Word) (s : Block) : (endQuery l code v1 v2 s).mem = s.mem := by
  unfold endQuery
  repeat' split
  all_goals simp
@[simp] theorem queryFrameEnded_mem (l : Fin 4) (s : Block) : (queryFrameEnded l s).mem = s.mem := by
  unfold queryFrameEnded
  repeat' split
  all_goals simp
@[simp] theorem askTalkback_mem (s : Block) : (askTalkback s).mem = s.mem := by
  unfold askTalkback
  repeat' split
  all_goals simp
@[simp] theorem placeReply_mem (l : Fin 4) (r : Reply) (s : Block) : (placeReply l r s).mem = s.mem := by unfold placeReply; split <;> simp
@[simp] theorem replyWhole_mem (l : Fin 4) (f : InFlight) (s : Block) : (replyWhole l f s).mem = s.mem := by unfold replyWhole; split <;> simp
@[simp] theorem failReply_mem (l : Fin 4) (f : InFlight) (code : ResultCode) (reason : Nat) (s : Block) : (failReply l f code reason s).mem = s.mem := by simp [failReply]
@[simp] theorem replyCharacter_mem (l : Fin 4) (f : InFlight) (flag : Bool) (data : Byte) (s : Block) : (replyCharacter l f flag data s).mem = s.mem := by unfold replyCharacter; split <;> simp
@[simp] theorem countStray_mem (l : Fin 4) (s : Block) : (countStray l s).mem = s.mem := by simp [countStray]
@[simp] theorem talkbackCharacter_mem (l : Fin 4) (flag : Bool) (data : Byte) (s : Block) : (talkbackCharacter l flag data s).mem = s.mem := by
  unfold talkbackCharacter
  dsimp only
  repeat' split
  all_goals simp
@[simp] theorem replyStarts_mem (l : Fin 4) (s : Block) : (replyStarts l s).mem = s.mem := by unfold replyStarts; split <;> simp
@[simp] theorem replyTimesOut_mem (l : Fin 4) (s : Block) : (replyTimesOut l s).mem = s.mem := by unfold replyTimesOut; split <;> simp
@[simp] theorem replyCollides_mem (l : Fin 4) (kind : CollisionKind) (s : Block) : (replyCollides l kind s).mem = s.mem := by unfold replyCollides; split <;> simp
@[simp] theorem replyGap_mem (l : Fin 4) (s : Block) : (replyGap l s).mem = s.mem := by
  unfold replyGap
  repeat' split
  all_goals simp
@[simp] theorem windowEnds_mem (l : Fin 4) (s : Block) : (windowEnds l s).mem = s.mem := by unfold windowEnds; split <;> simp
@[simp] theorem endReply_mem (code : ResultCode) (s : Block) : (endReply code s).mem = s.mem := by
  unfold endReply
  repeat' split
  all_goals simp
@[simp] theorem stopQueries_mem (l : Fin 4) (s : Block) : (stopQueries l s).mem = s.mem := by simp [stopQueries]
@[simp] theorem haltQueries_mem (l : Fin 4) (s : Block) : (haltQueries l s).mem = s.mem := by
  unfold haltQueries
  dsimp only
  split <;> simp
@[simp] theorem talkbackStop_mem (s : Block) : (talkbackStop s).mem = s.mem := by simp [talkbackStop, foldl_keeps (fun b : Block => b.mem)]
@[simp] theorem forgetQueries_mem (s : Block) : (forgetQueries s).mem = s.mem := rfl

@[simp] theorem talkbackHalt_mem (s : Block) : (talkbackHalt s).mem = s.mem := by simp [talkbackHalt, foldl_keeps (fun b : Block => b.mem)]
@[simp] theorem performAction_mem (t : Fin 8) (r : TriggerRecord) (s : Block) : (performAction t r s).mem = s.mem := by unfold performAction; split <;> simp
@[simp] theorem examineEdge_mem (t : Fin 8) (level : Bool) (s : Block) : (examineEdge t level s).mem = s.mem := by
  unfold examineEdge
  dsimp only
  repeat' split
  all_goals simp
@[simp] theorem settle_mem (t : Fin 8) (level : Bool) (s : Block) : (settle t level s).mem = s.mem := by simp [settle]
@[simp] theorem pinChanges_mem (t : Fin 8) (level : Bool) (s : Block) : (pinChanges t level s).mem = s.mem := by
  unfold pinChanges
  dsimp only
  repeat' split
  all_goals simp
@[simp] theorem debounceEnds_mem (t : Fin 8) (s : Block) : (debounceEnds t s).mem = s.mem := by simp [debounceEnds]
@[simp] theorem arriveSetTrigger_mem (t : Fin 8) (slot : Fin 32) (edge debounce action playback bank cue time : Word) (s : Block) : (arriveSetTrigger t slot edge debounce action playback bank cue time s).mem = s.mem := by unfold arriveSetTrigger; split <;> simp
@[simp] theorem tick_mem (s : Block) : (tick s).mem = s.mem := by simp [tick]
@[simp] theorem placeFrame_mem (slot : Fin 32) (v : FrameValues) (s : Block) : (placeFrame slot v s).mem = s.mem := by unfold placeFrame; split <;> simp
@[simp] theorem arriveSetFrame_mem (slot : Fin 32) (period scan status : Word) (s : Block) : (arriveSetFrame slot period scan status s).mem = s.mem := by
  unfold arriveSetFrame
  repeat' split
  all_goals simp
@[simp] theorem installFrame_mem (s : Block) : (installFrame s).mem = s.mem := by unfold installFrame; split <;> simp
@[simp] theorem dropPendingFrame_mem (s : Block) : (dropPendingFrame s).mem = s.mem := by unfold dropPendingFrame; split <;> simp
@[simp] theorem frameExpires_mem (s : Block) : (frameExpires s).mem = s.mem := by simp [frameExpires]
theorem withTarget_mem (n : Nat) (slot : Fin 32) (w : Word) (f : Fin n → Block → Block) (s : Block) (h : ∀ x t, (f x t).mem = t.mem) : (withTarget n slot w f s).mem = s.mem := by unfold withTarget; split <;> simp [h]
@[simp] theorem dispatchSetLine_mem (slot : Fin 32) (line mode rate count talkback base timeout action : Word) (s : Block) : (dispatchSetLine slot line mode rate count talkback base timeout action s).mem = s.mem := withTarget_mem _ _ _ _ s (fun _ _ => by simp)
@[simp] theorem dispatchSetTrigger_mem (slot : Fin 32) (trigger edge debounce action playback bank cue time : Word) (s : Block) : (dispatchSetTrigger slot trigger edge debounce action playback bank cue time s).mem = s.mem := withTarget_mem _ _ _ _ s (fun _ _ => by simp)
@[simp] theorem dispatchClearLine_mem (slot : Fin 32) (line : Word) (s : Block) : (dispatchClearLine slot line s).mem = s.mem := withTarget_mem _ _ _ _ s (fun _ _ => by simp)
@[simp] theorem dispatchQuery_mem (slot : Fin 32) (line address code count bytes0 bytes4 reply : Word) (s : Block) : (dispatchQuery slot line address code count bytes0 bytes4 reply s).mem = s.mem := withTarget_mem _ _ _ _ s (fun _ _ => by simp)
@[simp] theorem dispatchGo_mem (slot : Fin 32) (playback bank cue time : Word) (s : Block) : (dispatchGo slot playback bank cue time s).mem = s.mem := withTarget_mem _ _ _ _ s (fun _ _ => by simp)
@[simp] theorem dispatchGoNext_mem (slot : Fin 32) (playback bank : Word) (s : Block) : (dispatchGoNext slot playback bank s).mem = s.mem := withTarget_mem _ _ _ _ s (fun _ _ => by simp)
@[simp] theorem dispatchPause_mem (slot : Fin 32) (playback : Word) (s : Block) : (dispatchPause slot playback s).mem = s.mem := withTarget_mem _ _ _ _ s (fun _ _ => by simp)
@[simp] theorem dispatchResume_mem (slot : Fin 32) (playback : Word) (s : Block) : (dispatchResume slot playback s).mem = s.mem := withTarget_mem _ _ _ _ s (fun _ _ => by simp)
@[simp] theorem dispatchRelease_mem (slot : Fin 32) (playback time : Word) (s : Block) : (dispatchRelease slot playback time s).mem = s.mem := withTarget_mem _ _ _ _ s (fun _ _ => by simp)
@[simp] theorem dispatchSetMaster_mem (slot : Fin 32) (playback level time : Word) (s : Block) : (dispatchSetMaster slot playback level time s).mem = s.mem := withTarget_mem _ _ _ _ s (fun _ _ => by simp)
@[simp] theorem dispatch_mem (slot : Fin 32) (words : List Word) (s : Block) : (dispatch slot words s).mem = s.mem := by unfold dispatch; split <;> simp
@[simp] theorem startScan_mem (s : Block) : (startScan s).mem = s.mem := by simp [startScan]
@[simp] theorem scanDue_mem (s : Block) : (scanDue s).mem = s.mem := by unfold scanDue; split <;> simp
@[simp] theorem endScan_mem (s : Block) : (endScan s).mem = s.mem := by unfold endScan; split <;> simp
@[simp] theorem visit_mem (taken : Nat) (s : Block) (xs : List (Fin 32)) : (visit taken s xs).mem = s.mem := by
  induction xs with
  | nil => simp [visit]
  | cons i rest ih =>
    rw [visit]
    split
    · simp
    · split
      · exact ih
      · split <;> simp
@[simp] theorem rowRead_mem (row words : List Word) (s : Block) : (rowRead row words s).mem = s.mem := by
  unfold rowRead
  dsimp only
  split <;> simp
@[simp] theorem claimDone_mem (i : Fin 32) (rest : List (Fin 32)) (taken : Nat) (value : Word) (s : Block) : (claimDone i rest taken value s).mem = s.mem := by
  unfold claimDone
  repeat' split
  all_goals simp
@[simp] theorem bodyDone_mem (i : Fin 32) (rest : List (Fin 32)) (taken : Nat) (words : List Word) (s : Block) : (bodyDone i rest taken words s).mem = s.mem := by unfold bodyDone; split <;> simp
@[simp] theorem scannerDone_mem (words : List Word) (s : Block) : (scannerDone words s).mem = s.mem := by unfold scannerDone; split <;> simp
@[simp] theorem scannerFault_mem (s : Block) : (scannerFault s).mem = s.mem := by unfold scannerFault; split <;> simp
@[simp] theorem scannerHalt_mem (s : Block) : (scannerHalt s).mem = s.mem := by unfold scannerHalt; split <;> simp
@[simp] theorem countScan_mem (installed : Bool) (s : Block) : (countScan installed s).mem = s.mem := by
  unfold countScan
  dsimp only
  split <;> simp
@[simp] theorem resultsDone_mem (s : Block) : (resultsDone s).mem = s.mem := by unfold resultsDone; split <;> simp
@[simp] theorem resultsFault_mem (s : Block) : (resultsFault s).mem = s.mem := rfl
@[simp] theorem resultsBoundary_mem (s : Block) : (resultsBoundary s).mem = s.mem := by unfold resultsBoundary; split <;> simp
@[simp] theorem resultsHalt_mem (s : Block) : (resultsHalt s).mem = s.mem := rfl
@[simp] theorem enterStarting_mem (s : Block) : (enterStarting s).mem = s.mem := by simp [enterStarting]
@[simp] theorem startIfSet_mem (s : Block) : (startIfSet s).mem = s.mem := by unfold startIfSet; split <;> simp
@[simp] theorem enterStopped_mem (s : Block) : (enterStopped s).mem = s.mem := by simp [enterStopped]
@[simp] theorem anchorBad_mem (s : Block) : (anchorBad s).mem = s.mem := rfl
@[simp] theorem enterRunning_mem (s : Block) : (enterRunning s).mem = s.mem := rfl
@[simp] theorem sweepFrom_mem (bank : Nat) (s : Block) : (sweepFrom bank s).mem = s.mem := by unfold sweepFrom; split <;> simp
@[simp] theorem anchorRead_mem (before words : List Word) (s : Block) : (anchorRead before words s).mem = s.mem := by
  unfold anchorRead
  dsimp only
  repeat' split
  all_goals simp
@[simp] theorem startDone_mem (words : List Word) (s : Block) : (startDone words s).mem = s.mem := by
  unfold startDone
  repeat' split
  all_goals simp
@[simp] theorem startFault_mem (s : Block) : (startFault s).mem = s.mem := by unfold startFault; split <;> simp
@[simp] theorem abortStart_mem (done : Nat) (s : Block) : (abortStart done s).mem = s.mem := by unfold abortStart; split <;> simp
@[simp] theorem enterStopping_mem (s : Block) : (enterStopping s).mem = s.mem := by simp [enterStopping]
@[simp] theorem enterHalted_mem (s : Block) : (enterHalted s).mem = s.mem := by simp [enterHalted]
@[simp] theorem leaveHalted_mem (s : Block) : (leaveHalted s).mem = s.mem := by simp [leaveHalted]
@[simp] theorem writeControl_mem (v : Word) (done : Nat) (s : Block) : (writeControl v done s).mem = s.mem := by unfold writeControl; split <;> simp
@[simp] theorem beginCounting_mem (s : Block) : (beginCounting s).mem = s.mem := by simp [beginCounting]
@[simp] theorem releaseReset_mem (s : Block) : (releaseReset s).mem = s.mem := by unfold releaseReset; split <;> simp
@[simp] theorem clockLocks_mem (s : Block) : (clockLocks s).mem = s.mem := by unfold clockLocks; split <;> simp
@[simp] theorem clientDone_mem (c : Client) (words : List Word) (s : Block) : (clientDone c words s).mem = s.mem := by
  unfold clientDone
  repeat' split
  all_goals simp
@[simp] theorem clientFault_mem (c : Client) (words : List Word) (s : Block) : (clientFault c words s).mem = s.mem := by
  unfold clientFault
  repeat' split
  all_goals simp
@[simp] theorem serveNext_mem (s : Block) : (serveNext s).mem = s.mem := rfl
@[simp] theorem takeBoundary_mem (installed : Bool) (b : BoundaryTaker) (s : Block) : (takeBoundary installed b s).mem = s.mem := by unfold takeBoundary; split <;> simp
@[simp] theorem frameBoundary_mem (order : List BoundaryTaker) (s : Block) : (frameBoundary order s).mem = s.mem := by simp [frameBoundary, foldl_keeps (fun b : Block => b.mem)]
@[simp] theorem endPass_mem (s : Block) : (endPass s).mem = s.mem := by unfold endPass; split <;> simp
@[simp] theorem masterSettles_mem (p : Fin 8) (s : Block) : (masterSettles p s).mem = s.mem := by simp [masterSettles]
@[simp] theorem movePin_mem (t : Fin 8) (level : Bool) (s : Block) : (movePin t level s).mem = s.mem := rfl
theorem receiverEvent_mem (l : Fin 4) (frame : Line → Line) (reply : Block → Block) (s : Block) (h : ∀ t, (reply t).mem = t.mem) : (receiverEvent l frame reply s).mem = s.mem := by
  unfold receiverEvent
  dsimp only
  repeat' split
  all_goals simp [h]

end Sys2Proof.Machine
end

