-- ==== Sys2Proof/Laws/FramesMore.lean ====
section
/-! SUPPORT. Which operations leave the engine controller, CONTROL, the time base, the frame store and the local outputs as they
are. -/

namespace Sys2Proof.Machine


@[simp] theorem edit_engine (p : Fin 8) (freed : Nat) (s : Block) : (edit p freed s).engine = s.engine := by unfold edit; split <;> simp
@[simp] theorem takeLoadJob_engine (s : Block) : (takeLoadJob s).engine = s.engine := by
  unfold takeLoadJob
  repeat' split
  all_goals simp
@[simp] theorem submitLoad_engine (p : Fin 8) (bank : Nat) (search : Search) (s : Block) : (submitLoad p bank search s).engine = s.engine := by simp [submitLoad]
@[simp] theorem followEnd_engine (p : Fin 8) (s : Block) : (followEnd p s).engine = s.engine := by
  unfold followEnd
  dsimp only
  split <;> simp
@[simp] theorem followIfDue_engine (p : Fin 8) (s : Block) : (followIfDue p s).engine = s.engine := by unfold followIfDue; split <;> simp
@[simp] theorem fadeEnds_engine (p : Fin 8) (s : Block) : (fadeEnds p s).engine = s.engine := by
  unfold fadeEnds
  dsimp only
  split <;> simp
@[simp] theorem fadeEndIfDue_engine (p : Fin 8) (s : Block) : (fadeEndIfDue p s).engine = s.engine := by unfold fadeEndIfDue; split <;> simp
@[simp] theorem finishHead_engine (p : Fin 8) (code : ResultCode) (v1 v2 : Word) (s : Block) : (finishHead p code v1 v2 s).engine = s.engine := by unfold finishHead; split <;> simp
@[simp] theorem servePause_engine (p : Fin 8) (s : Block) : (servePause p s).engine = s.engine := by
  unfold servePause
  dsimp only
  split <;> simp
@[simp] theorem serveResume_engine (p : Fin 8) (s : Block) : (serveResume p s).engine = s.engine := by
  unfold serveResume
  dsimp only
  split <;> simp
@[simp] theorem serveLoad_engine (p : Fin 8) (choice : Option (Nat × Search)) (s : Block) : (serveLoad p choice s).engine = s.engine := by
  unfold serveLoad
  repeat' split
  all_goals simp
@[simp] theorem serveHead_engine (p : Fin 8) (s : Block) : (serveHead p s).engine = s.engine := by
  unfold serveHead
  dsimp only
  repeat' split
  all_goals simp
@[simp] theorem serveUpTo_engine (n : Nat) (p : Fin 8) (s : Block) : (serveUpTo n p s).engine = s.engine := by
  induction n generalizing s with
  | zero => rfl
  | succ n ih => unfold serveUpTo; split <;> simp [ih]
@[simp] theorem serve_engine (p : Fin 8) (s : Block) : (serve p s).engine = s.engine := by simp [serve]
@[simp] theorem queueFull_engine (o : Origin) (s : Block) : (queueFull o s).engine = s.engine := by unfold queueFull; split <;> simp
@[simp] theorem arriveQueued_engine (p : Fin 8) (o : Origin) (k : QueuedKind) (s : Block) : (arriveQueued p o k s).engine = s.engine := by
  unfold arriveQueued
  repeat' split
  all_goals simp
@[simp] theorem cancelRequests_engine (rs : List QueuedRequest) (s : Block) : (cancelRequests rs s).engine = s.engine := by simp [cancelRequests, foldl_keeps (fun b : Block => b.engine)]
@[simp] theorem markAbandoned_engine (p : Fin 8) (s : Block) : (markAbandoned p s).engine = s.engine := by
  unfold markAbandoned
  repeat' split
  all_goals simp
@[simp] theorem abandonLoad_engine (p : Fin 8) (s : Block) : (abandonLoad p s).engine = s.engine := by unfold abandonLoad; split <;> simp
@[simp] theorem cancelAndAbandon_engine (p : Fin 8) (s : Block) : (cancelAndAbandon p s).engine = s.engine := by simp [cancelAndAbandon]
@[simp] theorem releaseBuild_engine (p : Fin 8) (time : Option Nat) (s : Block) : (releaseBuild p time s).engine = s.engine := by simp [releaseBuild]
@[simp] theorem arriveRelease_engine (p : Fin 8) (o : Origin) (time : Option Nat) (s : Block) : (arriveRelease p o time s).engine = s.engine := by
  unfold arriveRelease
  dsimp only
  repeat' split
  all_goals simp
@[simp] theorem arriveSetMaster_engine (p : Fin 8) (slot : Fin 32) (level time : Word) (s : Block) : (arriveSetMaster p slot level time s).engine = s.engine := by unfold arriveSetMaster; split <;> simp
@[simp] theorem clearPlayback_engine (p : Fin 8) (s : Block) : (clearPlayback p s).engine = s.engine := by simp [clearPlayback]
@[simp] theorem clearPlaybacks_engine (s : Block) : (clearPlaybacks s).engine = s.engine := by simp [clearPlaybacks, foldl_keeps (fun b : Block => b.engine)]
@[simp] theorem loadCompleted_engine (p : Fin 8) (bank : Nat) (h : CueHeader) (s : Block) : (loadCompleted p bank h s).engine = s.engine := by simp [loadCompleted]
@[simp] theorem loadEnded_engine (p : Fin 8) (code : ResultCode) (s : Block) : (loadEnded p code s).engine = s.engine := by simp [loadEnded]
@[simp] theorem freeLoad_engine (p : Fin 8) (s : Block) : (freeLoad p s).engine = s.engine := by simp [freeLoad]
theorem endJob_engine (report : Block → Block) (s : Block) (h : ∀ t, (report t).engine = t.engine) : (endJob report s).engine = s.engine := by simp [endJob, h]
@[simp] theorem endUnfinished_engine (c : CurrentLoad) (code : ResultCode) (s : Block) : (endUnfinished c code s).engine = s.engine := endJob_engine _ s (fun _ => by simp)
@[simp] theorem enterUnlock_engine (c : CurrentLoad) (s : Block) : (enterUnlock c s).engine = s.engine := by simp [enterUnlock]
@[simp] theorem failLoad_engine (c : CurrentLoad) (code : ResultCode) (s : Block) : (failLoad c code s).engine = s.engine := by unfold failLoad; split <;> simp
@[simp] theorem readBank_engine (c : CurrentLoad) (stage : LoadStage) (k words : Nat) (s : Block) : (readBank c stage k words s).engine = s.engine := by simp [readBank]
@[simp] theorem putBack_engine (c : CurrentLoad) (s : Block) : (putBack c s).engine = s.engine := by simp [putBack]
@[simp] theorem lockDone_engine (c : CurrentLoad) (value : Word) (s : Block) : (lockDone c value s).engine = s.engine := by
  unfold lockDone
  repeat' split
  all_goals simp
@[simp] theorem countRead_engine (c : CurrentLoad) (n : Nat) (s : Block) : (countRead c n s).engine = s.engine := by
  unfold countRead
  repeat' split
  all_goals simp
@[simp] theorem directoryRead_engine (c : CurrentLoad) (count position : Nat) (words : List Word) (s : Block) : (directoryRead c count position words s).engine = s.engine := by
  unfold directoryRead
  dsimp only
  repeat' split
  all_goals simp
@[simp] theorem headerRead_engine (c : CurrentLoad) (number offset : Nat) (words : List Word) (s : Block) : (headerRead c number offset words s).engine = s.engine := by
  unfold headerRead
  repeat' split
  all_goals simp
@[simp] theorem entriesRead_engine (c : CurrentLoad) (offset position : Nat) (words : List Word) (s : Block) : (entriesRead c offset position words s).engine = s.engine := by
  unfold entriesRead
  dsimp only
  repeat' split
  all_goals simp
@[simp] theorem unlockDone_engine (c : CurrentLoad) (s : Block) : (unlockDone c s).engine = s.engine := by
  unfold unlockDone
  split
  · rw [endJob_engine _ _ (fun _ => by simp)]; simp
  · simp
@[simp] theorem loaderDone_engine (words : List Word) (s : Block) : (loaderDone words s).engine = s.engine := by
  unfold loaderDone
  repeat' split
  all_goals simp
@[simp] theorem loaderFault_engine (read : Bool) (s : Block) : (loaderFault read s).engine = s.engine := by
  unfold loaderFault
  repeat' split
  all_goals simp
@[simp] theorem haltJobs_engine (jobs : List LoadJob) (s : Block) : (haltJobs jobs s).engine = s.engine := by simp [haltJobs, foldl_keeps (fun b : Block => b.engine)]
@[simp] theorem haltCurrent_engine (s : Block) : (haltCurrent s).engine = s.engine := by
  unfold haltCurrent
  repeat' split
  all_goals simp
@[simp] theorem loaderHalt_engine (s : Block) : (loaderHalt s).engine = s.engine := by simp [loaderHalt]
@[simp] theorem loaderBoundary_engine (s : Block) : (loaderBoundary s).engine = s.engine := by simp [loaderBoundary]
@[simp] theorem endShadow_engine (x : Shadow) (code : ResultCode) (s : Block) : (endShadow x code s).engine = s.engine := by unfold endShadow; split <;> simp
@[simp] theorem endStaging_engine (x : Staging) (code : ResultCode) (s : Block) : (endStaging x code s).engine = s.engine := by unfold endStaging; split <;> simp
@[simp] theorem beginTable_engine (j : TableJob) (s : Block) : (beginTable j s).engine = s.engine := by unfold beginTable; split <;> simp
@[simp] theorem takeTableJob_engine (s : Block) : (takeTableJob s).engine = s.engine := by
  unfold takeTableJob
  repeat' split
  all_goals simp
@[simp] theorem submitTable_engine (slot : Fin 32) (j : TableJob) (s : Block) : (submitTable slot j s).engine = s.engine := by unfold submitTable; split <;> simp
@[simp] theorem arrivePatch_engine (slot : Fin 32) (address count : Word) (s : Block) : (arrivePatch slot address count s).engine = s.engine := by unfold arrivePatch; split <;> simp
@[simp] theorem arriveCurve_engine (slot : Fin 32) (curve address : Word) (s : Block) : (arriveCurve slot curve address s).engine = s.engine := by unfold arriveCurve; split <;> simp
@[simp] theorem readerIdle_engine (s : Block) : (readerIdle s).engine = s.engine := by simp [readerIdle]
@[simp] theorem emptyFilling_engine (j : TableJob) (s : Block) : (emptyFilling j s).engine = s.engine := by unfold emptyFilling; split <;> simp
@[simp] theorem failTable_engine (j : TableJob) (code : ResultCode) (v1 v2 : Word) (s : Block) : (failTable j code v1 v2 s).engine = s.engine := by simp [failTable]
@[simp] theorem validatePatch_engine (slot : Fin 32) (j : TableJob) (words : List Word) (s : Block) : (validatePatch slot j words s).engine = s.engine := by
  unfold validatePatch
  dsimp only
  repeat' split
  all_goals simp
@[simp] theorem patchRead_engine (j : TableJob) (slot : Fin 32) (address : Word) (count : Nat) (words : List Word) (s : Block) : (patchRead j slot address count words s).engine = s.engine := by
  unfold patchRead
  dsimp only
  repeat' split
  all_goals simp
@[simp] theorem curveRead_engine (j : TableJob) (slot : Fin 32) (k : Fin 7) (address : Word) (words : List Word) (s : Block) : (curveRead j slot k address words s).engine = s.engine := by
  unfold curveRead
  dsimp only
  repeat' split
  all_goals simp
@[simp] theorem tablesDone_engine (words : List Word) (s : Block) : (tablesDone words s).engine = s.engine := by
  unfold tablesDone
  repeat' split
  all_goals simp
@[simp] theorem tablesFault_engine (s : Block) : (tablesFault s).engine = s.engine := by unfold tablesFault; split <;> simp
@[simp] theorem endTables_engine (code : ResultCode) (s : Block) : (endTables code s).engine = s.engine := by simp [endTables, foldl_keeps (fun b : Block => b.engine)]
@[simp] theorem tablesStop_engine (s : Block) : (tablesStop s).engine = s.engine := by simp [tablesStop]
@[simp] theorem tablesHalt_engine (s : Block) : (tablesHalt s).engine = s.engine := by unfold tablesHalt; split <;> simp
@[simp] theorem installPatch_engine (s : Block) : (installPatch s).engine = s.engine := by unfold installPatch; split <;> simp
@[simp] theorem installCurve_engine (k : Fin 7) (s : Block) : (installCurve k s).engine = s.engine := by unfold installCurve; split <;> simp
@[simp] theorem installTables_engine (s : Block) : (installTables s).engine = s.engine := by simp [installTables, foldl_keeps (fun b : Block => b.engine)]
@[simp] theorem periodEnds_engine (s : Block) : (periodEnds s).engine = s.engine := by simp [periodEnds]
@[simp] theorem arriveSetOutputs_engine (slot : Fin 32) (clock modes inverts : Word) (s : Block) : (arriveSetOutputs slot clock modes inverts s).engine = s.engine := by unfold arriveSetOutputs; split <;> simp
@[simp] theorem askStatus_engine (s : Block) : (askStatus s).engine = s.engine := by unfold askStatus; split <;> simp
@[simp] theorem joinStatus_engine (j : StatusJob) (s : Block) : (joinStatus j s).engine = s.engine := by unfold joinStatus; split <;> simp
@[simp] theorem leaveStatus_engine (s : Block) : (leaveStatus s).engine = s.engine := by simp [leaveStatus]
@[simp] theorem beginPage_engine (s : Block) : (beginPage s).engine = s.engine := by simp [beginPage]
@[simp] theorem statusDue_engine (s : Block) : (statusDue s).engine = s.engine := by
  unfold statusDue
  repeat' split
  all_goals simp
@[simp] theorem endPage_engine (s : Block) : (endPage s).engine = s.engine := by simp [endPage]
@[simp] theorem endSnapshot_engine (code : ResultCode) (s : Block) : (endSnapshot code s).engine = s.engine := by unfold endSnapshot; split <;> simp
@[simp] theorem statusDone_engine (s : Block) : (statusDone s).engine = s.engine := by
  unfold statusDone
  repeat' split
  all_goals simp
@[simp] theorem statusFault_engine (s : Block) : (statusFault s).engine = s.engine := by unfold statusFault; split <;> simp
@[simp] theorem statusHalt_engine (s : Block) : (statusHalt s).engine = s.engine := by unfold statusHalt; split <;> simp
@[simp] theorem statusStop_engine (s : Block) : (statusStop s).engine = s.engine := by unfold statusStop; split <;> simp
@[simp] theorem countStatus_engine (installed : Bool) (s : Block) : (countStatus installed s).engine = s.engine := by
  unfold countStatus
  dsimp only
  split <;> simp
@[simp] theorem arriveSnapshot_engine (slot : Fin 32) (address : Word) (s : Block) : (arriveSnapshot slot address s).engine = s.engine := by unfold arriveSnapshot; split <;> simp
@[simp] theorem copySnapshot_engine (s : Block) : (copySnapshot s).engine = s.engine := by unfold copySnapshot; split <;> simp
@[simp] theorem swap_engine (s : Block) : (swap s).engine = s.engine := by simp [swap]
@[simp] theorem passStarts_engine (s : Block) : (passStarts s).engine = s.engine := by simp [passStarts]
@[simp] theorem mixerBoundary_engine (s : Block) : (mixerBoundary s).engine = s.engine := by
  unfold mixerBoundary
  repeat' split
  all_goals simp
@[simp] theorem passEnds_engine (latch : PassLatch) (s : Block) : (passEnds latch s).engine = s.engine := by simp [passEnds]
@[simp] theorem arriveSetGrand_engine (slot : Fin 32) (level time : Word) (s : Block) : (arriveSetGrand slot level time s).engine = s.engine := by unfold arriveSetGrand; split <;> simp
@[simp] theorem arriveBlackout_engine (slot : Fin 32) (action : Word) (s : Block) : (arriveBlackout slot action s).engine = s.engine := by
  unfold arriveBlackout
  dsimp only
  split <;> simp
@[simp] theorem toggleBlackout_engine (s : Block) : (toggleBlackout s).engine = s.engine := by simp [toggleBlackout]
@[simp] theorem grandSettles_engine (s : Block) : (grandSettles s).engine = s.engine := by simp [grandSettles]
@[simp] theorem placeLine_engine (l : Fin 4) (slot : Fin 32) (c : LineConfig) (s : Block) : (placeLine l slot c s).engine = s.engine := by unfold placeLine; split <;> simp
@[simp] theorem arriveSetLine_engine (l : Fin 4) (slot : Fin 32) (mode rate count talkback base timeout action : Word) (s : Block) : (arriveSetLine l slot mode rate count talkback base timeout action s).engine = s.engine := by
  unfold arriveSetLine
  repeat' split
  all_goals simp
@[simp] theorem endQueries_engine (code : ResultCode) (qs : List Query) (s : Block) : (endQueries code qs s).engine = s.engine := by simp [endQueries, foldl_keeps (fun b : Block => b.engine)]
@[simp] theorem installLine_engine (l : Fin 4) (s : Block) : (installLine l s).engine = s.engine := by
  unfold installLine
  dsimp only
  repeat' split
  all_goals simp
@[simp] theorem startFrame_engine (l : Fin 4) (s : Block) : (startFrame l s).engine = s.engine := by unfold startFrame; split <;> simp
@[simp] theorem lineBoundary_engine (l : Fin 4) (s : Block) : (lineBoundary l s).engine = s.engine := by simp [lineBoundary]
@[simp] theorem commit_engine (l : Fin 4) (s : Block) : (commit l s).engine = s.engine := by
  unfold commit
  dsimp only
  repeat' split
  all_goals simp
@[simp] theorem mixCompletes_engine (latch : PassLatch) (s : Block) : (mixCompletes latch s).engine = s.engine := by simp [mixCompletes, foldl_keeps (fun b : Block => b.engine)]
@[simp] theorem signalExpires_engine (l : Fin 4) (s : Block) : (signalExpires l s).engine = s.engine := by unfold signalExpires; split <;> simp
@[simp] theorem receiveCharacter_engine (l : Fin 4) (flag : Bool) (data : Byte) (s : Block) : (receiveCharacter l flag data s).engine = s.engine := by
  unfold receiveCharacter
  dsimp only
  split <;> simp
@[simp] theorem receiving_engine (l : Fin 4) (f : Line → Line) (s : Block) : (receiving l f s).engine = s.engine := by unfold receiving; split <;> simp
@[simp] theorem arriveClearLine_engine (l : Fin 4) (slot : Fin 32) (s : Block) : (arriveClearLine l slot s).engine = s.engine := by simp [arriveClearLine]
@[simp] theorem dropPendingLine_engine (l : Fin 4) (s : Block) : (dropPendingLine l s).engine = s.engine := by unfold dropPendingLine; split <;> simp
@[simp] theorem dropPendingLines_engine (s : Block) : (dropPendingLines s).engine = s.engine := by simp [dropPendingLines, foldl_keeps (fun b : Block => b.engine)]
@[simp] theorem arriveQuery_engine (l : Fin 4) (slot : Fin 32) (address code count bytes0 bytes4 reply : Word) (s : Block) : (arriveQuery l slot address code count bytes0 bytes4 reply s).engine = s.engine := by
  unfold arriveQuery
  dsimp only
  repeat' split
  all_goals simp
@[simp] theorem endQuery_engine (l : Fin 4) (code : ResultCode) (v1 v2 : Word) (s : Block) : (endQuery l code v1 v2 s).engine = s.engine := by
  unfold endQuery
  repeat' split
  all_goals simp
@[simp] theorem queryFrameEnded_engine (l : Fin 4) (s : Block) : (queryFrameEnded l s).engine = s.engine := by
  unfold queryFrameEnded
  repeat' split
  all_goals simp
@[simp] theorem askTalkback_engine (s : Block) : (askTalkback s).engine = s.engine := by
  unfold askTalkback
  repeat' split
  all_goals simp
@[simp] theorem placeReply_engine (l : Fin 4) (r : Reply) (s : Block) : (placeReply l r s).engine = s.engine := by unfold placeReply; split <;> simp
@[simp] theorem replyWhole_engine (l : Fin 4) (f : InFlight) (s : Block) : (replyWhole l f s).engine = s.engine := by unfold replyWhole; split <;> simp
@[simp] theorem failReply_engine (l : Fin 4) (f : InFlight) (code : ResultCode) (reason : Nat) (s : Block) : (failReply l f code reason s).engine = s.engine := by simp [failReply]
@[simp] theorem replyCharacter_engine (l : Fin 4) (f : InFlight) (flag : Bool) (data : Byte) (s : Block) : (replyCharacter l f flag data s).engine = s.engine := by unfold replyCharacter; split <;> simp
@[simp] theorem countStray_engine (l : Fin 4) (s : Block) : (countStray l s).engine = s.engine := by simp [countStray]
@[simp] theorem talkbackCharacter_engine (l : Fin 4) (flag : Bool) (data : Byte) (s : Block) : (talkbackCharacter l flag data s).engine = s.engine := by
  unfold talkbackCharacter
  dsimp only
  repeat' split
  all_goals simp
@[simp] theorem replyStarts_engine (l : Fin 4) (s : Block) : (replyStarts l s).engine = s.engine := by unfold replyStarts; split <;> simp
@[simp] theorem replyTimesOut_engine (l : Fin 4) (s : Block) : (replyTimesOut l s).engine = s.engine := by unfold replyTimesOut; split <;> simp
@[simp] theorem replyCollides_engine (l : Fin 4) (kind : CollisionKind) (s : Block) : (replyCollides l kind s).engine = s.engine := by unfold replyCollides; split <;> simp
@[simp] theorem replyGap_engine (l : Fin 4) (s : Block) : (replyGap l s).engine = s.engine := by
  unfold replyGap
  repeat' split
  all_goals simp
@[simp] theorem windowEnds_engine (l : Fin 4) (s : Block) : (windowEnds l s).engine = s.engine := by unfold windowEnds; split <;> simp
@[simp] theorem endReply_engine (code : ResultCode) (s : Block) : (endReply code s).engine = s.engine := by
  unfold endReply
  repeat' split
  all_goals simp
@[simp] theorem stopQueries_engine (l : Fin 4) (s : Block) : (stopQueries l s).engine = s.engine := by simp [stopQueries]
@[simp] theorem haltQueries_engine (l : Fin 4) (s : Block) : (haltQueries l s).engine = s.engine := by
  unfold haltQueries
  dsimp only
  split <;> simp
@[simp] theorem talkbackStop_engine (s : Block) : (talkbackStop s).engine = s.engine := by simp [talkbackStop, foldl_keeps (fun b : Block => b.engine)]
@[simp] theorem forgetQueries_engine (s : Block) : (forgetQueries s).engine = s.engine := rfl

@[simp] theorem talkbackHalt_engine (s : Block) : (talkbackHalt s).engine = s.engine := by simp [talkbackHalt, foldl_keeps (fun b : Block => b.engine)]
@[simp] theorem performAction_engine (t : Fin 8) (r : TriggerRecord) (s : Block) : (performAction t r s).engine = s.engine := by unfold performAction; split <;> simp
@[simp] theorem examineEdge_engine (t : Fin 8) (level : Bool) (s : Block) : (examineEdge t level s).engine = s.engine := by
  unfold examineEdge
  dsimp only
  repeat' split
  all_goals simp
@[simp] theorem settle_engine (t : Fin 8) (level : Bool) (s : Block) : (settle t level s).engine = s.engine := by simp [settle]
@[simp] theorem pinChanges_engine (t : Fin 8) (level : Bool) (s : Block) : (pinChanges t level s).engine = s.engine := by
  unfold pinChanges
  dsimp only
  repeat' split
  all_goals simp
@[simp] theorem debounceEnds_engine (t : Fin 8) (s : Block) : (debounceEnds t s).engine = s.engine := by simp [debounceEnds]
@[simp] theorem arriveSetTrigger_engine (t : Fin 8) (slot : Fin 32) (edge debounce action playback bank cue time : Word) (s : Block) : (arriveSetTrigger t slot edge debounce action playback bank cue time s).engine = s.engine := by unfold arriveSetTrigger; split <;> simp
@[simp] theorem tick_engine (s : Block) : (tick s).engine = s.engine := by simp [tick]
@[simp] theorem placeFrame_engine (slot : Fin 32) (v : FrameValues) (s : Block) : (placeFrame slot v s).engine = s.engine := by unfold placeFrame; split <;> simp
@[simp] theorem arriveSetFrame_engine (slot : Fin 32) (period scan status : Word) (s : Block) : (arriveSetFrame slot period scan status s).engine = s.engine := by
  unfold arriveSetFrame
  repeat' split
  all_goals simp
@[simp] theorem installFrame_engine (s : Block) : (installFrame s).engine = s.engine := by unfold installFrame; split <;> simp
@[simp] theorem dropPendingFrame_engine (s : Block) : (dropPendingFrame s).engine = s.engine := by unfold dropPendingFrame; split <;> simp
@[simp] theorem frameExpires_engine (s : Block) : (frameExpires s).engine = s.engine := by simp [frameExpires]
theorem withTarget_engine (n : Nat) (slot : Fin 32) (w : Word) (f : Fin n → Block → Block) (s : Block) (h : ∀ x t, (f x t).engine = t.engine) : (withTarget n slot w f s).engine = s.engine := by unfold withTarget; split <;> simp [h]
@[simp] theorem dispatchSetLine_engine (slot : Fin 32) (line mode rate count talkback base timeout action : Word) (s : Block) : (dispatchSetLine slot line mode rate count talkback base timeout action s).engine = s.engine := withTarget_engine _ _ _ _ s (fun _ _ => by simp)
@[simp] theorem dispatchSetTrigger_engine (slot : Fin 32) (trigger edge debounce action playback bank cue time : Word) (s : Block) : (dispatchSetTrigger slot trigger edge debounce action playback bank cue time s).engine = s.engine := withTarget_engine _ _ _ _ s (fun _ _ => by simp)
@[simp] theorem dispatchClearLine_engine (slot : Fin 32) (line : Word) (s : Block) : (dispatchClearLine slot line s).engine = s.engine := withTarget_engine _ _ _ _ s (fun _ _ => by simp)
@[simp] theorem dispatchQuery_engine (slot : Fin 32) (line address code count bytes0 bytes4 reply : Word) (s : Block) : (dispatchQuery slot line address code count bytes0 bytes4 reply s).engine = s.engine := withTarget_engine _ _ _ _ s (fun _ _ => by simp)
@[simp] theorem dispatchGo_engine (slot : Fin 32) (playback bank cue time : Word) (s : Block) : (dispatchGo slot playback bank cue time s).engine = s.engine := withTarget_engine _ _ _ _ s (fun _ _ => by simp)
@[simp] theorem dispatchGoNext_engine (slot : Fin 32) (playback bank : Word) (s : Block) : (dispatchGoNext slot playback bank s).engine = s.engine := withTarget_engine _ _ _ _ s (fun _ _ => by simp)
@[simp] theorem dispatchPause_engine (slot : Fin 32) (playback : Word) (s : Block) : (dispatchPause slot playback s).engine = s.engine := withTarget_engine _ _ _ _ s (fun _ _ => by simp)
@[simp] theorem dispatchResume_engine (slot : Fin 32) (playback : Word) (s : Block) : (dispatchResume slot playback s).engine = s.engine := withTarget_engine _ _ _ _ s (fun _ _ => by simp)
@[simp] theorem dispatchRelease_engine (slot : Fin 32) (playback time : Word) (s : Block) : (dispatchRelease slot playback time s).engine = s.engine := withTarget_engine _ _ _ _ s (fun _ _ => by simp)
@[simp] theorem dispatchSetMaster_engine (slot : Fin 32) (playback level time : Word) (s : Block) : (dispatchSetMaster slot playback level time s).engine = s.engine := withTarget_engine _ _ _ _ s (fun _ _ => by simp)
@[simp] theorem dispatch_engine (slot : Fin 32) (words : List Word) (s : Block) : (dispatch slot words s).engine = s.engine := by unfold dispatch; split <;> simp
@[simp] theorem startScan_engine (s : Block) : (startScan s).engine = s.engine := by simp [startScan]
@[simp] theorem scanDue_engine (s : Block) : (scanDue s).engine = s.engine := by unfold scanDue; split <;> simp
@[simp] theorem endScan_engine (s : Block) : (endScan s).engine = s.engine := by unfold endScan; split <;> simp
@[simp] theorem visit_engine (taken : Nat) (s : Block) (xs : List (Fin 32)) : (visit taken s xs).engine = s.engine := by
  induction xs with
  | nil => simp [visit]
  | cons i rest ih =>
    rw [visit]
    split
    · simp
    · split
      · exact ih
      · split <;> simp
@[simp] theorem rowRead_engine (row words : List Word) (s : Block) : (rowRead row words s).engine = s.engine := by
  unfold rowRead
  dsimp only
  split <;> simp
@[simp] theorem claimDone_engine (i : Fin 32) (rest : List (Fin 32)) (taken : Nat) (value : Word) (s : Block) : (claimDone i rest taken value s).engine = s.engine := by
  unfold claimDone
  repeat' split
  all_goals simp
@[simp] theorem bodyDone_engine (i : Fin 32) (rest : List (Fin 32)) (taken : Nat) (words : List Word) (s : Block) : (bodyDone i rest taken words s).engine = s.engine := by unfold bodyDone; split <;> simp
@[simp] theorem scannerDone_engine (words : List Word) (s : Block) : (scannerDone words s).engine = s.engine := by unfold scannerDone; split <;> simp
@[simp] theorem scannerFault_engine (s : Block) : (scannerFault s).engine = s.engine := by unfold scannerFault; split <;> simp
@[simp] theorem scannerHalt_engine (s : Block) : (scannerHalt s).engine = s.engine := by unfold scannerHalt; split <;> simp
@[simp] theorem countScan_engine (installed : Bool) (s : Block) : (countScan installed s).engine = s.engine := by
  unfold countScan
  dsimp only
  split <;> simp
@[simp] theorem resultsDone_engine (s : Block) : (resultsDone s).engine = s.engine := by unfold resultsDone; split <;> simp
@[simp] theorem resultsFault_engine (s : Block) : (resultsFault s).engine = s.engine := rfl
@[simp] theorem resultsBoundary_engine (s : Block) : (resultsBoundary s).engine = s.engine := by unfold resultsBoundary; split <;> simp
@[simp] theorem resultsHalt_engine (s : Block) : (resultsHalt s).engine = s.engine := rfl
@[simp] theorem beginCounting_engine (s : Block) : (beginCounting s).engine = s.engine := by simp [beginCounting]
@[simp] theorem serveNext_engine (s : Block) : (serveNext s).engine = s.engine := rfl
@[simp] theorem takeBoundary_engine (installed : Bool) (b : BoundaryTaker) (s : Block) : (takeBoundary installed b s).engine = s.engine := by unfold takeBoundary; split <;> simp
@[simp] theorem frameBoundary_engine (order : List BoundaryTaker) (s : Block) : (frameBoundary order s).engine = s.engine := by simp [frameBoundary, foldl_keeps (fun b : Block => b.engine)]
@[simp] theorem endPass_engine (s : Block) : (endPass s).engine = s.engine := by unfold endPass; split <;> simp
@[simp] theorem masterSettles_engine (p : Fin 8) (s : Block) : (masterSettles p s).engine = s.engine := by simp [masterSettles]
@[simp] theorem movePin_engine (t : Fin 8) (level : Bool) (s : Block) : (movePin t level s).engine = s.engine := rfl
theorem receiverEvent_engine (l : Fin 4) (frame : Line → Line) (reply : Block → Block) (s : Block) (h : ∀ t, (reply t).engine = t.engine) : (receiverEvent l frame reply s).engine = s.engine := by
  unfold receiverEvent
  dsimp only
  repeat' split
  all_goals simp [h]
@[simp] theorem edit_control (p : Fin 8) (freed : Nat) (s : Block) : (edit p freed s).control = s.control := by unfold edit; split <;> simp
@[simp] theorem takeLoadJob_control (s : Block) : (takeLoadJob s).control = s.control := by
  unfold takeLoadJob
  repeat' split
  all_goals simp
@[simp] theorem submitLoad_control (p : Fin 8) (bank : Nat) (search : Search) (s : Block) : (submitLoad p bank search s).control = s.control := by simp [submitLoad]
@[simp] theorem followEnd_control (p : Fin 8) (s : Block) : (followEnd p s).control = s.control := by
  unfold followEnd
  dsimp only
  split <;> simp
@[simp] theorem followIfDue_control (p : Fin 8) (s : Block) : (followIfDue p s).control = s.control := by unfold followIfDue; split <;> simp
@[simp] theorem fadeEnds_control (p : Fin 8) (s : Block) : (fadeEnds p s).control = s.control := by
  unfold fadeEnds
  dsimp only
  split <;> simp
@[simp] theorem fadeEndIfDue_control (p : Fin 8) (s : Block) : (fadeEndIfDue p s).control = s.control := by unfold fadeEndIfDue; split <;> simp
@[simp] theorem finishHead_control (p : Fin 8) (code : ResultCode) (v1 v2 : Word) (s : Block) : (finishHead p code v1 v2 s).control = s.control := by unfold finishHead; split <;> simp
@[simp] theorem servePause_control (p : Fin 8) (s : Block) : (servePause p s).control = s.control := by
  unfold servePause
  dsimp only
  split <;> simp
@[simp] theorem serveResume_control (p : Fin 8) (s : Block) : (serveResume p s).control = s.control := by
  unfold serveResume
  dsimp only
  split <;> simp
@[simp] theorem serveLoad_control (p : Fin 8) (choice : Option (Nat × Search)) (s : Block) : (serveLoad p choice s).control = s.control := by
  unfold serveLoad
  repeat' split
  all_goals simp
@[simp] theorem serveHead_control (p : Fin 8) (s : Block) : (serveHead p s).control = s.control := by
  unfold serveHead
  dsimp only
  repeat' split
  all_goals simp
@[simp] theorem serveUpTo_control (n : Nat) (p : Fin 8) (s : Block) : (serveUpTo n p s).control = s.control := by
  induction n generalizing s with
  | zero => rfl
  | succ n ih => unfold serveUpTo; split <;> simp [ih]
@[simp] theorem serve_control (p : Fin 8) (s : Block) : (serve p s).control = s.control := by simp [serve]
@[simp] theorem queueFull_control (o : Origin) (s : Block) : (queueFull o s).control = s.control := by unfold queueFull; split <;> simp
@[simp] theorem arriveQueued_control (p : Fin 8) (o : Origin) (k : QueuedKind) (s : Block) : (arriveQueued p o k s).control = s.control := by
  unfold arriveQueued
  repeat' split
  all_goals simp
@[simp] theorem cancelRequests_control (rs : List QueuedRequest) (s : Block) : (cancelRequests rs s).control = s.control := by simp [cancelRequests, foldl_keeps (fun b : Block => b.control)]
@[simp] theorem markAbandoned_control (p : Fin 8) (s : Block) : (markAbandoned p s).control = s.control := by
  unfold markAbandoned
  repeat' split
  all_goals simp
@[simp] theorem abandonLoad_control (p : Fin 8) (s : Block) : (abandonLoad p s).control = s.control := by unfold abandonLoad; split <;> simp
@[simp] theorem cancelAndAbandon_control (p : Fin 8) (s : Block) : (cancelAndAbandon p s).control = s.control := by simp [cancelAndAbandon]
@[simp] theorem releaseBuild_control (p : Fin 8) (time : Option Nat) (s : Block) : (releaseBuild p time s).control = s.control := by simp [releaseBuild]
@[simp] theorem arriveRelease_control (p : Fin 8) (o : Origin) (time : Option Nat) (s : Block) : (arriveRelease p o time s).control = s.control := by
  unfold arriveRelease
  dsimp only
  repeat' split
  all_goals simp
@[simp] theorem arriveSetMaster_control (p : Fin 8) (slot : Fin 32) (level time : Word) (s : Block) : (arriveSetMaster p slot level time s).control = s.control := by unfold arriveSetMaster; split <;> simp
@[simp] theorem clearPlayback_control (p : Fin 8) (s : Block) : (clearPlayback p s).control = s.control := by simp [clearPlayback]
@[simp] theorem clearPlaybacks_control (s : Block) : (clearPlaybacks s).control = s.control := by simp [clearPlaybacks, foldl_keeps (fun b : Block => b.control)]
@[simp] theorem loadCompleted_control (p : Fin 8) (bank : Nat) (h : CueHeader) (s : Block) : (loadCompleted p bank h s).control = s.control := by simp [loadCompleted]
@[simp] theorem loadEnded_control (p : Fin 8) (code : ResultCode) (s : Block) : (loadEnded p code s).control = s.control := by simp [loadEnded]
@[simp] theorem freeLoad_control (p : Fin 8) (s : Block) : (freeLoad p s).control = s.control := by simp [freeLoad]
theorem endJob_control (report : Block → Block) (s : Block) (h : ∀ t, (report t).control = t.control) : (endJob report s).control = s.control := by simp [endJob, h]
@[simp] theorem endUnfinished_control (c : CurrentLoad) (code : ResultCode) (s : Block) : (endUnfinished c code s).control = s.control := endJob_control _ s (fun _ => by simp)
@[simp] theorem enterUnlock_control (c : CurrentLoad) (s : Block) : (enterUnlock c s).control = s.control := by simp [enterUnlock]
@[simp] theorem failLoad_control (c : CurrentLoad) (code : ResultCode) (s : Block) : (failLoad c code s).control = s.control := by unfold failLoad; split <;> simp
@[simp] theorem readBank_control (c : CurrentLoad) (stage : LoadStage) (k words : Nat) (s : Block) : (readBank c stage k words s).control = s.control := by simp [readBank]
@[simp] theorem putBack_control (c : CurrentLoad) (s : Block) : (putBack c s).control = s.control := by simp [putBack]
@[simp] theorem lockDone_control (c : CurrentLoad) (value : Word) (s : Block) : (lockDone c value s).control = s.control := by
  unfold lockDone
  repeat' split
  all_goals simp
@[simp] theorem countRead_control (c : CurrentLoad) (n : Nat) (s : Block) : (countRead c n s).control = s.control := by
  unfold countRead
  repeat' split
  all_goals simp
@[simp] theorem directoryRead_control (c : CurrentLoad) (count position : Nat) (words : List Word) (s : Block) : (directoryRead c count position words s).control = s.control := by
  unfold directoryRead
  dsimp only
  repeat' split
  all_goals simp
@[simp] theorem headerRead_control (c : CurrentLoad) (number offset : Nat) (words : List Word) (s : Block) : (headerRead c number offset words s).control = s.control := by
  unfold headerRead
  repeat' split
  all_goals simp
@[simp] theorem entriesRead_control (c : CurrentLoad) (offset position : Nat) (words : List Word) (s : Block) : (entriesRead c offset position words s).control = s.control := by
  unfold entriesRead
  dsimp only
  repeat' split
  all_goals simp
@[simp] theorem unlockDone_control (c : CurrentLoad) (s : Block) : (unlockDone c s).control = s.control := by
  unfold unlockDone
  split
  · rw [endJob_control _ _ (fun _ => by simp)]; simp
  · simp
@[simp] theorem loaderDone_control (words : List Word) (s : Block) : (loaderDone words s).control = s.control := by
  unfold loaderDone
  repeat' split
  all_goals simp
@[simp] theorem loaderFault_control (read : Bool) (s : Block) : (loaderFault read s).control = s.control := by
  unfold loaderFault
  repeat' split
  all_goals simp
@[simp] theorem haltJobs_control (jobs : List LoadJob) (s : Block) : (haltJobs jobs s).control = s.control := by simp [haltJobs, foldl_keeps (fun b : Block => b.control)]
@[simp] theorem haltCurrent_control (s : Block) : (haltCurrent s).control = s.control := by
  unfold haltCurrent
  repeat' split
  all_goals simp
@[simp] theorem loaderHalt_control (s : Block) : (loaderHalt s).control = s.control := by simp [loaderHalt]
@[simp] theorem loaderBoundary_control (s : Block) : (loaderBoundary s).control = s.control := by simp [loaderBoundary]
@[simp] theorem endShadow_control (x : Shadow) (code : ResultCode) (s : Block) : (endShadow x code s).control = s.control := by unfold endShadow; split <;> simp
@[simp] theorem endStaging_control (x : Staging) (code : ResultCode) (s : Block) : (endStaging x code s).control = s.control := by unfold endStaging; split <;> simp
@[simp] theorem beginTable_control (j : TableJob) (s : Block) : (beginTable j s).control = s.control := by unfold beginTable; split <;> simp
@[simp] theorem takeTableJob_control (s : Block) : (takeTableJob s).control = s.control := by
  unfold takeTableJob
  repeat' split
  all_goals simp
@[simp] theorem submitTable_control (slot : Fin 32) (j : TableJob) (s : Block) : (submitTable slot j s).control = s.control := by unfold submitTable; split <;> simp
@[simp] theorem arrivePatch_control (slot : Fin 32) (address count : Word) (s : Block) : (arrivePatch slot address count s).control = s.control := by unfold arrivePatch; split <;> simp
@[simp] theorem arriveCurve_control (slot : Fin 32) (curve address : Word) (s : Block) : (arriveCurve slot curve address s).control = s.control := by unfold arriveCurve; split <;> simp
@[simp] theorem readerIdle_control (s : Block) : (readerIdle s).control = s.control := by simp [readerIdle]
@[simp] theorem emptyFilling_control (j : TableJob) (s : Block) : (emptyFilling j s).control = s.control := by unfold emptyFilling; split <;> simp
@[simp] theorem failTable_control (j : TableJob) (code : ResultCode) (v1 v2 : Word) (s : Block) : (failTable j code v1 v2 s).control = s.control := by simp [failTable]
@[simp] theorem validatePatch_control (slot : Fin 32) (j : TableJob) (words : List Word) (s : Block) : (validatePatch slot j words s).control = s.control := by
  unfold validatePatch
  dsimp only
  repeat' split
  all_goals simp
@[simp] theorem patchRead_control (j : TableJob) (slot : Fin 32) (address : Word) (count : Nat) (words : List Word) (s : Block) : (patchRead j slot address count words s).control = s.control := by
  unfold patchRead
  dsimp only
  repeat' split
  all_goals simp
@[simp] theorem curveRead_control (j : TableJob) (slot : Fin 32) (k : Fin 7) (address : Word) (words : List Word) (s : Block) : (curveRead j slot k address words s).control = s.control := by
  unfold curveRead
  dsimp only
  repeat' split
  all_goals simp
@[simp] theorem tablesDone_control (words : List Word) (s : Block) : (tablesDone words s).control = s.control := by
  unfold tablesDone
  repeat' split
  all_goals simp
@[simp] theorem tablesFault_control (s : Block) : (tablesFault s).control = s.control := by unfold tablesFault; split <;> simp
@[simp] theorem endTables_control (code : ResultCode) (s : Block) : (endTables code s).control = s.control := by simp [endTables, foldl_keeps (fun b : Block => b.control)]
@[simp] theorem tablesStop_control (s : Block) : (tablesStop s).control = s.control := by simp [tablesStop]
@[simp] theorem tablesHalt_control (s : Block) : (tablesHalt s).control = s.control := by unfold tablesHalt; split <;> simp
@[simp] theorem installPatch_control (s : Block) : (installPatch s).control = s.control := by unfold installPatch; split <;> simp
@[simp] theorem installCurve_control (k : Fin 7) (s : Block) : (installCurve k s).control = s.control := by unfold installCurve; split <;> simp
@[simp] theorem installTables_control (s : Block) : (installTables s).control = s.control := by simp [installTables, foldl_keeps (fun b : Block => b.control)]
@[simp] theorem periodEnds_control (s : Block) : (periodEnds s).control = s.control := by simp [periodEnds]
@[simp] theorem arriveSetOutputs_control (slot : Fin 32) (clock modes inverts : Word) (s : Block) : (arriveSetOutputs slot clock modes inverts s).control = s.control := by unfold arriveSetOutputs; split <;> simp
@[simp] theorem askStatus_control (s : Block) : (askStatus s).control = s.control := by unfold askStatus; split <;> simp
@[simp] theorem joinStatus_control (j : StatusJob) (s : Block) : (joinStatus j s).control = s.control := by unfold joinStatus; split <;> simp
@[simp] theorem leaveStatus_control (s : Block) : (leaveStatus s).control = s.control := by simp [leaveStatus]
@[simp] theorem beginPage_control (s : Block) : (beginPage s).control = s.control := by simp [beginPage]
@[simp] theorem statusDue_control (s : Block) : (statusDue s).control = s.control := by
  unfold statusDue
  repeat' split
  all_goals simp
@[simp] theorem endPage_control (s : Block) : (endPage s).control = s.control := by simp [endPage]
@[simp] theorem endSnapshot_control (code : ResultCode) (s : Block) : (endSnapshot code s).control = s.control := by unfold endSnapshot; split <;> simp
@[simp] theorem statusDone_control (s : Block) : (statusDone s).control = s.control := by
  unfold statusDone
  repeat' split
  all_goals simp
@[simp] theorem statusFault_control (s : Block) : (statusFault s).control = s.control := by unfold statusFault; split <;> simp
@[simp] theorem statusHalt_control (s : Block) : (statusHalt s).control = s.control := by unfold statusHalt; split <;> simp
@[simp] theorem statusStop_control (s : Block) : (statusStop s).control = s.control := by unfold statusStop; split <;> simp
@[simp] theorem countStatus_control (installed : Bool) (s : Block) : (countStatus installed s).control = s.control := by
  unfold countStatus
  dsimp only
  split <;> simp
@[simp] theorem arriveSnapshot_control (slot : Fin 32) (address : Word) (s : Block) : (arriveSnapshot slot address s).control = s.control := by unfold arriveSnapshot; split <;> simp
@[simp] theorem copySnapshot_control (s : Block) : (copySnapshot s).control = s.control := by unfold copySnapshot; split <;> simp
@[simp] theorem swap_control (s : Block) : (swap s).control = s.control := by simp [swap]
@[simp] theorem passStarts_control (s : Block) : (passStarts s).control = s.control := by simp [passStarts]
@[simp] theorem mixerBoundary_control (s : Block) : (mixerBoundary s).control = s.control := by
  unfold mixerBoundary
  repeat' split
  all_goals simp
@[simp] theorem passEnds_control (latch : PassLatch) (s : Block) : (passEnds latch s).control = s.control := by simp [passEnds]
@[simp] theorem arriveSetGrand_control (slot : Fin 32) (level time : Word) (s : Block) : (arriveSetGrand slot level time s).control = s.control := by unfold arriveSetGrand; split <;> simp
@[simp] theorem arriveBlackout_control (slot : Fin 32) (action : Word) (s : Block) : (arriveBlackout slot action s).control = s.control := by
  unfold arriveBlackout
  dsimp only
  split <;> simp
@[simp] theorem toggleBlackout_control (s : Block) : (toggleBlackout s).control = s.control := by simp [toggleBlackout]
@[simp] theorem grandSettles_control (s : Block) : (grandSettles s).control = s.control := by simp [grandSettles]
@[simp] theorem placeLine_control (l : Fin 4) (slot : Fin 32) (c : LineConfig) (s : Block) : (placeLine l slot c s).control = s.control := by unfold placeLine; split <;> simp
@[simp] theorem arriveSetLine_control (l : Fin 4) (slot : Fin 32) (mode rate count talkback base timeout action : Word) (s : Block) : (arriveSetLine l slot mode rate count talkback base timeout action s).control = s.control := by
  unfold arriveSetLine
  repeat' split
  all_goals simp
@[simp] theorem endQueries_control (code : ResultCode) (qs : List Query) (s : Block) : (endQueries code qs s).control = s.control := by simp [endQueries, foldl_keeps (fun b : Block => b.control)]
@[simp] theorem installLine_control (l : Fin 4) (s : Block) : (installLine l s).control = s.control := by
  unfold installLine
  dsimp only
  repeat' split
  all_goals simp
@[simp] theorem startFrame_control (l : Fin 4) (s : Block) : (startFrame l s).control = s.control := by unfold startFrame; split <;> simp
@[simp] theorem lineBoundary_control (l : Fin 4) (s : Block) : (lineBoundary l s).control = s.control := by simp [lineBoundary]
@[simp] theorem commit_control (l : Fin 4) (s : Block) : (commit l s).control = s.control := by
  unfold commit
  dsimp only
  repeat' split
  all_goals simp
@[simp] theorem mixCompletes_control (latch : PassLatch) (s : Block) : (mixCompletes latch s).control = s.control := by simp [mixCompletes, foldl_keeps (fun b : Block => b.control)]
@[simp] theorem signalExpires_control (l : Fin 4) (s : Block) : (signalExpires l s).control = s.control := by unfold signalExpires; split <;> simp
@[simp] theorem receiveCharacter_control (l : Fin 4) (flag : Bool) (data : Byte) (s : Block) : (receiveCharacter l flag data s).control = s.control := by
  unfold receiveCharacter
  dsimp only
  split <;> simp
@[simp] theorem receiving_control (l : Fin 4) (f : Line → Line) (s : Block) : (receiving l f s).control = s.control := by unfold receiving; split <;> simp
@[simp] theorem arriveClearLine_control (l : Fin 4) (slot : Fin 32) (s : Block) : (arriveClearLine l slot s).control = s.control := by simp [arriveClearLine]
@[simp] theorem dropPendingLine_control (l : Fin 4) (s : Block) : (dropPendingLine l s).control = s.control := by unfold dropPendingLine; split <;> simp
@[simp] theorem dropPendingLines_control (s : Block) : (dropPendingLines s).control = s.control := by simp [dropPendingLines, foldl_keeps (fun b : Block => b.control)]
@[simp] theorem arriveQuery_control (l : Fin 4) (slot : Fin 32) (address code count bytes0 bytes4 reply : Word) (s : Block) : (arriveQuery l slot address code count bytes0 bytes4 reply s).control = s.control := by
  unfold arriveQuery
  dsimp only
  repeat' split
  all_goals simp
@[simp] theorem endQuery_control (l : Fin 4) (code : ResultCode) (v1 v2 : Word) (s : Block) : (endQuery l code v1 v2 s).control = s.control := by
  unfold endQuery
  repeat' split
  all_goals simp
@[simp] theorem queryFrameEnded_control (l : Fin 4) (s : Block) : (queryFrameEnded l s).control = s.control := by
  unfold queryFrameEnded
  repeat' split
  all_goals simp
@[simp] theorem askTalkback_control (s : Block) : (askTalkback s).control = s.control := by
  unfold askTalkback
  repeat' split
  all_goals simp
@[simp] theorem placeReply_control (l : Fin 4) (r : Reply) (s : Block) : (placeReply l r s).control = s.control := by unfold placeReply; split <;> simp
@[simp] theorem replyWhole_control (l : Fin 4) (f : InFlight) (s : Block) : (replyWhole l f s).control = s.control := by unfold replyWhole; split <;> simp
@[simp] theorem failReply_control (l : Fin 4) (f : InFlight) (code : ResultCode) (reason : Nat) (s : Block) : (failReply l f code reason s).control = s.control := by simp [failReply]
@[simp] theorem replyCharacter_control (l : Fin 4) (f : InFlight) (flag : Bool) (data : Byte) (s : Block) : (replyCharacter l f flag data s).control = s.control := by unfold replyCharacter; split <;> simp
@[simp] theorem countStray_control (l : Fin 4) (s : Block) : (countStray l s).control = s.control := by simp [countStray]
@[simp] theorem talkbackCharacter_control (l : Fin 4) (flag : Bool) (data : Byte) (s : Block) : (talkbackCharacter l flag data s).control = s.control := by
  unfold talkbackCharacter
  dsimp only
  repeat' split
  all_goals simp
@[simp] theorem replyStarts_control (l : Fin 4) (s : Block) : (replyStarts l s).control = s.control := by unfold replyStarts; split <;> simp
@[simp] theorem replyTimesOut_control (l : Fin 4) (s : Block) : (replyTimesOut l s).control = s.control := by unfold replyTimesOut; split <;> simp
@[simp] theorem replyCollides_control (l : Fin 4) (kind : CollisionKind) (s : Block) : (replyCollides l kind s).control = s.control := by unfold replyCollides; split <;> simp
@[simp] theorem replyGap_control (l : Fin 4) (s : Block) : (replyGap l s).control = s.control := by
  unfold replyGap
  repeat' split
  all_goals simp
@[simp] theorem windowEnds_control (l : Fin 4) (s : Block) : (windowEnds l s).control = s.control := by unfold windowEnds; split <;> simp
@[simp] theorem endReply_control (code : ResultCode) (s : Block) : (endReply code s).control = s.control := by
  unfold endReply
  repeat' split
  all_goals simp
@[simp] theorem stopQueries_control (l : Fin 4) (s : Block) : (stopQueries l s).control = s.control := by simp [stopQueries]
@[simp] theorem haltQueries_control (l : Fin 4) (s : Block) : (haltQueries l s).control = s.control := by
  unfold haltQueries
  dsimp only
  split <;> simp
@[simp] theorem talkbackStop_control (s : Block) : (talkbackStop s).control = s.control := by simp [talkbackStop, foldl_keeps (fun b : Block => b.control)]
@[simp] theorem forgetQueries_control (s : Block) : (forgetQueries s).control = s.control := rfl

@[simp] theorem talkbackHalt_control (s : Block) : (talkbackHalt s).control = s.control := by simp [talkbackHalt, foldl_keeps (fun b : Block => b.control)]
@[simp] theorem performAction_control (t : Fin 8) (r : TriggerRecord) (s : Block) : (performAction t r s).control = s.control := by unfold performAction; split <;> simp
@[simp] theorem examineEdge_control (t : Fin 8) (level : Bool) (s : Block) : (examineEdge t level s).control = s.control := by
  unfold examineEdge
  dsimp only
  repeat' split
  all_goals simp
@[simp] theorem settle_control (t : Fin 8) (level : Bool) (s : Block) : (settle t level s).control = s.control := by simp [settle]
@[simp] theorem pinChanges_control (t : Fin 8) (level : Bool) (s : Block) : (pinChanges t level s).control = s.control := by
  unfold pinChanges
  dsimp only
  repeat' split
  all_goals simp
@[simp] theorem debounceEnds_control (t : Fin 8) (s : Block) : (debounceEnds t s).control = s.control := by simp [debounceEnds]
@[simp] theorem arriveSetTrigger_control (t : Fin 8) (slot : Fin 32) (edge debounce action playback bank cue time : Word) (s : Block) : (arriveSetTrigger t slot edge debounce action playback bank cue time s).control = s.control := by unfold arriveSetTrigger; split <;> simp
@[simp] theorem tick_control (s : Block) : (tick s).control = s.control := by simp [tick]
@[simp] theorem placeFrame_control (slot : Fin 32) (v : FrameValues) (s : Block) : (placeFrame slot v s).control = s.control := by unfold placeFrame; split <;> simp
@[simp] theorem arriveSetFrame_control (slot : Fin 32) (period scan status : Word) (s : Block) : (arriveSetFrame slot period scan status s).control = s.control := by
  unfold arriveSetFrame
  repeat' split
  all_goals simp
@[simp] theorem installFrame_control (s : Block) : (installFrame s).control = s.control := by unfold installFrame; split <;> simp
@[simp] theorem dropPendingFrame_control (s : Block) : (dropPendingFrame s).control = s.control := by unfold dropPendingFrame; split <;> simp
@[simp] theorem frameExpires_control (s : Block) : (frameExpires s).control = s.control := by simp [frameExpires]
theorem withTarget_control (n : Nat) (slot : Fin 32) (w : Word) (f : Fin n → Block → Block) (s : Block) (h : ∀ x t, (f x t).control = t.control) : (withTarget n slot w f s).control = s.control := by unfold withTarget; split <;> simp [h]
@[simp] theorem dispatchSetLine_control (slot : Fin 32) (line mode rate count talkback base timeout action : Word) (s : Block) : (dispatchSetLine slot line mode rate count talkback base timeout action s).control = s.control := withTarget_control _ _ _ _ s (fun _ _ => by simp)
@[simp] theorem dispatchSetTrigger_control (slot : Fin 32) (trigger edge debounce action playback bank cue time : Word) (s : Block) : (dispatchSetTrigger slot trigger edge debounce action playback bank cue time s).control = s.control := withTarget_control _ _ _ _ s (fun _ _ => by simp)
@[simp] theorem dispatchClearLine_control (slot : Fin 32) (line : Word) (s : Block) : (dispatchClearLine slot line s).control = s.control := withTarget_control _ _ _ _ s (fun _ _ => by simp)
@[simp] theorem dispatchQuery_control (slot : Fin 32) (line address code count bytes0 bytes4 reply : Word) (s : Block) : (dispatchQuery slot line address code count bytes0 bytes4 reply s).control = s.control := withTarget_control _ _ _ _ s (fun _ _ => by simp)
@[simp] theorem dispatchGo_control (slot : Fin 32) (playback bank cue time : Word) (s : Block) : (dispatchGo slot playback bank cue time s).control = s.control := withTarget_control _ _ _ _ s (fun _ _ => by simp)
@[simp] theorem dispatchGoNext_control (slot : Fin 32) (playback bank : Word) (s : Block) : (dispatchGoNext slot playback bank s).control = s.control := withTarget_control _ _ _ _ s (fun _ _ => by simp)
@[simp] theorem dispatchPause_control (slot : Fin 32) (playback : Word) (s : Block) : (dispatchPause slot playback s).control = s.control := withTarget_control _ _ _ _ s (fun _ _ => by simp)
@[simp] theorem dispatchResume_control (slot : Fin 32) (playback : Word) (s : Block) : (dispatchResume slot playback s).control = s.control := withTarget_control _ _ _ _ s (fun _ _ => by simp)
@[simp] theorem dispatchRelease_control (slot : Fin 32) (playback time : Word) (s : Block) : (dispatchRelease slot playback time s).control = s.control := withTarget_control _ _ _ _ s (fun _ _ => by simp)
@[simp] theorem dispatchSetMaster_control (slot : Fin 32) (playback level time : Word) (s : Block) : (dispatchSetMaster slot playback level time s).control = s.control := withTarget_control _ _ _ _ s (fun _ _ => by simp)
@[simp] theorem dispatch_control (slot : Fin 32) (words : List Word) (s : Block) : (dispatch slot words s).control = s.control := by unfold dispatch; split <;> simp
@[simp] theorem startScan_control (s : Block) : (startScan s).control = s.control := by simp [startScan]
@[simp] theorem scanDue_control (s : Block) : (scanDue s).control = s.control := by unfold scanDue; split <;> simp
@[simp] theorem endScan_control (s : Block) : (endScan s).control = s.control := by unfold endScan; split <;> simp
@[simp] theorem visit_control (taken : Nat) (s : Block) (xs : List (Fin 32)) : (visit taken s xs).control = s.control := by
  induction xs with
  | nil => simp [visit]
  | cons i rest ih =>
    rw [visit]
    split
    · simp
    · split
      · exact ih
      · split <;> simp
@[simp] theorem rowRead_control (row words : List Word) (s : Block) : (rowRead row words s).control = s.control := by
  unfold rowRead
  dsimp only
  split <;> simp
@[simp] theorem claimDone_control (i : Fin 32) (rest : List (Fin 32)) (taken : Nat) (value : Word) (s : Block) : (claimDone i rest taken value s).control = s.control := by
  unfold claimDone
  repeat' split
  all_goals simp
@[simp] theorem bodyDone_control (i : Fin 32) (rest : List (Fin 32)) (taken : Nat) (words : List Word) (s : Block) : (bodyDone i rest taken words s).control = s.control := by unfold bodyDone; split <;> simp
@[simp] theorem scannerDone_control (words : List Word) (s : Block) : (scannerDone words s).control = s.control := by unfold scannerDone; split <;> simp
@[simp] theorem scannerFault_control (s : Block) : (scannerFault s).control = s.control := by unfold scannerFault; split <;> simp
@[simp] theorem scannerHalt_control (s : Block) : (scannerHalt s).control = s.control := by unfold scannerHalt; split <;> simp
@[simp] theorem countScan_control (installed : Bool) (s : Block) : (countScan installed s).control = s.control := by
  unfold countScan
  dsimp only
  split <;> simp
@[simp] theorem resultsDone_control (s : Block) : (resultsDone s).control = s.control := by unfold resultsDone; split <;> simp
@[simp] theorem resultsFault_control (s : Block) : (resultsFault s).control = s.control := rfl
@[simp] theorem resultsBoundary_control (s : Block) : (resultsBoundary s).control = s.control := by unfold resultsBoundary; split <;> simp
@[simp] theorem resultsHalt_control (s : Block) : (resultsHalt s).control = s.control := rfl
@[simp] theorem enterStarting_control (s : Block) : (enterStarting s).control = s.control := by simp [enterStarting]
@[simp] theorem startIfSet_control (s : Block) : (startIfSet s).control = s.control := by unfold startIfSet; split <;> simp
@[simp] theorem enterStopped_control (s : Block) : (enterStopped s).control = s.control := by simp [enterStopped]
@[simp] theorem enterRunning_control (s : Block) : (enterRunning s).control = s.control := rfl
@[simp] theorem sweepFrom_control (bank : Nat) (s : Block) : (sweepFrom bank s).control = s.control := by unfold sweepFrom; split <;> simp
@[simp] theorem abortStart_control (done : Nat) (s : Block) : (abortStart done s).control = s.control := by unfold abortStart; split <;> simp
@[simp] theorem enterStopping_control (s : Block) : (enterStopping s).control = s.control := by simp [enterStopping]
@[simp] theorem enterHalted_control (s : Block) : (enterHalted s).control = s.control := by simp [enterHalted]
@[simp] theorem leaveHalted_control (s : Block) : (leaveHalted s).control = s.control := by simp [leaveHalted]
@[simp] theorem beginCounting_control (s : Block) : (beginCounting s).control = s.control := by simp [beginCounting]
@[simp] theorem releaseReset_control (s : Block) : (releaseReset s).control = s.control := by unfold releaseReset; split <;> simp
@[simp] theorem clockLocks_control (s : Block) : (clockLocks s).control = s.control := by unfold clockLocks; split <;> simp
@[simp] theorem serveNext_control (s : Block) : (serveNext s).control = s.control := rfl
@[simp] theorem takeBoundary_control (installed : Bool) (b : BoundaryTaker) (s : Block) : (takeBoundary installed b s).control = s.control := by unfold takeBoundary; split <;> simp
@[simp] theorem frameBoundary_control (order : List BoundaryTaker) (s : Block) : (frameBoundary order s).control = s.control := by simp [frameBoundary, foldl_keeps (fun b : Block => b.control)]
@[simp] theorem endPass_control (s : Block) : (endPass s).control = s.control := by unfold endPass; split <;> simp
@[simp] theorem masterSettles_control (p : Fin 8) (s : Block) : (masterSettles p s).control = s.control := by simp [masterSettles]
@[simp] theorem movePin_control (t : Fin 8) (level : Bool) (s : Block) : (movePin t level s).control = s.control := rfl
theorem receiverEvent_control (l : Fin 4) (frame : Line → Line) (reply : Block → Block) (s : Block) (h : ∀ t, (reply t).control = t.control) : (receiverEvent l frame reply s).control = s.control := by
  unfold receiverEvent
  dsimp only
  repeat' split
  all_goals simp [h]
@[simp] theorem edit_time (p : Fin 8) (freed : Nat) (s : Block) : (edit p freed s).time = s.time := by unfold edit; split <;> simp
@[simp] theorem takeLoadJob_time (s : Block) : (takeLoadJob s).time = s.time := by
  unfold takeLoadJob
  repeat' split
  all_goals simp
@[simp] theorem submitLoad_time (p : Fin 8) (bank : Nat) (search : Search) (s : Block) : (submitLoad p bank search s).time = s.time := by simp [submitLoad]
@[simp] theorem followEnd_time (p : Fin 8) (s : Block) : (followEnd p s).time = s.time := by
  unfold followEnd
  dsimp only
  split <;> simp
@[simp] theorem followIfDue_time (p : Fin 8) (s : Block) : (followIfDue p s).time = s.time := by unfold followIfDue; split <;> simp
@[simp] theorem fadeEnds_time (p : Fin 8) (s : Block) : (fadeEnds p s).time = s.time := by
  unfold fadeEnds
  dsimp only
  split <;> simp
@[simp] theorem fadeEndIfDue_time (p : Fin 8) (s : Block) : (fadeEndIfDue p s).time = s.time := by unfold fadeEndIfDue; split <;> simp
@[simp] theorem finishHead_time (p : Fin 8) (code : ResultCode) (v1 v2 : Word) (s : Block) : (finishHead p code v1 v2 s).time = s.time := by unfold finishHead; split <;> simp
@[simp] theorem servePause_time (p : Fin 8) (s : Block) : (servePause p s).time = s.time := by
  unfold servePause
  dsimp only
  split <;> simp
@[simp] theorem serveResume_time (p : Fin 8) (s : Block) : (serveResume p s).time = s.time := by
  unfold serveResume
  dsimp only
  split <;> simp
@[simp] theorem serveLoad_time (p : Fin 8) (choice : Option (Nat × Search)) (s : Block) : (serveLoad p choice s).time = s.time := by
  unfold serveLoad
  repeat' split
  all_goals simp
@[simp] theorem serveHead_time (p : Fin 8) (s : Block) : (serveHead p s).time = s.time := by
  unfold serveHead
  dsimp only
  repeat' split
  all_goals simp
@[simp] theorem serveUpTo_time (n : Nat) (p : Fin 8) (s : Block) : (serveUpTo n p s).time = s.time := by
  induction n generalizing s with
  | zero => rfl
  | succ n ih => unfold serveUpTo; split <;> simp [ih]
@[simp] theorem serve_time (p : Fin 8) (s : Block) : (serve p s).time = s.time := by simp [serve]
@[simp] theorem queueFull_time (o : Origin) (s : Block) : (queueFull o s).time = s.time := by unfold queueFull; split <;> simp
@[simp] theorem arriveQueued_time (p : Fin 8) (o : Origin) (k : QueuedKind) (s : Block) : (arriveQueued p o k s).time = s.time := by
  unfold arriveQueued
  repeat' split
  all_goals simp
@[simp] theorem cancelRequests_time (rs : List QueuedRequest) (s : Block) : (cancelRequests rs s).time = s.time := by simp [cancelRequests, foldl_keeps (fun b : Block => b.time)]
@[simp] theorem markAbandoned_time (p : Fin 8) (s : Block) : (markAbandoned p s).time = s.time := by
  unfold markAbandoned
  repeat' split
  all_goals simp
@[simp] theorem abandonLoad_time (p : Fin 8) (s : Block) : (abandonLoad p s).time = s.time := by unfold abandonLoad; split <;> simp
@[simp] theorem cancelAndAbandon_time (p : Fin 8) (s : Block) : (cancelAndAbandon p s).time = s.time := by simp [cancelAndAbandon]
@[simp] theorem releaseBuild_time (p : Fin 8) (time : Option Nat) (s : Block) : (releaseBuild p time s).time = s.time := by simp [releaseBuild]
@[simp] theorem arriveRelease_time (p : Fin 8) (o : Origin) (time : Option Nat) (s : Block) : (arriveRelease p o time s).time = s.time := by
  unfold arriveRelease
  dsimp only
  repeat' split
  all_goals simp
@[simp] theorem arriveSetMaster_time (p : Fin 8) (slot : Fin 32) (level time : Word) (s : Block) : (arriveSetMaster p slot level time s).time = s.time := by unfold arriveSetMaster; split <;> simp
@[simp] theorem clearPlayback_time (p : Fin 8) (s : Block) : (clearPlayback p s).time = s.time := by simp [clearPlayback]
@[simp] theorem clearPlaybacks_time (s : Block) : (clearPlaybacks s).time = s.time := by simp [clearPlaybacks, foldl_keeps (fun b : Block => b.time)]
@[simp] theorem loadCompleted_time (p : Fin 8) (bank : Nat) (h : CueHeader) (s : Block) : (loadCompleted p bank h s).time = s.time := by simp [loadCompleted]
@[simp] theorem loadEnded_time (p : Fin 8) (code : ResultCode) (s : Block) : (loadEnded p code s).time = s.time := by simp [loadEnded]
@[simp] theorem freeLoad_time (p : Fin 8) (s : Block) : (freeLoad p s).time = s.time := by simp [freeLoad]
theorem endJob_time (report : Block → Block) (s : Block) (h : ∀ t, (report t).time = t.time) : (endJob report s).time = s.time := by simp [endJob, h]
@[simp] theorem endUnfinished_time (c : CurrentLoad) (code : ResultCode) (s : Block) : (endUnfinished c code s).time = s.time := endJob_time _ s (fun _ => by simp)
@[simp] theorem enterUnlock_time (c : CurrentLoad) (s : Block) : (enterUnlock c s).time = s.time := by simp [enterUnlock]
@[simp] theorem failLoad_time (c : CurrentLoad) (code : ResultCode) (s : Block) : (failLoad c code s).time = s.time := by unfold failLoad; split <;> simp
@[simp] theorem readBank_time (c : CurrentLoad) (stage : LoadStage) (k words : Nat) (s : Block) : (readBank c stage k words s).time = s.time := by simp [readBank]
@[simp] theorem putBack_time (c : CurrentLoad) (s : Block) : (putBack c s).time = s.time := by simp [putBack]
@[simp] theorem lockDone_time (c : CurrentLoad) (value : Word) (s : Block) : (lockDone c value s).time = s.time := by
  unfold lockDone
  repeat' split
  all_goals simp
@[simp] theorem countRead_time (c : CurrentLoad) (n : Nat) (s : Block) : (countRead c n s).time = s.time := by
  unfold countRead
  repeat' split
  all_goals simp
@[simp] theorem directoryRead_time (c : CurrentLoad) (count position : Nat) (words : List Word) (s : Block) : (directoryRead c count position words s).time = s.time := by
  unfold directoryRead
  dsimp only
  repeat' split
  all_goals simp
@[simp] theorem headerRead_time (c : CurrentLoad) (number offset : Nat) (words : List Word) (s : Block) : (headerRead c number offset words s).time = s.time := by
  unfold headerRead
  repeat' split
  all_goals simp
@[simp] theorem entriesRead_time (c : CurrentLoad) (offset position : Nat) (words : List Word) (s : Block) : (entriesRead c offset position words s).time = s.time := by
  unfold entriesRead
  dsimp only
  repeat' split
  all_goals simp
@[simp] theorem unlockDone_time (c : CurrentLoad) (s : Block) : (unlockDone c s).time = s.time := by
  unfold unlockDone
  split
  · rw [endJob_time _ _ (fun _ => by simp)]; simp
  · simp
@[simp] theorem loaderDone_time (words : List Word) (s : Block) : (loaderDone words s).time = s.time := by
  unfold loaderDone
  repeat' split
  all_goals simp
@[simp] theorem loaderFault_time (read : Bool) (s : Block) : (loaderFault read s).time = s.time := by
  unfold loaderFault
  repeat' split
  all_goals simp
@[simp] theorem haltJobs_time (jobs : List LoadJob) (s : Block) : (haltJobs jobs s).time = s.time := by simp [haltJobs, foldl_keeps (fun b : Block => b.time)]
@[simp] theorem haltCurrent_time (s : Block) : (haltCurrent s).time = s.time := by
  unfold haltCurrent
  repeat' split
  all_goals simp
@[simp] theorem loaderHalt_time (s : Block) : (loaderHalt s).time = s.time := by simp [loaderHalt]
@[simp] theorem loaderBoundary_time (s : Block) : (loaderBoundary s).time = s.time := by simp [loaderBoundary]
@[simp] theorem endShadow_time (x : Shadow) (code : ResultCode) (s : Block) : (endShadow x code s).time = s.time := by unfold endShadow; split <;> simp
@[simp] theorem endStaging_time (x : Staging) (code : ResultCode) (s : Block) : (endStaging x code s).time = s.time := by unfold endStaging; split <;> simp
@[simp] theorem beginTable_time (j : TableJob) (s : Block) : (beginTable j s).time = s.time := by unfold beginTable; split <;> simp
@[simp] theorem takeTableJob_time (s : Block) : (takeTableJob s).time = s.time := by
  unfold takeTableJob
  repeat' split
  all_goals simp
@[simp] theorem submitTable_time (slot : Fin 32) (j : TableJob) (s : Block) : (submitTable slot j s).time = s.time := by unfold submitTable; split <;> simp
@[simp] theorem arrivePatch_time (slot : Fin 32) (address count : Word) (s : Block) : (arrivePatch slot address count s).time = s.time := by unfold arrivePatch; split <;> simp
@[simp] theorem arriveCurve_time (slot : Fin 32) (curve address : Word) (s : Block) : (arriveCurve slot curve address s).time = s.time := by unfold arriveCurve; split <;> simp
@[simp] theorem readerIdle_time (s : Block) : (readerIdle s).time = s.time := by simp [readerIdle]
@[simp] theorem emptyFilling_time (j : TableJob) (s : Block) : (emptyFilling j s).time = s.time := by unfold emptyFilling; split <;> simp
@[simp] theorem failTable_time (j : TableJob) (code : ResultCode) (v1 v2 : Word) (s : Block) : (failTable j code v1 v2 s).time = s.time := by simp [failTable]
@[simp] theorem validatePatch_time (slot : Fin 32) (j : TableJob) (words : List Word) (s : Block) : (validatePatch slot j words s).time = s.time := by
  unfold validatePatch
  dsimp only
  repeat' split
  all_goals simp
@[simp] theorem patchRead_time (j : TableJob) (slot : Fin 32) (address : Word) (count : Nat) (words : List Word) (s : Block) : (patchRead j slot address count words s).time = s.time := by
  unfold patchRead
  dsimp only
  repeat' split
  all_goals simp
@[simp] theorem curveRead_time (j : TableJob) (slot : Fin 32) (k : Fin 7) (address : Word) (words : List Word) (s : Block) : (curveRead j slot k address words s).time = s.time := by
  unfold curveRead
  dsimp only
  repeat' split
  all_goals simp
@[simp] theorem tablesDone_time (words : List Word) (s : Block) : (tablesDone words s).time = s.time := by
  unfold tablesDone
  repeat' split
  all_goals simp
@[simp] theorem tablesFault_time (s : Block) : (tablesFault s).time = s.time := by unfold tablesFault; split <;> simp
@[simp] theorem endTables_time (code : ResultCode) (s : Block) : (endTables code s).time = s.time := by simp [endTables, foldl_keeps (fun b : Block => b.time)]
@[simp] theorem tablesStop_time (s : Block) : (tablesStop s).time = s.time := by simp [tablesStop]
@[simp] theorem tablesHalt_time (s : Block) : (tablesHalt s).time = s.time := by unfold tablesHalt; split <;> simp
@[simp] theorem installPatch_time (s : Block) : (installPatch s).time = s.time := by unfold installPatch; split <;> simp
@[simp] theorem installCurve_time (k : Fin 7) (s : Block) : (installCurve k s).time = s.time := by unfold installCurve; split <;> simp
@[simp] theorem installTables_time (s : Block) : (installTables s).time = s.time := by simp [installTables, foldl_keeps (fun b : Block => b.time)]
@[simp] theorem periodEnds_time (s : Block) : (periodEnds s).time = s.time := by simp [periodEnds]
@[simp] theorem arriveSetOutputs_time (slot : Fin 32) (clock modes inverts : Word) (s : Block) : (arriveSetOutputs slot clock modes inverts s).time = s.time := by unfold arriveSetOutputs; split <;> simp
@[simp] theorem askStatus_time (s : Block) : (askStatus s).time = s.time := by unfold askStatus; split <;> simp
@[simp] theorem joinStatus_time (j : StatusJob) (s : Block) : (joinStatus j s).time = s.time := by unfold joinStatus; split <;> simp
@[simp] theorem leaveStatus_time (s : Block) : (leaveStatus s).time = s.time := by simp [leaveStatus]
@[simp] theorem beginPage_time (s : Block) : (beginPage s).time = s.time := by simp [beginPage]
@[simp] theorem statusDue_time (s : Block) : (statusDue s).time = s.time := by
  unfold statusDue
  repeat' split
  all_goals simp
@[simp] theorem endPage_time (s : Block) : (endPage s).time = s.time := by simp [endPage]
@[simp] theorem endSnapshot_time (code : ResultCode) (s : Block) : (endSnapshot code s).time = s.time := by unfold endSnapshot; split <;> simp
@[simp] theorem statusDone_time (s : Block) : (statusDone s).time = s.time := by
  unfold statusDone
  repeat' split
  all_goals simp
@[simp] theorem statusFault_time (s : Block) : (statusFault s).time = s.time := by unfold statusFault; split <;> simp
@[simp] theorem statusHalt_time (s : Block) : (statusHalt s).time = s.time := by unfold statusHalt; split <;> simp
@[simp] theorem statusStop_time (s : Block) : (statusStop s).time = s.time := by unfold statusStop; split <;> simp
@[simp] theorem countStatus_time (installed : Bool) (s : Block) : (countStatus installed s).time = s.time := by
  unfold countStatus
  dsimp only
  split <;> simp
@[simp] theorem arriveSnapshot_time (slot : Fin 32) (address : Word) (s : Block) : (arriveSnapshot slot address s).time = s.time := by unfold arriveSnapshot; split <;> simp
@[simp] theorem copySnapshot_time (s : Block) : (copySnapshot s).time = s.time := by unfold copySnapshot; split <;> simp
@[simp] theorem swap_time (s : Block) : (swap s).time = s.time := by simp [swap]
@[simp] theorem passStarts_time (s : Block) : (passStarts s).time = s.time := by simp [passStarts]
@[simp] theorem mixerBoundary_time (s : Block) : (mixerBoundary s).time = s.time := by
  unfold mixerBoundary
  repeat' split
  all_goals simp
@[simp] theorem passEnds_time (latch : PassLatch) (s : Block) : (passEnds latch s).time = s.time := by simp [passEnds]
@[simp] theorem arriveSetGrand_time (slot : Fin 32) (level time : Word) (s : Block) : (arriveSetGrand slot level time s).time = s.time := by unfold arriveSetGrand; split <;> simp
@[simp] theorem arriveBlackout_time (slot : Fin 32) (action : Word) (s : Block) : (arriveBlackout slot action s).time = s.time := by
  unfold arriveBlackout
  dsimp only
  split <;> simp
@[simp] theorem toggleBlackout_time (s : Block) : (toggleBlackout s).time = s.time := by simp [toggleBlackout]
@[simp] theorem grandSettles_time (s : Block) : (grandSettles s).time = s.time := by simp [grandSettles]
@[simp] theorem placeLine_time (l : Fin 4) (slot : Fin 32) (c : LineConfig) (s : Block) : (placeLine l slot c s).time = s.time := by unfold placeLine; split <;> simp
@[simp] theorem arriveSetLine_time (l : Fin 4) (slot : Fin 32) (mode rate count talkback base timeout action : Word) (s : Block) : (arriveSetLine l slot mode rate count talkback base timeout action s).time = s.time := by
  unfold arriveSetLine
  repeat' split
  all_goals simp
@[simp] theorem endQueries_time (code : ResultCode) (qs : List Query) (s : Block) : (endQueries code qs s).time = s.time := by simp [endQueries, foldl_keeps (fun b : Block => b.time)]
@[simp] theorem installLine_time (l : Fin 4) (s : Block) : (installLine l s).time = s.time := by
  unfold installLine
  dsimp only
  repeat' split
  all_goals simp
@[simp] theorem startFrame_time (l : Fin 4) (s : Block) : (startFrame l s).time = s.time := by unfold startFrame; split <;> simp
@[simp] theorem lineBoundary_time (l : Fin 4) (s : Block) : (lineBoundary l s).time = s.time := by simp [lineBoundary]
@[simp] theorem commit_time (l : Fin 4) (s : Block) : (commit l s).time = s.time := by
  unfold commit
  dsimp only
  repeat' split
  all_goals simp
@[simp] theorem mixCompletes_time (latch : PassLatch) (s : Block) : (mixCompletes latch s).time = s.time := by simp [mixCompletes, foldl_keeps (fun b : Block => b.time)]
@[simp] theorem signalExpires_time (l : Fin 4) (s : Block) : (signalExpires l s).time = s.time := by unfold signalExpires; split <;> simp
@[simp] theorem receiveCharacter_time (l : Fin 4) (flag : Bool) (data : Byte) (s : Block) : (receiveCharacter l flag data s).time = s.time := by
  unfold receiveCharacter
  dsimp only
  split <;> simp
@[simp] theorem receiving_time (l : Fin 4) (f : Line → Line) (s : Block) : (receiving l f s).time = s.time := by unfold receiving; split <;> simp
@[simp] theorem arriveClearLine_time (l : Fin 4) (slot : Fin 32) (s : Block) : (arriveClearLine l slot s).time = s.time := by simp [arriveClearLine]
@[simp] theorem dropPendingLine_time (l : Fin 4) (s : Block) : (dropPendingLine l s).time = s.time := by unfold dropPendingLine; split <;> simp
@[simp] theorem dropPendingLines_time (s : Block) : (dropPendingLines s).time = s.time := by simp [dropPendingLines, foldl_keeps (fun b : Block => b.time)]
@[simp] theorem arriveQuery_time (l : Fin 4) (slot : Fin 32) (address code count bytes0 bytes4 reply : Word) (s : Block) : (arriveQuery l slot address code count bytes0 bytes4 reply s).time = s.time := by
  unfold arriveQuery
  dsimp only
  repeat' split
  all_goals simp
@[simp] theorem endQuery_time (l : Fin 4) (code : ResultCode) (v1 v2 : Word) (s : Block) : (endQuery l code v1 v2 s).time = s.time := by
  unfold endQuery
  repeat' split
  all_goals simp
@[simp] theorem queryFrameEnded_time (l : Fin 4) (s : Block) : (queryFrameEnded l s).time = s.time := by
  unfold queryFrameEnded
  repeat' split
  all_goals simp
@[simp] theorem askTalkback_time (s : Block) : (askTalkback s).time = s.time := by
  unfold askTalkback
  repeat' split
  all_goals simp
@[simp] theorem placeReply_time (l : Fin 4) (r : Reply) (s : Block) : (placeReply l r s).time = s.time := by unfold placeReply; split <;> simp
@[simp] theorem replyWhole_time (l : Fin 4) (f : InFlight) (s : Block) : (replyWhole l f s).time = s.time := by unfold replyWhole; split <;> simp
@[simp] theorem failReply_time (l : Fin 4) (f : InFlight) (code : ResultCode) (reason : Nat) (s : Block) : (failReply l f code reason s).time = s.time := by simp [failReply]
@[simp] theorem replyCharacter_time (l : Fin 4) (f : InFlight) (flag : Bool) (data : Byte) (s : Block) : (replyCharacter l f flag data s).time = s.time := by unfold replyCharacter; split <;> simp
@[simp] theorem countStray_time (l : Fin 4) (s : Block) : (countStray l s).time = s.time := by simp [countStray]
@[simp] theorem talkbackCharacter_time (l : Fin 4) (flag : Bool) (data : Byte) (s : Block) : (talkbackCharacter l flag data s).time = s.time := by
  unfold talkbackCharacter
  dsimp only
  repeat' split
  all_goals simp
@[simp] theorem replyStarts_time (l : Fin 4) (s : Block) : (replyStarts l s).time = s.time := by unfold replyStarts; split <;> simp
@[simp] theorem replyTimesOut_time (l : Fin 4) (s : Block) : (replyTimesOut l s).time = s.time := by unfold replyTimesOut; split <;> simp
@[simp] theorem replyCollides_time (l : Fin 4) (kind : CollisionKind) (s : Block) : (replyCollides l kind s).time = s.time := by unfold replyCollides; split <;> simp
@[simp] theorem replyGap_time (l : Fin 4) (s : Block) : (replyGap l s).time = s.time := by
  unfold replyGap
  repeat' split
  all_goals simp
@[simp] theorem windowEnds_time (l : Fin 4) (s : Block) : (windowEnds l s).time = s.time := by unfold windowEnds; split <;> simp
@[simp] theorem endReply_time (code : ResultCode) (s : Block) : (endReply code s).time = s.time := by
  unfold endReply
  repeat' split
  all_goals simp
@[simp] theorem stopQueries_time (l : Fin 4) (s : Block) : (stopQueries l s).time = s.time := by simp [stopQueries]
@[simp] theorem haltQueries_time (l : Fin 4) (s : Block) : (haltQueries l s).time = s.time := by
  unfold haltQueries
  dsimp only
  split <;> simp
@[simp] theorem talkbackStop_time (s : Block) : (talkbackStop s).time = s.time := by simp [talkbackStop, foldl_keeps (fun b : Block => b.time)]
@[simp] theorem forgetQueries_time (s : Block) : (forgetQueries s).time = s.time := rfl

@[simp] theorem talkbackHalt_time (s : Block) : (talkbackHalt s).time = s.time := by simp [talkbackHalt, foldl_keeps (fun b : Block => b.time)]
@[simp] theorem performAction_time (t : Fin 8) (r : TriggerRecord) (s : Block) : (performAction t r s).time = s.time := by unfold performAction; split <;> simp
@[simp] theorem examineEdge_time (t : Fin 8) (level : Bool) (s : Block) : (examineEdge t level s).time = s.time := by
  unfold examineEdge
  dsimp only
  repeat' split
  all_goals simp
@[simp] theorem settle_time (t : Fin 8) (level : Bool) (s : Block) : (settle t level s).time = s.time := by simp [settle]
@[simp] theorem pinChanges_time (t : Fin 8) (level : Bool) (s : Block) : (pinChanges t level s).time = s.time := by
  unfold pinChanges
  dsimp only
  repeat' split
  all_goals simp
@[simp] theorem debounceEnds_time (t : Fin 8) (s : Block) : (debounceEnds t s).time = s.time := by simp [debounceEnds]
@[simp] theorem arriveSetTrigger_time (t : Fin 8) (slot : Fin 32) (edge debounce action playback bank cue time : Word) (s : Block) : (arriveSetTrigger t slot edge debounce action playback bank cue time s).time = s.time := by unfold arriveSetTrigger; split <;> simp
theorem withTarget_time (n : Nat) (slot : Fin 32) (w : Word) (f : Fin n → Block → Block) (s : Block) (h : ∀ x t, (f x t).time = t.time) : (withTarget n slot w f s).time = s.time := by unfold withTarget; split <;> simp [h]
@[simp] theorem dispatchSetLine_time (slot : Fin 32) (line mode rate count talkback base timeout action : Word) (s : Block) : (dispatchSetLine slot line mode rate count talkback base timeout action s).time = s.time := withTarget_time _ _ _ _ s (fun _ _ => by simp)
@[simp] theorem dispatchSetTrigger_time (slot : Fin 32) (trigger edge debounce action playback bank cue time : Word) (s : Block) : (dispatchSetTrigger slot trigger edge debounce action playback bank cue time s).time = s.time := withTarget_time _ _ _ _ s (fun _ _ => by simp)
@[simp] theorem dispatchClearLine_time (slot : Fin 32) (line : Word) (s : Block) : (dispatchClearLine slot line s).time = s.time := withTarget_time _ _ _ _ s (fun _ _ => by simp)
@[simp] theorem dispatchQuery_time (slot : Fin 32) (line address code count bytes0 bytes4 reply : Word) (s : Block) : (dispatchQuery slot line address code count bytes0 bytes4 reply s).time = s.time := withTarget_time _ _ _ _ s (fun _ _ => by simp)
@[simp] theorem dispatchGo_time (slot : Fin 32) (playback bank cue time : Word) (s : Block) : (dispatchGo slot playback bank cue time s).time = s.time := withTarget_time _ _ _ _ s (fun _ _ => by simp)
@[simp] theorem dispatchGoNext_time (slot : Fin 32) (playback bank : Word) (s : Block) : (dispatchGoNext slot playback bank s).time = s.time := withTarget_time _ _ _ _ s (fun _ _ => by simp)
@[simp] theorem dispatchPause_time (slot : Fin 32) (playback : Word) (s : Block) : (dispatchPause slot playback s).time = s.time := withTarget_time _ _ _ _ s (fun _ _ => by simp)
@[simp] theorem dispatchResume_time (slot : Fin 32) (playback : Word) (s : Block) : (dispatchResume slot playback s).time = s.time := withTarget_time _ _ _ _ s (fun _ _ => by simp)
@[simp] theorem dispatchRelease_time (slot : Fin 32) (playback time : Word) (s : Block) : (dispatchRelease slot playback time s).time = s.time := withTarget_time _ _ _ _ s (fun _ _ => by simp)
@[simp] theorem dispatchSetMaster_time (slot : Fin 32) (playback level time : Word) (s : Block) : (dispatchSetMaster slot playback level time s).time = s.time := withTarget_time _ _ _ _ s (fun _ _ => by simp)
@[simp] theorem startScan_time (s : Block) : (startScan s).time = s.time := by simp [startScan]
@[simp] theorem scanDue_time (s : Block) : (scanDue s).time = s.time := by unfold scanDue; split <;> simp
@[simp] theorem endScan_time (s : Block) : (endScan s).time = s.time := by unfold endScan; split <;> simp
@[simp] theorem visit_time (taken : Nat) (s : Block) (xs : List (Fin 32)) : (visit taken s xs).time = s.time := by
  induction xs with
  | nil => simp [visit]
  | cons i rest ih =>
    rw [visit]
    split
    · simp
    · split
      · exact ih
      · split <;> simp
@[simp] theorem rowRead_time (row words : List Word) (s : Block) : (rowRead row words s).time = s.time := by
  unfold rowRead
  dsimp only
  split <;> simp
@[simp] theorem claimDone_time (i : Fin 32) (rest : List (Fin 32)) (taken : Nat) (value : Word) (s : Block) : (claimDone i rest taken value s).time = s.time := by
  unfold claimDone
  repeat' split
  all_goals simp
@[simp] theorem scannerFault_time (s : Block) : (scannerFault s).time = s.time := by unfold scannerFault; split <;> simp
@[simp] theorem scannerHalt_time (s : Block) : (scannerHalt s).time = s.time := by unfold scannerHalt; split <;> simp
@[simp] theorem countScan_time (installed : Bool) (s : Block) : (countScan installed s).time = s.time := by
  unfold countScan
  dsimp only
  split <;> simp
@[simp] theorem resultsDone_time (s : Block) : (resultsDone s).time = s.time := by unfold resultsDone; split <;> simp
@[simp] theorem resultsFault_time (s : Block) : (resultsFault s).time = s.time := rfl
@[simp] theorem resultsBoundary_time (s : Block) : (resultsBoundary s).time = s.time := by unfold resultsBoundary; split <;> simp
@[simp] theorem resultsHalt_time (s : Block) : (resultsHalt s).time = s.time := rfl
@[simp] theorem enterStarting_time (s : Block) : (enterStarting s).time = s.time := by simp [enterStarting]
@[simp] theorem startIfSet_time (s : Block) : (startIfSet s).time = s.time := by unfold startIfSet; split <;> simp
@[simp] theorem enterStopped_time (s : Block) : (enterStopped s).time = s.time := by simp [enterStopped]
@[simp] theorem anchorBad_time (s : Block) : (anchorBad s).time = s.time := rfl
@[simp] theorem enterRunning_time (s : Block) : (enterRunning s).time = s.time := rfl
@[simp] theorem sweepFrom_time (bank : Nat) (s : Block) : (sweepFrom bank s).time = s.time := by unfold sweepFrom; split <;> simp
@[simp] theorem anchorRead_time (before words : List Word) (s : Block) : (anchorRead before words s).time = s.time := by
  unfold anchorRead
  dsimp only
  repeat' split
  all_goals simp
@[simp] theorem startDone_time (words : List Word) (s : Block) : (startDone words s).time = s.time := by
  unfold startDone
  repeat' split
  all_goals simp
@[simp] theorem startFault_time (s : Block) : (startFault s).time = s.time := by unfold startFault; split <;> simp
@[simp] theorem abortStart_time (done : Nat) (s : Block) : (abortStart done s).time = s.time := by unfold abortStart; split <;> simp
@[simp] theorem enterHalted_time (s : Block) : (enterHalted s).time = s.time := by simp [enterHalted]
@[simp] theorem clientFault_time (c : Client) (words : List Word) (s : Block) : (clientFault c words s).time = s.time := by
  unfold clientFault
  repeat' split
  all_goals simp
@[simp] theorem serveNext_time (s : Block) : (serveNext s).time = s.time := rfl
@[simp] theorem takeBoundary_time (installed : Bool) (b : BoundaryTaker) (s : Block) : (takeBoundary installed b s).time = s.time := by unfold takeBoundary; split <;> simp
@[simp] theorem endPass_time (s : Block) : (endPass s).time = s.time := by unfold endPass; split <;> simp
@[simp] theorem masterSettles_time (p : Fin 8) (s : Block) : (masterSettles p s).time = s.time := by simp [masterSettles]
@[simp] theorem movePin_time (t : Fin 8) (level : Bool) (s : Block) : (movePin t level s).time = s.time := rfl
theorem receiverEvent_time (l : Fin 4) (frame : Line → Line) (reply : Block → Block) (s : Block) (h : ∀ t, (reply t).time = t.time) : (receiverEvent l frame reply s).time = s.time := by
  unfold receiverEvent
  dsimp only
  repeat' split
  all_goals simp [h]
@[simp] theorem edit_store (p : Fin 8) (freed : Nat) (s : Block) : (edit p freed s).store = s.store := by unfold edit; split <;> simp
@[simp] theorem takeLoadJob_store (s : Block) : (takeLoadJob s).store = s.store := by
  unfold takeLoadJob
  repeat' split
  all_goals simp
@[simp] theorem submitLoad_store (p : Fin 8) (bank : Nat) (search : Search) (s : Block) : (submitLoad p bank search s).store = s.store := by simp [submitLoad]
@[simp] theorem followEnd_store (p : Fin 8) (s : Block) : (followEnd p s).store = s.store := by
  unfold followEnd
  dsimp only
  split <;> simp
@[simp] theorem followIfDue_store (p : Fin 8) (s : Block) : (followIfDue p s).store = s.store := by unfold followIfDue; split <;> simp
@[simp] theorem fadeEnds_store (p : Fin 8) (s : Block) : (fadeEnds p s).store = s.store := by
  unfold fadeEnds
  dsimp only
  split <;> simp
@[simp] theorem fadeEndIfDue_store (p : Fin 8) (s : Block) : (fadeEndIfDue p s).store = s.store := by unfold fadeEndIfDue; split <;> simp
@[simp] theorem finishHead_store (p : Fin 8) (code : ResultCode) (v1 v2 : Word) (s : Block) : (finishHead p code v1 v2 s).store = s.store := by unfold finishHead; split <;> simp
@[simp] theorem servePause_store (p : Fin 8) (s : Block) : (servePause p s).store = s.store := by
  unfold servePause
  dsimp only
  split <;> simp
@[simp] theorem serveResume_store (p : Fin 8) (s : Block) : (serveResume p s).store = s.store := by
  unfold serveResume
  dsimp only
  split <;> simp
@[simp] theorem serveLoad_store (p : Fin 8) (choice : Option (Nat × Search)) (s : Block) : (serveLoad p choice s).store = s.store := by
  unfold serveLoad
  repeat' split
  all_goals simp
@[simp] theorem serveHead_store (p : Fin 8) (s : Block) : (serveHead p s).store = s.store := by
  unfold serveHead
  dsimp only
  repeat' split
  all_goals simp
@[simp] theorem serveUpTo_store (n : Nat) (p : Fin 8) (s : Block) : (serveUpTo n p s).store = s.store := by
  induction n generalizing s with
  | zero => rfl
  | succ n ih => unfold serveUpTo; split <;> simp [ih]
@[simp] theorem serve_store (p : Fin 8) (s : Block) : (serve p s).store = s.store := by simp [serve]
@[simp] theorem queueFull_store (o : Origin) (s : Block) : (queueFull o s).store = s.store := by unfold queueFull; split <;> simp
@[simp] theorem arriveQueued_store (p : Fin 8) (o : Origin) (k : QueuedKind) (s : Block) : (arriveQueued p o k s).store = s.store := by
  unfold arriveQueued
  repeat' split
  all_goals simp
@[simp] theorem cancelRequests_store (rs : List QueuedRequest) (s : Block) : (cancelRequests rs s).store = s.store := by simp [cancelRequests, foldl_keeps (fun b : Block => b.store)]
@[simp] theorem markAbandoned_store (p : Fin 8) (s : Block) : (markAbandoned p s).store = s.store := by
  unfold markAbandoned
  repeat' split
  all_goals simp
@[simp] theorem abandonLoad_store (p : Fin 8) (s : Block) : (abandonLoad p s).store = s.store := by unfold abandonLoad; split <;> simp
@[simp] theorem cancelAndAbandon_store (p : Fin 8) (s : Block) : (cancelAndAbandon p s).store = s.store := by simp [cancelAndAbandon]
@[simp] theorem releaseBuild_store (p : Fin 8) (time : Option Nat) (s : Block) : (releaseBuild p time s).store = s.store := by simp [releaseBuild]
@[simp] theorem arriveRelease_store (p : Fin 8) (o : Origin) (time : Option Nat) (s : Block) : (arriveRelease p o time s).store = s.store := by
  unfold arriveRelease
  dsimp only
  repeat' split
  all_goals simp
@[simp] theorem arriveSetMaster_store (p : Fin 8) (slot : Fin 32) (level time : Word) (s : Block) : (arriveSetMaster p slot level time s).store = s.store := by unfold arriveSetMaster; split <;> simp
@[simp] theorem clearPlayback_store (p : Fin 8) (s : Block) : (clearPlayback p s).store = s.store := by simp [clearPlayback]
@[simp] theorem clearPlaybacks_store (s : Block) : (clearPlaybacks s).store = s.store := by simp [clearPlaybacks, foldl_keeps (fun b : Block => b.store)]
@[simp] theorem loadCompleted_store (p : Fin 8) (bank : Nat) (h : CueHeader) (s : Block) : (loadCompleted p bank h s).store = s.store := by simp [loadCompleted]
@[simp] theorem loadEnded_store (p : Fin 8) (code : ResultCode) (s : Block) : (loadEnded p code s).store = s.store := by simp [loadEnded]
@[simp] theorem freeLoad_store (p : Fin 8) (s : Block) : (freeLoad p s).store = s.store := by simp [freeLoad]
theorem endJob_store (report : Block → Block) (s : Block) (h : ∀ t, (report t).store = t.store) : (endJob report s).store = s.store := by simp [endJob, h]
@[simp] theorem endUnfinished_store (c : CurrentLoad) (code : ResultCode) (s : Block) : (endUnfinished c code s).store = s.store := endJob_store _ s (fun _ => by simp)
@[simp] theorem enterUnlock_store (c : CurrentLoad) (s : Block) : (enterUnlock c s).store = s.store := by simp [enterUnlock]
@[simp] theorem failLoad_store (c : CurrentLoad) (code : ResultCode) (s : Block) : (failLoad c code s).store = s.store := by unfold failLoad; split <;> simp
@[simp] theorem readBank_store (c : CurrentLoad) (stage : LoadStage) (k words : Nat) (s : Block) : (readBank c stage k words s).store = s.store := by simp [readBank]
@[simp] theorem putBack_store (c : CurrentLoad) (s : Block) : (putBack c s).store = s.store := by simp [putBack]
@[simp] theorem lockDone_store (c : CurrentLoad) (value : Word) (s : Block) : (lockDone c value s).store = s.store := by
  unfold lockDone
  repeat' split
  all_goals simp
@[simp] theorem countRead_store (c : CurrentLoad) (n : Nat) (s : Block) : (countRead c n s).store = s.store := by
  unfold countRead
  repeat' split
  all_goals simp
@[simp] theorem directoryRead_store (c : CurrentLoad) (count position : Nat) (words : List Word) (s : Block) : (directoryRead c count position words s).store = s.store := by
  unfold directoryRead
  dsimp only
  repeat' split
  all_goals simp
@[simp] theorem headerRead_store (c : CurrentLoad) (number offset : Nat) (words : List Word) (s : Block) : (headerRead c number offset words s).store = s.store := by
  unfold headerRead
  repeat' split
  all_goals simp
@[simp] theorem entriesRead_store (c : CurrentLoad) (offset position : Nat) (words : List Word) (s : Block) : (entriesRead c offset position words s).store = s.store := by
  unfold entriesRead
  dsimp only
  repeat' split
  all_goals simp
@[simp] theorem unlockDone_store (c : CurrentLoad) (s : Block) : (unlockDone c s).store = s.store := by
  unfold unlockDone
  split
  · rw [endJob_store _ _ (fun _ => by simp)]; simp
  · simp
@[simp] theorem loaderDone_store (words : List Word) (s : Block) : (loaderDone words s).store = s.store := by
  unfold loaderDone
  repeat' split
  all_goals simp
@[simp] theorem loaderFault_store (read : Bool) (s : Block) : (loaderFault read s).store = s.store := by
  unfold loaderFault
  repeat' split
  all_goals simp
@[simp] theorem haltJobs_store (jobs : List LoadJob) (s : Block) : (haltJobs jobs s).store = s.store := by simp [haltJobs, foldl_keeps (fun b : Block => b.store)]
@[simp] theorem haltCurrent_store (s : Block) : (haltCurrent s).store = s.store := by
  unfold haltCurrent
  repeat' split
  all_goals simp
@[simp] theorem loaderHalt_store (s : Block) : (loaderHalt s).store = s.store := by simp [loaderHalt]
@[simp] theorem loaderBoundary_store (s : Block) : (loaderBoundary s).store = s.store := by simp [loaderBoundary]
@[simp] theorem endShadow_store (x : Shadow) (code : ResultCode) (s : Block) : (endShadow x code s).store = s.store := by unfold endShadow; split <;> simp
@[simp] theorem endStaging_store (x : Staging) (code : ResultCode) (s : Block) : (endStaging x code s).store = s.store := by unfold endStaging; split <;> simp
@[simp] theorem beginTable_store (j : TableJob) (s : Block) : (beginTable j s).store = s.store := by unfold beginTable; split <;> simp
@[simp] theorem takeTableJob_store (s : Block) : (takeTableJob s).store = s.store := by
  unfold takeTableJob
  repeat' split
  all_goals simp
@[simp] theorem submitTable_store (slot : Fin 32) (j : TableJob) (s : Block) : (submitTable slot j s).store = s.store := by unfold submitTable; split <;> simp
@[simp] theorem arrivePatch_store (slot : Fin 32) (address count : Word) (s : Block) : (arrivePatch slot address count s).store = s.store := by unfold arrivePatch; split <;> simp
@[simp] theorem arriveCurve_store (slot : Fin 32) (curve address : Word) (s : Block) : (arriveCurve slot curve address s).store = s.store := by unfold arriveCurve; split <;> simp
@[simp] theorem readerIdle_store (s : Block) : (readerIdle s).store = s.store := by simp [readerIdle]
@[simp] theorem emptyFilling_store (j : TableJob) (s : Block) : (emptyFilling j s).store = s.store := by unfold emptyFilling; split <;> simp
@[simp] theorem failTable_store (j : TableJob) (code : ResultCode) (v1 v2 : Word) (s : Block) : (failTable j code v1 v2 s).store = s.store := by simp [failTable]
@[simp] theorem validatePatch_store (slot : Fin 32) (j : TableJob) (words : List Word) (s : Block) : (validatePatch slot j words s).store = s.store := by
  unfold validatePatch
  dsimp only
  repeat' split
  all_goals simp
@[simp] theorem patchRead_store (j : TableJob) (slot : Fin 32) (address : Word) (count : Nat) (words : List Word) (s : Block) : (patchRead j slot address count words s).store = s.store := by
  unfold patchRead
  dsimp only
  repeat' split
  all_goals simp
@[simp] theorem curveRead_store (j : TableJob) (slot : Fin 32) (k : Fin 7) (address : Word) (words : List Word) (s : Block) : (curveRead j slot k address words s).store = s.store := by
  unfold curveRead
  dsimp only
  repeat' split
  all_goals simp
@[simp] theorem tablesDone_store (words : List Word) (s : Block) : (tablesDone words s).store = s.store := by
  unfold tablesDone
  repeat' split
  all_goals simp
@[simp] theorem tablesFault_store (s : Block) : (tablesFault s).store = s.store := by unfold tablesFault; split <;> simp
@[simp] theorem endTables_store (code : ResultCode) (s : Block) : (endTables code s).store = s.store := by simp [endTables, foldl_keeps (fun b : Block => b.store)]
@[simp] theorem tablesStop_store (s : Block) : (tablesStop s).store = s.store := by simp [tablesStop]
@[simp] theorem tablesHalt_store (s : Block) : (tablesHalt s).store = s.store := by unfold tablesHalt; split <;> simp
@[simp] theorem installPatch_store (s : Block) : (installPatch s).store = s.store := by unfold installPatch; split <;> simp
@[simp] theorem installCurve_store (k : Fin 7) (s : Block) : (installCurve k s).store = s.store := by unfold installCurve; split <;> simp
@[simp] theorem installTables_store (s : Block) : (installTables s).store = s.store := by simp [installTables, foldl_keeps (fun b : Block => b.store)]
@[simp] theorem periodEnds_store (s : Block) : (periodEnds s).store = s.store := by simp [periodEnds]
@[simp] theorem arriveSetOutputs_store (slot : Fin 32) (clock modes inverts : Word) (s : Block) : (arriveSetOutputs slot clock modes inverts s).store = s.store := by unfold arriveSetOutputs; split <;> simp
@[simp] theorem askStatus_store (s : Block) : (askStatus s).store = s.store := by unfold askStatus; split <;> simp
@[simp] theorem joinStatus_store (j : StatusJob) (s : Block) : (joinStatus j s).store = s.store := by unfold joinStatus; split <;> simp
@[simp] theorem leaveStatus_store (s : Block) : (leaveStatus s).store = s.store := by simp [leaveStatus]
@[simp] theorem beginPage_store (s : Block) : (beginPage s).store = s.store := by simp [beginPage]
@[simp] theorem statusDue_store (s : Block) : (statusDue s).store = s.store := by
  unfold statusDue
  repeat' split
  all_goals simp
@[simp] theorem endPage_store (s : Block) : (endPage s).store = s.store := by simp [endPage]
@[simp] theorem endSnapshot_store (code : ResultCode) (s : Block) : (endSnapshot code s).store = s.store := by unfold endSnapshot; split <;> simp
@[simp] theorem statusDone_store (s : Block) : (statusDone s).store = s.store := by
  unfold statusDone
  repeat' split
  all_goals simp
@[simp] theorem statusFault_store (s : Block) : (statusFault s).store = s.store := by unfold statusFault; split <;> simp
@[simp] theorem statusHalt_store (s : Block) : (statusHalt s).store = s.store := by unfold statusHalt; split <;> simp
@[simp] theorem statusStop_store (s : Block) : (statusStop s).store = s.store := by unfold statusStop; split <;> simp
@[simp] theorem countStatus_store (installed : Bool) (s : Block) : (countStatus installed s).store = s.store := by
  unfold countStatus
  dsimp only
  split <;> simp
@[simp] theorem arriveSnapshot_store (slot : Fin 32) (address : Word) (s : Block) : (arriveSnapshot slot address s).store = s.store := by unfold arriveSnapshot; split <;> simp
@[simp] theorem copySnapshot_store (s : Block) : (copySnapshot s).store = s.store := by unfold copySnapshot; split <;> simp
@[simp] theorem arriveSetGrand_store (slot : Fin 32) (level time : Word) (s : Block) : (arriveSetGrand slot level time s).store = s.store := by unfold arriveSetGrand; split <;> simp
@[simp] theorem arriveBlackout_store (slot : Fin 32) (action : Word) (s : Block) : (arriveBlackout slot action s).store = s.store := by
  unfold arriveBlackout
  dsimp only
  split <;> simp
@[simp] theorem toggleBlackout_store (s : Block) : (toggleBlackout s).store = s.store := by simp [toggleBlackout]
@[simp] theorem grandSettles_store (s : Block) : (grandSettles s).store = s.store := by simp [grandSettles]
@[simp] theorem placeLine_store (l : Fin 4) (slot : Fin 32) (c : LineConfig) (s : Block) : (placeLine l slot c s).store = s.store := by unfold placeLine; split <;> simp
@[simp] theorem arriveSetLine_store (l : Fin 4) (slot : Fin 32) (mode rate count talkback base timeout action : Word) (s : Block) : (arriveSetLine l slot mode rate count talkback base timeout action s).store = s.store := by
  unfold arriveSetLine
  repeat' split
  all_goals simp
@[simp] theorem endQueries_store (code : ResultCode) (qs : List Query) (s : Block) : (endQueries code qs s).store = s.store := by simp [endQueries, foldl_keeps (fun b : Block => b.store)]
@[simp] theorem installLine_store (l : Fin 4) (s : Block) : (installLine l s).store = s.store := by
  unfold installLine
  dsimp only
  repeat' split
  all_goals simp
@[simp] theorem startFrame_store (l : Fin 4) (s : Block) : (startFrame l s).store = s.store := by unfold startFrame; split <;> simp
@[simp] theorem lineBoundary_store (l : Fin 4) (s : Block) : (lineBoundary l s).store = s.store := by simp [lineBoundary]
@[simp] theorem commit_store (l : Fin 4) (s : Block) : (commit l s).store = s.store := by
  unfold commit
  dsimp only
  repeat' split
  all_goals simp
@[simp] theorem signalExpires_store (l : Fin 4) (s : Block) : (signalExpires l s).store = s.store := by unfold signalExpires; split <;> simp
@[simp] theorem receiveCharacter_store (l : Fin 4) (flag : Bool) (data : Byte) (s : Block) : (receiveCharacter l flag data s).store = s.store := by
  unfold receiveCharacter
  dsimp only
  split <;> simp
@[simp] theorem receiving_store (l : Fin 4) (f : Line → Line) (s : Block) : (receiving l f s).store = s.store := by unfold receiving; split <;> simp
@[simp] theorem arriveClearLine_store (l : Fin 4) (slot : Fin 32) (s : Block) : (arriveClearLine l slot s).store = s.store := by simp [arriveClearLine]
@[simp] theorem dropPendingLine_store (l : Fin 4) (s : Block) : (dropPendingLine l s).store = s.store := by unfold dropPendingLine; split <;> simp
@[simp] theorem dropPendingLines_store (s : Block) : (dropPendingLines s).store = s.store := by simp [dropPendingLines, foldl_keeps (fun b : Block => b.store)]
@[simp] theorem arriveQuery_store (l : Fin 4) (slot : Fin 32) (address code count bytes0 bytes4 reply : Word) (s : Block) : (arriveQuery l slot address code count bytes0 bytes4 reply s).store = s.store := by
  unfold arriveQuery
  dsimp only
  repeat' split
  all_goals simp
@[simp] theorem endQuery_store (l : Fin 4) (code : ResultCode) (v1 v2 : Word) (s : Block) : (endQuery l code v1 v2 s).store = s.store := by
  unfold endQuery
  repeat' split
  all_goals simp
@[simp] theorem queryFrameEnded_store (l : Fin 4) (s : Block) : (queryFrameEnded l s).store = s.store := by
  unfold queryFrameEnded
  repeat' split
  all_goals simp
@[simp] theorem askTalkback_store (s : Block) : (askTalkback s).store = s.store := by
  unfold askTalkback
  repeat' split
  all_goals simp
@[simp] theorem placeReply_store (l : Fin 4) (r : Reply) (s : Block) : (placeReply l r s).store = s.store := by unfold placeReply; split <;> simp
@[simp] theorem replyWhole_store (l : Fin 4) (f : InFlight) (s : Block) : (replyWhole l f s).store = s.store := by unfold replyWhole; split <;> simp
@[simp] theorem failReply_store (l : Fin 4) (f : InFlight) (code : ResultCode) (reason : Nat) (s : Block) : (failReply l f code reason s).store = s.store := by simp [failReply]
@[simp] theorem replyCharacter_store (l : Fin 4) (f : InFlight) (flag : Bool) (data : Byte) (s : Block) : (replyCharacter l f flag data s).store = s.store := by unfold replyCharacter; split <;> simp
@[simp] theorem countStray_store (l : Fin 4) (s : Block) : (countStray l s).store = s.store := by simp [countStray]
@[simp] theorem talkbackCharacter_store (l : Fin 4) (flag : Bool) (data : Byte) (s : Block) : (talkbackCharacter l flag data s).store = s.store := by
  unfold talkbackCharacter
  dsimp only
  repeat' split
  all_goals simp
@[simp] theorem replyStarts_store (l : Fin 4) (s : Block) : (replyStarts l s).store = s.store := by unfold replyStarts; split <;> simp
@[simp] theorem replyTimesOut_store (l : Fin 4) (s : Block) : (replyTimesOut l s).store = s.store := by unfold replyTimesOut; split <;> simp
@[simp] theorem replyCollides_store (l : Fin 4) (kind : CollisionKind) (s : Block) : (replyCollides l kind s).store = s.store := by unfold replyCollides; split <;> simp
@[simp] theorem replyGap_store (l : Fin 4) (s : Block) : (replyGap l s).store = s.store := by
  unfold replyGap
  repeat' split
  all_goals simp
@[simp] theorem windowEnds_store (l : Fin 4) (s : Block) : (windowEnds l s).store = s.store := by unfold windowEnds; split <;> simp
@[simp] theorem endReply_store (code : ResultCode) (s : Block) : (endReply code s).store = s.store := by
  unfold endReply
  repeat' split
  all_goals simp
@[simp] theorem stopQueries_store (l : Fin 4) (s : Block) : (stopQueries l s).store = s.store := by simp [stopQueries]
@[simp] theorem haltQueries_store (l : Fin 4) (s : Block) : (haltQueries l s).store = s.store := by
  unfold haltQueries
  dsimp only
  split <;> simp
@[simp] theorem talkbackStop_store (s : Block) : (talkbackStop s).store = s.store := by simp [talkbackStop, foldl_keeps (fun b : Block => b.store)]
@[simp] theorem forgetQueries_store (s : Block) : (forgetQueries s).store = s.store := rfl

@[simp] theorem talkbackHalt_store (s : Block) : (talkbackHalt s).store = s.store := by simp [talkbackHalt, foldl_keeps (fun b : Block => b.store)]
@[simp] theorem performAction_store (t : Fin 8) (r : TriggerRecord) (s : Block) : (performAction t r s).store = s.store := by unfold performAction; split <;> simp
@[simp] theorem examineEdge_store (t : Fin 8) (level : Bool) (s : Block) : (examineEdge t level s).store = s.store := by
  unfold examineEdge
  dsimp only
  repeat' split
  all_goals simp
@[simp] theorem settle_store (t : Fin 8) (level : Bool) (s : Block) : (settle t level s).store = s.store := by simp [settle]
@[simp] theorem pinChanges_store (t : Fin 8) (level : Bool) (s : Block) : (pinChanges t level s).store = s.store := by
  unfold pinChanges
  dsimp only
  repeat' split
  all_goals simp
@[simp] theorem debounceEnds_store (t : Fin 8) (s : Block) : (debounceEnds t s).store = s.store := by simp [debounceEnds]
@[simp] theorem arriveSetTrigger_store (t : Fin 8) (slot : Fin 32) (edge debounce action playback bank cue time : Word) (s : Block) : (arriveSetTrigger t slot edge debounce action playback bank cue time s).store = s.store := by unfold arriveSetTrigger; split <;> simp
@[simp] theorem tick_store (s : Block) : (tick s).store = s.store := by simp [tick]
@[simp] theorem placeFrame_store (slot : Fin 32) (v : FrameValues) (s : Block) : (placeFrame slot v s).store = s.store := by unfold placeFrame; split <;> simp
@[simp] theorem arriveSetFrame_store (slot : Fin 32) (period scan status : Word) (s : Block) : (arriveSetFrame slot period scan status s).store = s.store := by
  unfold arriveSetFrame
  repeat' split
  all_goals simp
@[simp] theorem installFrame_store (s : Block) : (installFrame s).store = s.store := by unfold installFrame; split <;> simp
@[simp] theorem dropPendingFrame_store (s : Block) : (dropPendingFrame s).store = s.store := by unfold dropPendingFrame; split <;> simp
@[simp] theorem frameExpires_store (s : Block) : (frameExpires s).store = s.store := by simp [frameExpires]
theorem withTarget_store (n : Nat) (slot : Fin 32) (w : Word) (f : Fin n → Block → Block) (s : Block) (h : ∀ x t, (f x t).store = t.store) : (withTarget n slot w f s).store = s.store := by unfold withTarget; split <;> simp [h]
@[simp] theorem dispatchSetLine_store (slot : Fin 32) (line mode rate count talkback base timeout action : Word) (s : Block) : (dispatchSetLine slot line mode rate count talkback base timeout action s).store = s.store := withTarget_store _ _ _ _ s (fun _ _ => by simp)
@[simp] theorem dispatchSetTrigger_store (slot : Fin 32) (trigger edge debounce action playback bank cue time : Word) (s : Block) : (dispatchSetTrigger slot trigger edge debounce action playback bank cue time s).store = s.store := withTarget_store _ _ _ _ s (fun _ _ => by simp)
@[simp] theorem dispatchClearLine_store (slot : Fin 32) (line : Word) (s : Block) : (dispatchClearLine slot line s).store = s.store := withTarget_store _ _ _ _ s (fun _ _ => by simp)
@[simp] theorem dispatchQuery_store (slot : Fin 32) (line address code count bytes0 bytes4 reply : Word) (s : Block) : (dispatchQuery slot line address code count bytes0 bytes4 reply s).store = s.store := withTarget_store _ _ _ _ s (fun _ _ => by simp)
@[simp] theorem dispatchGo_store (slot : Fin 32) (playback bank cue time : Word) (s : Block) : (dispatchGo slot playback bank cue time s).store = s.store := withTarget_store _ _ _ _ s (fun _ _ => by simp)
@[simp] theorem dispatchGoNext_store (slot : Fin 32) (playback bank : Word) (s : Block) : (dispatchGoNext slot playback bank s).store = s.store := withTarget_store _ _ _ _ s (fun _ _ => by simp)
@[simp] theorem dispatchPause_store (slot : Fin 32) (playback : Word) (s : Block) : (dispatchPause slot playback s).store = s.store := withTarget_store _ _ _ _ s (fun _ _ => by simp)
@[simp] theorem dispatchResume_store (slot : Fin 32) (playback : Word) (s : Block) : (dispatchResume slot playback s).store = s.store := withTarget_store _ _ _ _ s (fun _ _ => by simp)
@[simp] theorem dispatchRelease_store (slot : Fin 32) (playback time : Word) (s : Block) : (dispatchRelease slot playback time s).store = s.store := withTarget_store _ _ _ _ s (fun _ _ => by simp)
@[simp] theorem dispatchSetMaster_store (slot : Fin 32) (playback level time : Word) (s : Block) : (dispatchSetMaster slot playback level time s).store = s.store := withTarget_store _ _ _ _ s (fun _ _ => by simp)
@[simp] theorem dispatch_store (slot : Fin 32) (words : List Word) (s : Block) : (dispatch slot words s).store = s.store := by unfold dispatch; split <;> simp
@[simp] theorem startScan_store (s : Block) : (startScan s).store = s.store := by simp [startScan]
@[simp] theorem scanDue_store (s : Block) : (scanDue s).store = s.store := by unfold scanDue; split <;> simp
@[simp] theorem endScan_store (s : Block) : (endScan s).store = s.store := by unfold endScan; split <;> simp
@[simp] theorem visit_store (taken : Nat) (s : Block) (xs : List (Fin 32)) : (visit taken s xs).store = s.store := by
  induction xs with
  | nil => simp [visit]
  | cons i rest ih =>
    rw [visit]
    split
    · simp
    · split
      · exact ih
      · split <;> simp
@[simp] theorem rowRead_store (row words : List Word) (s : Block) : (rowRead row words s).store = s.store := by
  unfold rowRead
  dsimp only
  split <;> simp
@[simp] theorem claimDone_store (i : Fin 32) (rest : List (Fin 32)) (taken : Nat) (value : Word) (s : Block) : (claimDone i rest taken value s).store = s.store := by
  unfold claimDone
  repeat' split
  all_goals simp
@[simp] theorem bodyDone_store (i : Fin 32) (rest : List (Fin 32)) (taken : Nat) (words : List Word) (s : Block) : (bodyDone i rest taken words s).store = s.store := by unfold bodyDone; split <;> simp
@[simp] theorem scannerDone_store (words : List Word) (s : Block) : (scannerDone words s).store = s.store := by unfold scannerDone; split <;> simp
@[simp] theorem scannerFault_store (s : Block) : (scannerFault s).store = s.store := by unfold scannerFault; split <;> simp
@[simp] theorem scannerHalt_store (s : Block) : (scannerHalt s).store = s.store := by unfold scannerHalt; split <;> simp
@[simp] theorem countScan_store (installed : Bool) (s : Block) : (countScan installed s).store = s.store := by
  unfold countScan
  dsimp only
  split <;> simp
@[simp] theorem resultsDone_store (s : Block) : (resultsDone s).store = s.store := by unfold resultsDone; split <;> simp
@[simp] theorem resultsFault_store (s : Block) : (resultsFault s).store = s.store := rfl
@[simp] theorem resultsBoundary_store (s : Block) : (resultsBoundary s).store = s.store := by unfold resultsBoundary; split <;> simp
@[simp] theorem resultsHalt_store (s : Block) : (resultsHalt s).store = s.store := rfl
@[simp] theorem anchorBad_store (s : Block) : (anchorBad s).store = s.store := rfl
@[simp] theorem enterRunning_store (s : Block) : (enterRunning s).store = s.store := rfl
@[simp] theorem sweepFrom_store (bank : Nat) (s : Block) : (sweepFrom bank s).store = s.store := by unfold sweepFrom; split <;> simp
@[simp] theorem anchorRead_store (before words : List Word) (s : Block) : (anchorRead before words s).store = s.store := by
  unfold anchorRead
  dsimp only
  repeat' split
  all_goals simp
@[simp] theorem startDone_store (words : List Word) (s : Block) : (startDone words s).store = s.store := by
  unfold startDone
  repeat' split
  all_goals simp
@[simp] theorem startFault_store (s : Block) : (startFault s).store = s.store := by unfold startFault; split <;> simp
@[simp] theorem enterHalted_store (s : Block) : (enterHalted s).store = s.store := by simp [enterHalted]
@[simp] theorem beginCounting_store (s : Block) : (beginCounting s).store = s.store := by simp [beginCounting]
@[simp] theorem releaseReset_store (s : Block) : (releaseReset s).store = s.store := by unfold releaseReset; split <;> simp
@[simp] theorem clientDone_store (c : Client) (words : List Word) (s : Block) : (clientDone c words s).store = s.store := by
  unfold clientDone
  repeat' split
  all_goals simp
@[simp] theorem clientFault_store (c : Client) (words : List Word) (s : Block) : (clientFault c words s).store = s.store := by
  unfold clientFault
  repeat' split
  all_goals simp
@[simp] theorem serveNext_store (s : Block) : (serveNext s).store = s.store := rfl
@[simp] theorem masterSettles_store (p : Fin 8) (s : Block) : (masterSettles p s).store = s.store := by simp [masterSettles]
@[simp] theorem movePin_store (t : Fin 8) (level : Bool) (s : Block) : (movePin t level s).store = s.store := rfl
theorem receiverEvent_store (l : Fin 4) (frame : Line → Line) (reply : Block → Block) (s : Block) (h : ∀ t, (reply t).store = t.store) : (receiverEvent l frame reply s).store = s.store := by
  unfold receiverEvent
  dsimp only
  repeat' split
  all_goals simp [h]
@[simp] theorem edit_outputs (p : Fin 8) (freed : Nat) (s : Block) : (edit p freed s).outputs = s.outputs := by unfold edit; split <;> simp
@[simp] theorem takeLoadJob_outputs (s : Block) : (takeLoadJob s).outputs = s.outputs := by
  unfold takeLoadJob
  repeat' split
  all_goals simp
@[simp] theorem submitLoad_outputs (p : Fin 8) (bank : Nat) (search : Search) (s : Block) : (submitLoad p bank search s).outputs = s.outputs := by simp [submitLoad]
@[simp] theorem followEnd_outputs (p : Fin 8) (s : Block) : (followEnd p s).outputs = s.outputs := by
  unfold followEnd
  dsimp only
  split <;> simp
@[simp] theorem followIfDue_outputs (p : Fin 8) (s : Block) : (followIfDue p s).outputs = s.outputs := by unfold followIfDue; split <;> simp
@[simp] theorem fadeEnds_outputs (p : Fin 8) (s : Block) : (fadeEnds p s).outputs = s.outputs := by
  unfold fadeEnds
  dsimp only
  split <;> simp
@[simp] theorem fadeEndIfDue_outputs (p : Fin 8) (s : Block) : (fadeEndIfDue p s).outputs = s.outputs := by unfold fadeEndIfDue; split <;> simp
@[simp] theorem finishHead_outputs (p : Fin 8) (code : ResultCode) (v1 v2 : Word) (s : Block) : (finishHead p code v1 v2 s).outputs = s.outputs := by unfold finishHead; split <;> simp
@[simp] theorem servePause_outputs (p : Fin 8) (s : Block) : (servePause p s).outputs = s.outputs := by
  unfold servePause
  dsimp only
  split <;> simp
@[simp] theorem serveResume_outputs (p : Fin 8) (s : Block) : (serveResume p s).outputs = s.outputs := by
  unfold serveResume
  dsimp only
  split <;> simp
@[simp] theorem serveLoad_outputs (p : Fin 8) (choice : Option (Nat × Search)) (s : Block) : (serveLoad p choice s).outputs = s.outputs := by
  unfold serveLoad
  repeat' split
  all_goals simp
@[simp] theorem serveHead_outputs (p : Fin 8) (s : Block) : (serveHead p s).outputs = s.outputs := by
  unfold serveHead
  dsimp only
  repeat' split
  all_goals simp
@[simp] theorem serveUpTo_outputs (n : Nat) (p : Fin 8) (s : Block) : (serveUpTo n p s).outputs = s.outputs := by
  induction n generalizing s with
  | zero => rfl
  | succ n ih => unfold serveUpTo; split <;> simp [ih]
@[simp] theorem serve_outputs (p : Fin 8) (s : Block) : (serve p s).outputs = s.outputs := by simp [serve]
@[simp] theorem queueFull_outputs (o : Origin) (s : Block) : (queueFull o s).outputs = s.outputs := by unfold queueFull; split <;> simp
@[simp] theorem arriveQueued_outputs (p : Fin 8) (o : Origin) (k : QueuedKind) (s : Block) : (arriveQueued p o k s).outputs = s.outputs := by
  unfold arriveQueued
  repeat' split
  all_goals simp
@[simp] theorem cancelRequests_outputs (rs : List QueuedRequest) (s : Block) : (cancelRequests rs s).outputs = s.outputs := by simp [cancelRequests, foldl_keeps (fun b : Block => b.outputs)]
@[simp] theorem markAbandoned_outputs (p : Fin 8) (s : Block) : (markAbandoned p s).outputs = s.outputs := by
  unfold markAbandoned
  repeat' split
  all_goals simp
@[simp] theorem abandonLoad_outputs (p : Fin 8) (s : Block) : (abandonLoad p s).outputs = s.outputs := by unfold abandonLoad; split <;> simp
@[simp] theorem cancelAndAbandon_outputs (p : Fin 8) (s : Block) : (cancelAndAbandon p s).outputs = s.outputs := by simp [cancelAndAbandon]
@[simp] theorem releaseBuild_outputs (p : Fin 8) (time : Option Nat) (s : Block) : (releaseBuild p time s).outputs = s.outputs := by simp [releaseBuild]
@[simp] theorem arriveRelease_outputs (p : Fin 8) (o : Origin) (time : Option Nat) (s : Block) : (arriveRelease p o time s).outputs = s.outputs := by
  unfold arriveRelease
  dsimp only
  repeat' split
  all_goals simp
@[simp] theorem arriveSetMaster_outputs (p : Fin 8) (slot : Fin 32) (level time : Word) (s : Block) : (arriveSetMaster p slot level time s).outputs = s.outputs := by unfold arriveSetMaster; split <;> simp
@[simp] theorem clearPlayback_outputs (p : Fin 8) (s : Block) : (clearPlayback p s).outputs = s.outputs := by simp [clearPlayback]
@[simp] theorem clearPlaybacks_outputs (s : Block) : (clearPlaybacks s).outputs = s.outputs := by simp [clearPlaybacks, foldl_keeps (fun b : Block => b.outputs)]
@[simp] theorem loadCompleted_outputs (p : Fin 8) (bank : Nat) (h : CueHeader) (s : Block) : (loadCompleted p bank h s).outputs = s.outputs := by simp [loadCompleted]
@[simp] theorem loadEnded_outputs (p : Fin 8) (code : ResultCode) (s : Block) : (loadEnded p code s).outputs = s.outputs := by simp [loadEnded]
@[simp] theorem freeLoad_outputs (p : Fin 8) (s : Block) : (freeLoad p s).outputs = s.outputs := by simp [freeLoad]
theorem endJob_outputs (report : Block → Block) (s : Block) (h : ∀ t, (report t).outputs = t.outputs) : (endJob report s).outputs = s.outputs := by simp [endJob, h]
@[simp] theorem endUnfinished_outputs (c : CurrentLoad) (code : ResultCode) (s : Block) : (endUnfinished c code s).outputs = s.outputs := endJob_outputs _ s (fun _ => by simp)
@[simp] theorem enterUnlock_outputs (c : CurrentLoad) (s : Block) : (enterUnlock c s).outputs = s.outputs := by simp [enterUnlock]
@[simp] theorem failLoad_outputs (c : CurrentLoad) (code : ResultCode) (s : Block) : (failLoad c code s).outputs = s.outputs := by unfold failLoad; split <;> simp
@[simp] theorem readBank_outputs (c : CurrentLoad) (stage : LoadStage) (k words : Nat) (s : Block) : (readBank c stage k words s).outputs = s.outputs := by simp [readBank]
@[simp] theorem putBack_outputs (c : CurrentLoad) (s : Block) : (putBack c s).outputs = s.outputs := by simp [putBack]
@[simp] theorem lockDone_outputs (c : CurrentLoad) (value : Word) (s : Block) : (lockDone c value s).outputs = s.outputs := by
  unfold lockDone
  repeat' split
  all_goals simp
@[simp] theorem countRead_outputs (c : CurrentLoad) (n : Nat) (s : Block) : (countRead c n s).outputs = s.outputs := by
  unfold countRead
  repeat' split
  all_goals simp
@[simp] theorem directoryRead_outputs (c : CurrentLoad) (count position : Nat) (words : List Word) (s : Block) : (directoryRead c count position words s).outputs = s.outputs := by
  unfold directoryRead
  dsimp only
  repeat' split
  all_goals simp
@[simp] theorem headerRead_outputs (c : CurrentLoad) (number offset : Nat) (words : List Word) (s : Block) : (headerRead c number offset words s).outputs = s.outputs := by
  unfold headerRead
  repeat' split
  all_goals simp
@[simp] theorem entriesRead_outputs (c : CurrentLoad) (offset position : Nat) (words : List Word) (s : Block) : (entriesRead c offset position words s).outputs = s.outputs := by
  unfold entriesRead
  dsimp only
  repeat' split
  all_goals simp
@[simp] theorem unlockDone_outputs (c : CurrentLoad) (s : Block) : (unlockDone c s).outputs = s.outputs := by
  unfold unlockDone
  split
  · rw [endJob_outputs _ _ (fun _ => by simp)]; simp
  · simp
@[simp] theorem loaderDone_outputs (words : List Word) (s : Block) : (loaderDone words s).outputs = s.outputs := by
  unfold loaderDone
  repeat' split
  all_goals simp
@[simp] theorem loaderFault_outputs (read : Bool) (s : Block) : (loaderFault read s).outputs = s.outputs := by
  unfold loaderFault
  repeat' split
  all_goals simp
@[simp] theorem haltJobs_outputs (jobs : List LoadJob) (s : Block) : (haltJobs jobs s).outputs = s.outputs := by simp [haltJobs, foldl_keeps (fun b : Block => b.outputs)]
@[simp] theorem haltCurrent_outputs (s : Block) : (haltCurrent s).outputs = s.outputs := by
  unfold haltCurrent
  repeat' split
  all_goals simp
@[simp] theorem loaderHalt_outputs (s : Block) : (loaderHalt s).outputs = s.outputs := by simp [loaderHalt]
@[simp] theorem loaderBoundary_outputs (s : Block) : (loaderBoundary s).outputs = s.outputs := by simp [loaderBoundary]
@[simp] theorem endShadow_outputs (x : Shadow) (code : ResultCode) (s : Block) : (endShadow x code s).outputs = s.outputs := by unfold endShadow; split <;> simp
@[simp] theorem endStaging_outputs (x : Staging) (code : ResultCode) (s : Block) : (endStaging x code s).outputs = s.outputs := by unfold endStaging; split <;> simp
@[simp] theorem beginTable_outputs (j : TableJob) (s : Block) : (beginTable j s).outputs = s.outputs := by unfold beginTable; split <;> simp
@[simp] theorem takeTableJob_outputs (s : Block) : (takeTableJob s).outputs = s.outputs := by
  unfold takeTableJob
  repeat' split
  all_goals simp
@[simp] theorem submitTable_outputs (slot : Fin 32) (j : TableJob) (s : Block) : (submitTable slot j s).outputs = s.outputs := by unfold submitTable; split <;> simp
@[simp] theorem arrivePatch_outputs (slot : Fin 32) (address count : Word) (s : Block) : (arrivePatch slot address count s).outputs = s.outputs := by unfold arrivePatch; split <;> simp
@[simp] theorem arriveCurve_outputs (slot : Fin 32) (curve address : Word) (s : Block) : (arriveCurve slot curve address s).outputs = s.outputs := by unfold arriveCurve; split <;> simp
@[simp] theorem readerIdle_outputs (s : Block) : (readerIdle s).outputs = s.outputs := by simp [readerIdle]
@[simp] theorem emptyFilling_outputs (j : TableJob) (s : Block) : (emptyFilling j s).outputs = s.outputs := by unfold emptyFilling; split <;> simp
@[simp] theorem failTable_outputs (j : TableJob) (code : ResultCode) (v1 v2 : Word) (s : Block) : (failTable j code v1 v2 s).outputs = s.outputs := by simp [failTable]
@[simp] theorem validatePatch_outputs (slot : Fin 32) (j : TableJob) (words : List Word) (s : Block) : (validatePatch slot j words s).outputs = s.outputs := by
  unfold validatePatch
  dsimp only
  repeat' split
  all_goals simp
@[simp] theorem patchRead_outputs (j : TableJob) (slot : Fin 32) (address : Word) (count : Nat) (words : List Word) (s : Block) : (patchRead j slot address count words s).outputs = s.outputs := by
  unfold patchRead
  dsimp only
  repeat' split
  all_goals simp
@[simp] theorem curveRead_outputs (j : TableJob) (slot : Fin 32) (k : Fin 7) (address : Word) (words : List Word) (s : Block) : (curveRead j slot k address words s).outputs = s.outputs := by
  unfold curveRead
  dsimp only
  repeat' split
  all_goals simp
@[simp] theorem tablesDone_outputs (words : List Word) (s : Block) : (tablesDone words s).outputs = s.outputs := by
  unfold tablesDone
  repeat' split
  all_goals simp
@[simp] theorem tablesFault_outputs (s : Block) : (tablesFault s).outputs = s.outputs := by unfold tablesFault; split <;> simp
@[simp] theorem endTables_outputs (code : ResultCode) (s : Block) : (endTables code s).outputs = s.outputs := by simp [endTables, foldl_keeps (fun b : Block => b.outputs)]
@[simp] theorem tablesStop_outputs (s : Block) : (tablesStop s).outputs = s.outputs := by simp [tablesStop]
@[simp] theorem tablesHalt_outputs (s : Block) : (tablesHalt s).outputs = s.outputs := by unfold tablesHalt; split <;> simp
@[simp] theorem installPatch_outputs (s : Block) : (installPatch s).outputs = s.outputs := by unfold installPatch; split <;> simp
@[simp] theorem installCurve_outputs (k : Fin 7) (s : Block) : (installCurve k s).outputs = s.outputs := by unfold installCurve; split <;> simp
@[simp] theorem installTables_outputs (s : Block) : (installTables s).outputs = s.outputs := by simp [installTables, foldl_keeps (fun b : Block => b.outputs)]
@[simp] theorem askStatus_outputs (s : Block) : (askStatus s).outputs = s.outputs := by unfold askStatus; split <;> simp
@[simp] theorem joinStatus_outputs (j : StatusJob) (s : Block) : (joinStatus j s).outputs = s.outputs := by unfold joinStatus; split <;> simp
@[simp] theorem leaveStatus_outputs (s : Block) : (leaveStatus s).outputs = s.outputs := by simp [leaveStatus]
@[simp] theorem beginPage_outputs (s : Block) : (beginPage s).outputs = s.outputs := by simp [beginPage]
@[simp] theorem statusDue_outputs (s : Block) : (statusDue s).outputs = s.outputs := by
  unfold statusDue
  repeat' split
  all_goals simp
@[simp] theorem endPage_outputs (s : Block) : (endPage s).outputs = s.outputs := by simp [endPage]
@[simp] theorem endSnapshot_outputs (code : ResultCode) (s : Block) : (endSnapshot code s).outputs = s.outputs := by unfold endSnapshot; split <;> simp
@[simp] theorem statusDone_outputs (s : Block) : (statusDone s).outputs = s.outputs := by
  unfold statusDone
  repeat' split
  all_goals simp
@[simp] theorem statusFault_outputs (s : Block) : (statusFault s).outputs = s.outputs := by unfold statusFault; split <;> simp
@[simp] theorem statusHalt_outputs (s : Block) : (statusHalt s).outputs = s.outputs := by unfold statusHalt; split <;> simp
@[simp] theorem statusStop_outputs (s : Block) : (statusStop s).outputs = s.outputs := by unfold statusStop; split <;> simp
@[simp] theorem countStatus_outputs (installed : Bool) (s : Block) : (countStatus installed s).outputs = s.outputs := by
  unfold countStatus
  dsimp only
  split <;> simp
@[simp] theorem arriveSnapshot_outputs (slot : Fin 32) (address : Word) (s : Block) : (arriveSnapshot slot address s).outputs = s.outputs := by unfold arriveSnapshot; split <;> simp
@[simp] theorem copySnapshot_outputs (s : Block) : (copySnapshot s).outputs = s.outputs := by unfold copySnapshot; split <;> simp
@[simp] theorem passStarts_outputs (s : Block) : (passStarts s).outputs = s.outputs := by simp [passStarts]
@[simp] theorem passEnds_outputs (latch : PassLatch) (s : Block) : (passEnds latch s).outputs = s.outputs := by simp [passEnds]
@[simp] theorem arriveSetGrand_outputs (slot : Fin 32) (level time : Word) (s : Block) : (arriveSetGrand slot level time s).outputs = s.outputs := by unfold arriveSetGrand; split <;> simp
@[simp] theorem arriveBlackout_outputs (slot : Fin 32) (action : Word) (s : Block) : (arriveBlackout slot action s).outputs = s.outputs := by
  unfold arriveBlackout
  dsimp only
  split <;> simp
@[simp] theorem toggleBlackout_outputs (s : Block) : (toggleBlackout s).outputs = s.outputs := by simp [toggleBlackout]
@[simp] theorem grandSettles_outputs (s : Block) : (grandSettles s).outputs = s.outputs := by simp [grandSettles]
@[simp] theorem placeLine_outputs (l : Fin 4) (slot : Fin 32) (c : LineConfig) (s : Block) : (placeLine l slot c s).outputs = s.outputs := by unfold placeLine; split <;> simp
@[simp] theorem arriveSetLine_outputs (l : Fin 4) (slot : Fin 32) (mode rate count talkback base timeout action : Word) (s : Block) : (arriveSetLine l slot mode rate count talkback base timeout action s).outputs = s.outputs := by
  unfold arriveSetLine
  repeat' split
  all_goals simp
@[simp] theorem endQueries_outputs (code : ResultCode) (qs : List Query) (s : Block) : (endQueries code qs s).outputs = s.outputs := by simp [endQueries, foldl_keeps (fun b : Block => b.outputs)]
@[simp] theorem installLine_outputs (l : Fin 4) (s : Block) : (installLine l s).outputs = s.outputs := by
  unfold installLine
  dsimp only
  repeat' split
  all_goals simp
@[simp] theorem startFrame_outputs (l : Fin 4) (s : Block) : (startFrame l s).outputs = s.outputs := by unfold startFrame; split <;> simp
@[simp] theorem lineBoundary_outputs (l : Fin 4) (s : Block) : (lineBoundary l s).outputs = s.outputs := by simp [lineBoundary]
@[simp] theorem commit_outputs (l : Fin 4) (s : Block) : (commit l s).outputs = s.outputs := by
  unfold commit
  dsimp only
  repeat' split
  all_goals simp
@[simp] theorem mixCompletes_outputs (latch : PassLatch) (s : Block) : (mixCompletes latch s).outputs = s.outputs := by simp [mixCompletes, foldl_keeps (fun b : Block => b.outputs)]
@[simp] theorem signalExpires_outputs (l : Fin 4) (s : Block) : (signalExpires l s).outputs = s.outputs := by unfold signalExpires; split <;> simp
@[simp] theorem receiveCharacter_outputs (l : Fin 4) (flag : Bool) (data : Byte) (s : Block) : (receiveCharacter l flag data s).outputs = s.outputs := by
  unfold receiveCharacter
  dsimp only
  split <;> simp
@[simp] theorem receiving_outputs (l : Fin 4) (f : Line → Line) (s : Block) : (receiving l f s).outputs = s.outputs := by unfold receiving; split <;> simp
@[simp] theorem arriveClearLine_outputs (l : Fin 4) (slot : Fin 32) (s : Block) : (arriveClearLine l slot s).outputs = s.outputs := by simp [arriveClearLine]
@[simp] theorem dropPendingLine_outputs (l : Fin 4) (s : Block) : (dropPendingLine l s).outputs = s.outputs := by unfold dropPendingLine; split <;> simp
@[simp] theorem dropPendingLines_outputs (s : Block) : (dropPendingLines s).outputs = s.outputs := by simp [dropPendingLines, foldl_keeps (fun b : Block => b.outputs)]
@[simp] theorem arriveQuery_outputs (l : Fin 4) (slot : Fin 32) (address code count bytes0 bytes4 reply : Word) (s : Block) : (arriveQuery l slot address code count bytes0 bytes4 reply s).outputs = s.outputs := by
  unfold arriveQuery
  dsimp only
  repeat' split
  all_goals simp
@[simp] theorem endQuery_outputs (l : Fin 4) (code : ResultCode) (v1 v2 : Word) (s : Block) : (endQuery l code v1 v2 s).outputs = s.outputs := by
  unfold endQuery
  repeat' split
  all_goals simp
@[simp] theorem queryFrameEnded_outputs (l : Fin 4) (s : Block) : (queryFrameEnded l s).outputs = s.outputs := by
  unfold queryFrameEnded
  repeat' split
  all_goals simp
@[simp] theorem askTalkback_outputs (s : Block) : (askTalkback s).outputs = s.outputs := by
  unfold askTalkback
  repeat' split
  all_goals simp
@[simp] theorem placeReply_outputs (l : Fin 4) (r : Reply) (s : Block) : (placeReply l r s).outputs = s.outputs := by unfold placeReply; split <;> simp
@[simp] theorem replyWhole_outputs (l : Fin 4) (f : InFlight) (s : Block) : (replyWhole l f s).outputs = s.outputs := by unfold replyWhole; split <;> simp
@[simp] theorem failReply_outputs (l : Fin 4) (f : InFlight) (code : ResultCode) (reason : Nat) (s : Block) : (failReply l f code reason s).outputs = s.outputs := by simp [failReply]
@[simp] theorem replyCharacter_outputs (l : Fin 4) (f : InFlight) (flag : Bool) (data : Byte) (s : Block) : (replyCharacter l f flag data s).outputs = s.outputs := by unfold replyCharacter; split <;> simp
@[simp] theorem countStray_outputs (l : Fin 4) (s : Block) : (countStray l s).outputs = s.outputs := by simp [countStray]
@[simp] theorem talkbackCharacter_outputs (l : Fin 4) (flag : Bool) (data : Byte) (s : Block) : (talkbackCharacter l flag data s).outputs = s.outputs := by
  unfold talkbackCharacter
  dsimp only
  repeat' split
  all_goals simp
@[simp] theorem replyStarts_outputs (l : Fin 4) (s : Block) : (replyStarts l s).outputs = s.outputs := by unfold replyStarts; split <;> simp
@[simp] theorem replyTimesOut_outputs (l : Fin 4) (s : Block) : (replyTimesOut l s).outputs = s.outputs := by unfold replyTimesOut; split <;> simp
@[simp] theorem replyCollides_outputs (l : Fin 4) (kind : CollisionKind) (s : Block) : (replyCollides l kind s).outputs = s.outputs := by unfold replyCollides; split <;> simp
@[simp] theorem replyGap_outputs (l : Fin 4) (s : Block) : (replyGap l s).outputs = s.outputs := by
  unfold replyGap
  repeat' split
  all_goals simp
@[simp] theorem windowEnds_outputs (l : Fin 4) (s : Block) : (windowEnds l s).outputs = s.outputs := by unfold windowEnds; split <;> simp
@[simp] theorem endReply_outputs (code : ResultCode) (s : Block) : (endReply code s).outputs = s.outputs := by
  unfold endReply
  repeat' split
  all_goals simp
@[simp] theorem stopQueries_outputs (l : Fin 4) (s : Block) : (stopQueries l s).outputs = s.outputs := by simp [stopQueries]
@[simp] theorem haltQueries_outputs (l : Fin 4) (s : Block) : (haltQueries l s).outputs = s.outputs := by
  unfold haltQueries
  dsimp only
  split <;> simp
@[simp] theorem talkbackStop_outputs (s : Block) : (talkbackStop s).outputs = s.outputs := by simp [talkbackStop, foldl_keeps (fun b : Block => b.outputs)]
@[simp] theorem forgetQueries_outputs (s : Block) : (forgetQueries s).outputs = s.outputs := rfl

@[simp] theorem talkbackHalt_outputs (s : Block) : (talkbackHalt s).outputs = s.outputs := by simp [talkbackHalt, foldl_keeps (fun b : Block => b.outputs)]
@[simp] theorem performAction_outputs (t : Fin 8) (r : TriggerRecord) (s : Block) : (performAction t r s).outputs = s.outputs := by unfold performAction; split <;> simp
@[simp] theorem examineEdge_outputs (t : Fin 8) (level : Bool) (s : Block) : (examineEdge t level s).outputs = s.outputs := by
  unfold examineEdge
  dsimp only
  repeat' split
  all_goals simp
@[simp] theorem settle_outputs (t : Fin 8) (level : Bool) (s : Block) : (settle t level s).outputs = s.outputs := by simp [settle]
@[simp] theorem pinChanges_outputs (t : Fin 8) (level : Bool) (s : Block) : (pinChanges t level s).outputs = s.outputs := by
  unfold pinChanges
  dsimp only
  repeat' split
  all_goals simp
@[simp] theorem debounceEnds_outputs (t : Fin 8) (s : Block) : (debounceEnds t s).outputs = s.outputs := by simp [debounceEnds]
@[simp] theorem arriveSetTrigger_outputs (t : Fin 8) (slot : Fin 32) (edge debounce action playback bank cue time : Word) (s : Block) : (arriveSetTrigger t slot edge debounce action playback bank cue time s).outputs = s.outputs := by unfold arriveSetTrigger; split <;> simp
@[simp] theorem tick_outputs (s : Block) : (tick s).outputs = s.outputs := by simp [tick]
@[simp] theorem placeFrame_outputs (slot : Fin 32) (v : FrameValues) (s : Block) : (placeFrame slot v s).outputs = s.outputs := by unfold placeFrame; split <;> simp
@[simp] theorem arriveSetFrame_outputs (slot : Fin 32) (period scan status : Word) (s : Block) : (arriveSetFrame slot period scan status s).outputs = s.outputs := by
  unfold arriveSetFrame
  repeat' split
  all_goals simp
@[simp] theorem installFrame_outputs (s : Block) : (installFrame s).outputs = s.outputs := by unfold installFrame; split <;> simp
@[simp] theorem dropPendingFrame_outputs (s : Block) : (dropPendingFrame s).outputs = s.outputs := by unfold dropPendingFrame; split <;> simp
@[simp] theorem frameExpires_outputs (s : Block) : (frameExpires s).outputs = s.outputs := by simp [frameExpires]
theorem withTarget_outputs (n : Nat) (slot : Fin 32) (w : Word) (f : Fin n → Block → Block) (s : Block) (h : ∀ x t, (f x t).outputs = t.outputs) : (withTarget n slot w f s).outputs = s.outputs := by unfold withTarget; split <;> simp [h]
@[simp] theorem dispatchSetLine_outputs (slot : Fin 32) (line mode rate count talkback base timeout action : Word) (s : Block) : (dispatchSetLine slot line mode rate count talkback base timeout action s).outputs = s.outputs := withTarget_outputs _ _ _ _ s (fun _ _ => by simp)
@[simp] theorem dispatchSetTrigger_outputs (slot : Fin 32) (trigger edge debounce action playback bank cue time : Word) (s : Block) : (dispatchSetTrigger slot trigger edge debounce action playback bank cue time s).outputs = s.outputs := withTarget_outputs _ _ _ _ s (fun _ _ => by simp)
@[simp] theorem dispatchClearLine_outputs (slot : Fin 32) (line : Word) (s : Block) : (dispatchClearLine slot line s).outputs = s.outputs := withTarget_outputs _ _ _ _ s (fun _ _ => by simp)
@[simp] theorem dispatchQuery_outputs (slot : Fin 32) (line address code count bytes0 bytes4 reply : Word) (s : Block) : (dispatchQuery slot line address code count bytes0 bytes4 reply s).outputs = s.outputs := withTarget_outputs _ _ _ _ s (fun _ _ => by simp)
@[simp] theorem dispatchGo_outputs (slot : Fin 32) (playback bank cue time : Word) (s : Block) : (dispatchGo slot playback bank cue time s).outputs = s.outputs := withTarget_outputs _ _ _ _ s (fun _ _ => by simp)
@[simp] theorem dispatchGoNext_outputs (slot : Fin 32) (playback bank : Word) (s : Block) : (dispatchGoNext slot playback bank s).outputs = s.outputs := withTarget_outputs _ _ _ _ s (fun _ _ => by simp)
@[simp] theorem dispatchPause_outputs (slot : Fin 32) (playback : Word) (s : Block) : (dispatchPause slot playback s).outputs = s.outputs := withTarget_outputs _ _ _ _ s (fun _ _ => by simp)
@[simp] theorem dispatchResume_outputs (slot : Fin 32) (playback : Word) (s : Block) : (dispatchResume slot playback s).outputs = s.outputs := withTarget_outputs _ _ _ _ s (fun _ _ => by simp)
@[simp] theorem dispatchRelease_outputs (slot : Fin 32) (playback time : Word) (s : Block) : (dispatchRelease slot playback time s).outputs = s.outputs := withTarget_outputs _ _ _ _ s (fun _ _ => by simp)
@[simp] theorem dispatchSetMaster_outputs (slot : Fin 32) (playback level time : Word) (s : Block) : (dispatchSetMaster slot playback level time s).outputs = s.outputs := withTarget_outputs _ _ _ _ s (fun _ _ => by simp)
@[simp] theorem startScan_outputs (s : Block) : (startScan s).outputs = s.outputs := by simp [startScan]
@[simp] theorem scanDue_outputs (s : Block) : (scanDue s).outputs = s.outputs := by unfold scanDue; split <;> simp
@[simp] theorem endScan_outputs (s : Block) : (endScan s).outputs = s.outputs := by unfold endScan; split <;> simp
@[simp] theorem visit_outputs (taken : Nat) (s : Block) (xs : List (Fin 32)) : (visit taken s xs).outputs = s.outputs := by
  induction xs with
  | nil => simp [visit]
  | cons i rest ih =>
    rw [visit]
    split
    · simp
    · split
      · exact ih
      · split <;> simp
@[simp] theorem rowRead_outputs (row words : List Word) (s : Block) : (rowRead row words s).outputs = s.outputs := by
  unfold rowRead
  dsimp only
  split <;> simp
@[simp] theorem claimDone_outputs (i : Fin 32) (rest : List (Fin 32)) (taken : Nat) (value : Word) (s : Block) : (claimDone i rest taken value s).outputs = s.outputs := by
  unfold claimDone
  repeat' split
  all_goals simp
@[simp] theorem scannerFault_outputs (s : Block) : (scannerFault s).outputs = s.outputs := by unfold scannerFault; split <;> simp
@[simp] theorem scannerHalt_outputs (s : Block) : (scannerHalt s).outputs = s.outputs := by unfold scannerHalt; split <;> simp
@[simp] theorem countScan_outputs (installed : Bool) (s : Block) : (countScan installed s).outputs = s.outputs := by
  unfold countScan
  dsimp only
  split <;> simp
@[simp] theorem resultsDone_outputs (s : Block) : (resultsDone s).outputs = s.outputs := by unfold resultsDone; split <;> simp
@[simp] theorem resultsFault_outputs (s : Block) : (resultsFault s).outputs = s.outputs := rfl
@[simp] theorem resultsBoundary_outputs (s : Block) : (resultsBoundary s).outputs = s.outputs := by unfold resultsBoundary; split <;> simp
@[simp] theorem resultsHalt_outputs (s : Block) : (resultsHalt s).outputs = s.outputs := rfl
@[simp] theorem enterStarting_outputs (s : Block) : (enterStarting s).outputs = s.outputs := by simp [enterStarting]
@[simp] theorem startIfSet_outputs (s : Block) : (startIfSet s).outputs = s.outputs := by unfold startIfSet; split <;> simp
@[simp] theorem enterStopped_outputs (s : Block) : (enterStopped s).outputs = s.outputs := by simp [enterStopped]
@[simp] theorem anchorBad_outputs (s : Block) : (anchorBad s).outputs = s.outputs := rfl
@[simp] theorem enterRunning_outputs (s : Block) : (enterRunning s).outputs = s.outputs := rfl
@[simp] theorem sweepFrom_outputs (bank : Nat) (s : Block) : (sweepFrom bank s).outputs = s.outputs := by unfold sweepFrom; split <;> simp
@[simp] theorem anchorRead_outputs (before words : List Word) (s : Block) : (anchorRead before words s).outputs = s.outputs := by
  unfold anchorRead
  dsimp only
  repeat' split
  all_goals simp
@[simp] theorem startDone_outputs (words : List Word) (s : Block) : (startDone words s).outputs = s.outputs := by
  unfold startDone
  repeat' split
  all_goals simp
@[simp] theorem startFault_outputs (s : Block) : (startFault s).outputs = s.outputs := by unfold startFault; split <;> simp
@[simp] theorem abortStart_outputs (done : Nat) (s : Block) : (abortStart done s).outputs = s.outputs := by unfold abortStart; split <;> simp
@[simp] theorem enterStopping_outputs (s : Block) : (enterStopping s).outputs = s.outputs := by simp [enterStopping]
@[simp] theorem enterHalted_outputs (s : Block) : (enterHalted s).outputs = s.outputs := by simp [enterHalted]
@[simp] theorem leaveHalted_outputs (s : Block) : (leaveHalted s).outputs = s.outputs := by simp [leaveHalted]
@[simp] theorem writeControl_outputs (v : Word) (done : Nat) (s : Block) : (writeControl v done s).outputs = s.outputs := by unfold writeControl; split <;> simp
@[simp] theorem clientFault_outputs (c : Client) (words : List Word) (s : Block) : (clientFault c words s).outputs = s.outputs := by
  unfold clientFault
  repeat' split
  all_goals simp
@[simp] theorem serveNext_outputs (s : Block) : (serveNext s).outputs = s.outputs := rfl
@[simp] theorem endPass_outputs (s : Block) : (endPass s).outputs = s.outputs := by unfold endPass; split <;> simp
@[simp] theorem masterSettles_outputs (p : Fin 8) (s : Block) : (masterSettles p s).outputs = s.outputs := by simp [masterSettles]
@[simp] theorem movePin_outputs (t : Fin 8) (level : Bool) (s : Block) : (movePin t level s).outputs = s.outputs := rfl
theorem receiverEvent_outputs (l : Fin 4) (frame : Line → Line) (reply : Block → Block) (s : Block) (h : ∀ t, (reply t).outputs = t.outputs) : (receiverEvent l frame reply s).outputs = s.outputs := by
  unfold receiverEvent
  dsimp only
  repeat' split
  all_goals simp [h]

end Sys2Proof.Machine
end

