-- ==== Sys2Proof/Laws/Playbacks.lean ====
section
/-! SUPPORT. Playbacks: a playback read after an update, completions and playback updates in either order, and when a playback serves
its queue. -/

namespace Sys2Proof.Machine

/-! ### Reading a playback after an update -/

@[simp] theorem playbackOf_setPlayback (p : Fin 8) (x : Playback) (s : Block) : playbackOf (setPlayback p x s) p = x := by
  simp [playbackOf]

theorem playbackOf_setPlayback_ne (p p' : Fin 8) (x : Playback) (s : Block) (h : p' ≠ p) :
    playbackOf (setPlayback p x s) p' = playbackOf s p' := by
  simp [playbackOf, getAt_setAt_ne _ _ _ _ h]

@[simp] theorem playbackOf_modPlayback (p : Fin 8) (f : Playback → Playback) (s : Block) :
    playbackOf (modPlayback p f s) p = f (playbackOf s p) := by
  simp [playbackOf]

theorem playbackOf_modPlayback_ne (p p' : Fin 8) (f : Playback → Playback) (s : Block) (h : p' ≠ p) :
    playbackOf (modPlayback p f s) p' = playbackOf s p' := by
  simp [playbackOf, getAt_setAt_ne _ _ _ _ h]

@[simp] theorem playbackOf_reservePlace (p : Fin 8) (i : Fin 32) (s : Block) :
    playbackOf (reservePlace i s) p = playbackOf s p := rfl

@[simp] theorem playbackOf_complete (p : Fin 8) (i : Fin 32) (code : ResultCode) (v1 v2 v3 : Word) (s : Block) :
    playbackOf (complete i code v1 v2 v3 s) p = playbackOf s p := by
  simp [playbackOf]

@[simp] theorem playbackOf_completeOrigin (p : Fin 8) (o : Origin) (code : ResultCode) (v1 v2 : Word) (s : Block) :
    playbackOf (completeOrigin o code v1 v2 s) p = playbackOf s p := by
  simp [playbackOf]

@[simp] theorem playbackOf_ask (p : Fin 8) (c : Client) (k : TenureKind) (s : Block) :
    playbackOf (ask c k s) p = playbackOf s p := by
  simp [playbackOf]

@[simp] theorem playbackOf_raiseInt (p : Fin 8) (src : IntSource) (s : Block) :
    playbackOf (raiseInt src s) p = playbackOf s p := rfl

/-- An edit changes the mixer alone (R40). -/
theorem edit_eq (p : Fin 8) (freed : Nat) (s : Block) : edit p freed s = { s with mixer := (edit p freed s).mixer } := by
  unfold edit
  dsimp only
  split <;> rfl

@[simp] theorem edit_playbacks (p : Fin 8) (freed : Nat) (s : Block) : (edit p freed s).playbacks = s.playbacks := by rw [edit_eq]

@[simp] theorem edit_results (p : Fin 8) (freed : Nat) (s : Block) : (edit p freed s).results = s.results := by rw [edit_eq]

@[simp] theorem edit_port (p : Fin 8) (freed : Nat) (s : Block) : (edit p freed s).port = s.port := by rw [edit_eq]

@[simp] theorem playbackOf_edit (p p' : Fin 8) (freed : Nat) (s : Block) : playbackOf (edit p freed s) p' = playbackOf s p' := by
  simp [playbackOf]

/-! ### Updates one after another -/

theorem modPlayback_eq (p : Fin 8) (f : Playback → Playback) (s : Block) :
    modPlayback p f s = setPlayback p (f (playbackOf s p)) s := rfl

@[simp] theorem setPlayback_setPlayback (p : Fin 8) (x y : Playback) (s : Block) :
    setPlayback p x (setPlayback p y s) = setPlayback p x s := by
  simp [setPlayback]

@[simp] theorem setPlayback_same (p : Fin 8) (s : Block) : setPlayback p (playbackOf s p) s = s := by
  simp [setPlayback, playbackOf]

/-- A completion and a playback's update may be taken in either order. -/
theorem complete_setPlayback (p : Fin 8) (x : Playback) (i : Fin 32) (code : ResultCode) (v1 v2 v3 : Word) (s : Block) :
    complete i code v1 v2 v3 (setPlayback p x s) = setPlayback p x (complete i code v1 v2 v3 s) := by
  have h := @complete_congr (setPlayback p x s) s rfl rfl rfl rfl i code v1 v2 v3
  rw [complete_eq, complete_eq i code v1 v2 v3 s, h.1, h.2]
  rfl

/-- What an edit gives the mixer, read from the playback's set, timing and master alone (R40). -/
theorem edit_mixer (p : Fin 8) (freed : Nat) (s : Block) :
    (edit p freed s).mixer
      = match s.mixer.pass with
        | none => { s.mixer with views := setAt s.mixer.views p (playbackOf s p).view }
        | some _ => { s.mixer with held := s.mixer.held ++ [⟨p, (playbackOf s p).view, freed⟩] } := by
  unfold edit
  dsimp only
  split <;> simp_all

/-- An edit, and a later update of the playback that leaves what the mixer reads, may be taken in either order. -/
theorem setPlayback_edit (p : Fin 8) (x : Playback) (freed : Nat) (s : Block) (h : x.view = (playbackOf s p).view) :
    setPlayback p x (edit p freed s) = edit p freed (setPlayback p x s) := by
  rw [edit_eq p freed s, edit_eq p freed (setPlayback p x s), edit_mixer, edit_mixer]
  simp only [setPlayback_mixer, playbackOf_setPlayback, h]
  rfl

/-! ### Serving (R7) -/

/-- A playback with a load under way, or with an empty queue, serves nothing. -/
theorem serveUpTo_stop (n : Nat) (p : Fin 8) (s : Block) (h : (playbackOf s p).load ≠ .none ∨ (playbackOf s p).queue = []) :
    serveUpTo n p s = s := by
  cases n with
  | zero => rfl
  | succ n =>
    unfold serveUpTo
    rw [if_neg]
    rintro ⟨a, b⟩
    rcases h with h | h
    · exact h a
    · exact b h

theorem serve_stop (p : Fin 8) (s : Block) (h : (playbackOf s p).load ≠ .none ∨ (playbackOf s p).queue = []) : serve p s = s :=
  serveUpTo_stop _ p s h

/-- A playback with no load and a queue serves its head, and then goes on. -/
theorem serve_head (p : Fin 8) (s : Block) (h : (playbackOf s p).load = .none) (hq : (playbackOf s p).queue ≠ []) :
    serve p s = serveUpTo ((playbackOf s p).queue.length + 1) p (serveHead p s) := by
  unfold serve
  rw [serveUpTo, if_pos ⟨h, hq⟩]

/-- A job submitted leaves its playback with a load under way (R9). -/
theorem submitLoad_load (p : Fin 8) (bank : Nat) (search : Search) (s : Block) :
    (playbackOf (submitLoad p bank search s) p).load ≠ .none := by
  unfold submitLoad takeLoadJob
  dsimp only
  split
  · simp
  · split
    · rename_i j hc hj
      simp only [playbackOf, ask_playbacks]
      simp only [modPlayback_playbacks, modAt_eq]
      by_cases hp : p = j.playback
      · subst hp; simp
      · rw [getAt_setAt_ne _ _ _ _ hp]; simp
    · simp

/-! ### Requests (R172, R174) -/

/-- A slot holds no place of the result queue (R175). -/
theorem holdsPlace_iff (slot : Fin 32) (b : Block) :
    holdsPlace slot b = false ↔ slot ∉ b.results.reserved ∧ ∀ c ∈ b.results.queue, c.slot ≠ slot := by
  simp [holdsPlace]

/-- A target outside its range completes BAD_TARGET (R174). -/
theorem withTarget_bad {n : Nat} (slot : Fin 32) (w : Word) (f : Fin n → Block → Block) (s : Block) (h : n ≤ w.toNat) :
    withTarget n slot w f s = complete slot .badTarget 0 0 0 s := by
  unfold withTarget target
  rw [dif_neg (by omega)]
  rfl

/-- A target within its range takes the request (R174). -/
theorem withTarget_ok {n : Nat} (slot : Fin 32) (w : Word) (f : Fin n → Block → Block) (s : Block) (p : Fin n)
    (h : w.toNat = p.val) : withTarget n slot w f s = f p s := by
  unfold withTarget target
  rw [dif_pos (by omega)]
  have : (⟨w.toNat, by omega⟩ : Fin n) = p := Fin.ext h
  simp only [this]

end Sys2Proof.Machine
end

