-- ==== Sys2Proof/Laws/FramesPlaying.lean ====
section
/-! SUPPORT. Which operations leave the playbacks, the cue loader and the mixer's held edits as they are: those of the table loader, the
outputs, the status writer, the mixer's passes, the lines, talkback, the time base, the scanner and the result writer. -/

namespace Sys2Proof.Machine

/-! ### The playbacks -/

@[simp] theorem endShadow_playbacks (x : Shadow) (code : ResultCode) (s : Block) : (endShadow x code s).playbacks = s.playbacks := by unfold endShadow; split <;> simp
@[simp] theorem endStaging_playbacks (x : Staging) (code : ResultCode) (s : Block) : (endStaging x code s).playbacks = s.playbacks := by unfold endStaging; split <;> simp
@[simp] theorem beginTable_playbacks (j : TableJob) (s : Block) : (beginTable j s).playbacks = s.playbacks := by unfold beginTable; split <;> simp
@[simp] theorem takeTableJob_playbacks (s : Block) : (takeTableJob s).playbacks = s.playbacks := by
  unfold takeTableJob
  repeat' split
  all_goals simp
@[simp] theorem submitTable_playbacks (slot : Fin 32) (j : TableJob) (s : Block) : (submitTable slot j s).playbacks = s.playbacks := by unfold submitTable; split <;> simp
@[simp] theorem arrivePatch_playbacks (slot : Fin 32) (address count : Word) (s : Block) : (arrivePatch slot address count s).playbacks = s.playbacks := by unfold arrivePatch; split <;> simp
@[simp] theorem arriveCurve_playbacks (slot : Fin 32) (curve address : Word) (s : Block) : (arriveCurve slot curve address s).playbacks = s.playbacks := by unfold arriveCurve; split <;> simp
@[simp] theorem readerIdle_playbacks (s : Block) : (readerIdle s).playbacks = s.playbacks := by simp [readerIdle]
@[simp] theorem emptyFilling_playbacks (j : TableJob) (s : Block) : (emptyFilling j s).playbacks = s.playbacks := by unfold emptyFilling; split <;> simp
@[simp] theorem failTable_playbacks (j : TableJob) (code : ResultCode) (v1 v2 : Word) (s : Block) : (failTable j code v1 v2 s).playbacks = s.playbacks := by simp [failTable]
@[simp] theorem validatePatch_playbacks (slot : Fin 32) (j : TableJob) (words : List Word) (s : Block) : (validatePatch slot j words s).playbacks = s.playbacks := by
  unfold validatePatch
  dsimp only
  repeat' split
  all_goals simp
@[simp] theorem patchRead_playbacks (j : TableJob) (slot : Fin 32) (address : Word) (count : Nat) (words : List Word) (s : Block) : (patchRead j slot address count words s).playbacks = s.playbacks := by
  unfold patchRead
  dsimp only
  repeat' split
  all_goals simp
@[simp] theorem curveRead_playbacks (j : TableJob) (slot : Fin 32) (k : Fin 7) (address : Word) (words : List Word) (s : Block) : (curveRead j slot k address words s).playbacks = s.playbacks := by
  unfold curveRead
  dsimp only
  repeat' split
  all_goals simp
@[simp] theorem tablesDone_playbacks (words : List Word) (s : Block) : (tablesDone words s).playbacks = s.playbacks := by
  unfold tablesDone
  repeat' split
  all_goals simp
@[simp] theorem tablesFault_playbacks (s : Block) : (tablesFault s).playbacks = s.playbacks := by unfold tablesFault; split <;> simp
@[simp] theorem endTables_playbacks (code : ResultCode) (s : Block) : (endTables code s).playbacks = s.playbacks := by simp [endTables, foldl_keeps (fun b : Block => b.playbacks)]
@[simp] theorem tablesStop_playbacks (s : Block) : (tablesStop s).playbacks = s.playbacks := by simp [tablesStop]
@[simp] theorem tablesHalt_playbacks (s : Block) : (tablesHalt s).playbacks = s.playbacks := by unfold tablesHalt; split <;> simp
@[simp] theorem installPatch_playbacks (s : Block) : (installPatch s).playbacks = s.playbacks := by unfold installPatch; split <;> simp
@[simp] theorem installCurve_playbacks (k : Fin 7) (s : Block) : (installCurve k s).playbacks = s.playbacks := by unfold installCurve; split <;> simp
@[simp] theorem installTables_playbacks (s : Block) : (installTables s).playbacks = s.playbacks := by simp [installTables, foldl_keeps (fun b : Block => b.playbacks)]
@[simp] theorem periodEnds_playbacks (s : Block) : (periodEnds s).playbacks = s.playbacks := by simp [periodEnds]
@[simp] theorem arriveSetOutputs_playbacks (slot : Fin 32) (clock modes inverts : Word) (s : Block) : (arriveSetOutputs slot clock modes inverts s).playbacks = s.playbacks := by unfold arriveSetOutputs; split <;> simp
@[simp] theorem askStatus_playbacks (s : Block) : (askStatus s).playbacks = s.playbacks := by unfold askStatus; split <;> simp
@[simp] theorem joinStatus_playbacks (j : StatusJob) (s : Block) : (joinStatus j s).playbacks = s.playbacks := by unfold joinStatus; split <;> simp
@[simp] theorem leaveStatus_playbacks (s : Block) : (leaveStatus s).playbacks = s.playbacks := by simp [leaveStatus]
@[simp] theorem beginPage_playbacks (s : Block) : (beginPage s).playbacks = s.playbacks := by simp [beginPage]
@[simp] theorem statusDue_playbacks (s : Block) : (statusDue s).playbacks = s.playbacks := by
  unfold statusDue
  repeat' split
  all_goals simp
@[simp] theorem endPage_playbacks (s : Block) : (endPage s).playbacks = s.playbacks := by simp [endPage]
@[simp] theorem endSnapshot_playbacks (code : ResultCode) (s : Block) : (endSnapshot code s).playbacks = s.playbacks := by unfold endSnapshot; split <;> simp
@[simp] theorem statusDone_playbacks (s : Block) : (statusDone s).playbacks = s.playbacks := by
  unfold statusDone
  repeat' split
  all_goals simp
@[simp] theorem statusFault_playbacks (s : Block) : (statusFault s).playbacks = s.playbacks := by unfold statusFault; split <;> simp
@[simp] theorem statusHalt_playbacks (s : Block) : (statusHalt s).playbacks = s.playbacks := by unfold statusHalt; split <;> simp
@[simp] theorem statusStop_playbacks (s : Block) : (statusStop s).playbacks = s.playbacks := by unfold statusStop; split <;> simp
@[simp] theorem countStatus_playbacks (installed : Bool) (s : Block) : (countStatus installed s).playbacks = s.playbacks := by
  unfold countStatus
  dsimp only
  split <;> simp
@[simp] theorem arriveSnapshot_playbacks (slot : Fin 32) (address : Word) (s : Block) : (arriveSnapshot slot address s).playbacks = s.playbacks := by unfold arriveSnapshot; split <;> simp
@[simp] theorem copySnapshot_playbacks (s : Block) : (copySnapshot s).playbacks = s.playbacks := by unfold copySnapshot; split <;> simp
@[simp] theorem swap_playbacks (s : Block) : (swap s).playbacks = s.playbacks := by simp [swap]
@[simp] theorem passStarts_playbacks (s : Block) : (passStarts s).playbacks = s.playbacks := by simp [passStarts]
@[simp] theorem mixerBoundary_playbacks (s : Block) : (mixerBoundary s).playbacks = s.playbacks := by
  unfold mixerBoundary
  repeat' split
  all_goals simp
@[simp] theorem passEnds_playbacks (latch : PassLatch) (s : Block) : (passEnds latch s).playbacks = s.playbacks := by simp [passEnds]
@[simp] theorem arriveSetGrand_playbacks (slot : Fin 32) (level time : Word) (s : Block) : (arriveSetGrand slot level time s).playbacks = s.playbacks := by unfold arriveSetGrand; split <;> simp
@[simp] theorem arriveBlackout_playbacks (slot : Fin 32) (action : Word) (s : Block) : (arriveBlackout slot action s).playbacks = s.playbacks := by
  unfold arriveBlackout
  dsimp only
  split <;> simp
@[simp] theorem toggleBlackout_playbacks (s : Block) : (toggleBlackout s).playbacks = s.playbacks := by simp [toggleBlackout]
@[simp] theorem grandSettles_playbacks (s : Block) : (grandSettles s).playbacks = s.playbacks := by simp [grandSettles]
@[simp] theorem placeLine_playbacks (l : Fin 4) (slot : Fin 32) (c : LineConfig) (s : Block) : (placeLine l slot c s).playbacks = s.playbacks := by unfold placeLine; split <;> simp
@[simp] theorem arriveSetLine_playbacks (l : Fin 4) (slot : Fin 32) (mode rate count talkback base timeout action : Word) (s : Block) : (arriveSetLine l slot mode rate count talkback base timeout action s).playbacks = s.playbacks := by
  unfold arriveSetLine
  repeat' split
  all_goals simp
@[simp] theorem endQueries_playbacks (code : ResultCode) (qs : List Query) (s : Block) : (endQueries code qs s).playbacks = s.playbacks := by simp [endQueries, foldl_keeps (fun b : Block => b.playbacks)]
@[simp] theorem installLine_playbacks (l : Fin 4) (s : Block) : (installLine l s).playbacks = s.playbacks := by
  unfold installLine
  dsimp only
  repeat' split
  all_goals simp
@[simp] theorem startFrame_playbacks (l : Fin 4) (s : Block) : (startFrame l s).playbacks = s.playbacks := by unfold startFrame; split <;> simp
@[simp] theorem lineBoundary_playbacks (l : Fin 4) (s : Block) : (lineBoundary l s).playbacks = s.playbacks := by simp [lineBoundary]
@[simp] theorem commit_playbacks (l : Fin 4) (s : Block) : (commit l s).playbacks = s.playbacks := by
  unfold commit
  dsimp only
  repeat' split
  all_goals simp
@[simp] theorem mixCompletes_playbacks (latch : PassLatch) (s : Block) : (mixCompletes latch s).playbacks = s.playbacks := by simp [mixCompletes, foldl_keeps (fun b : Block => b.playbacks)]
@[simp] theorem signalExpires_playbacks (l : Fin 4) (s : Block) : (signalExpires l s).playbacks = s.playbacks := by unfold signalExpires; split <;> simp
@[simp] theorem receiveCharacter_playbacks (l : Fin 4) (flag : Bool) (data : Byte) (s : Block) : (receiveCharacter l flag data s).playbacks = s.playbacks := by
  unfold receiveCharacter
  dsimp only
  split <;> simp
@[simp] theorem receiving_playbacks (l : Fin 4) (f : Line → Line) (s : Block) : (receiving l f s).playbacks = s.playbacks := by unfold receiving; split <;> simp
@[simp] theorem arriveClearLine_playbacks (l : Fin 4) (slot : Fin 32) (s : Block) : (arriveClearLine l slot s).playbacks = s.playbacks := by simp [arriveClearLine]
@[simp] theorem dropPendingLine_playbacks (l : Fin 4) (s : Block) : (dropPendingLine l s).playbacks = s.playbacks := by unfold dropPendingLine; split <;> simp
@[simp] theorem dropPendingLines_playbacks (s : Block) : (dropPendingLines s).playbacks = s.playbacks := by simp [dropPendingLines, foldl_keeps (fun b : Block => b.playbacks)]
@[simp] theorem arriveQuery_playbacks (l : Fin 4) (slot : Fin 32) (address code count bytes0 bytes4 reply : Word) (s : Block) : (arriveQuery l slot address code count bytes0 bytes4 reply s).playbacks = s.playbacks := by
  unfold arriveQuery
  dsimp only
  repeat' split
  all_goals simp
@[simp] theorem endQuery_playbacks (l : Fin 4) (code : ResultCode) (v1 v2 : Word) (s : Block) : (endQuery l code v1 v2 s).playbacks = s.playbacks := by
  unfold endQuery
  repeat' split
  all_goals simp
@[simp] theorem queryFrameEnded_playbacks (l : Fin 4) (s : Block) : (queryFrameEnded l s).playbacks = s.playbacks := by
  unfold queryFrameEnded
  repeat' split
  all_goals simp
@[simp] theorem askTalkback_playbacks (s : Block) : (askTalkback s).playbacks = s.playbacks := by
  unfold askTalkback
  repeat' split
  all_goals simp
@[simp] theorem placeReply_playbacks (l : Fin 4) (r : Reply) (s : Block) : (placeReply l r s).playbacks = s.playbacks := by unfold placeReply; split <;> simp
@[simp] theorem replyWhole_playbacks (l : Fin 4) (f : InFlight) (s : Block) : (replyWhole l f s).playbacks = s.playbacks := by unfold replyWhole; split <;> simp
@[simp] theorem failReply_playbacks (l : Fin 4) (f : InFlight) (code : ResultCode) (reason : Nat) (s : Block) : (failReply l f code reason s).playbacks = s.playbacks := by simp [failReply]
@[simp] theorem replyCharacter_playbacks (l : Fin 4) (f : InFlight) (flag : Bool) (data : Byte) (s : Block) : (replyCharacter l f flag data s).playbacks = s.playbacks := by unfold replyCharacter; split <;> simp
@[simp] theorem countStray_playbacks (l : Fin 4) (s : Block) : (countStray l s).playbacks = s.playbacks := by simp [countStray]
@[simp] theorem talkbackCharacter_playbacks (l : Fin 4) (flag : Bool) (data : Byte) (s : Block) : (talkbackCharacter l flag data s).playbacks = s.playbacks := by
  unfold talkbackCharacter
  dsimp only
  repeat' split
  all_goals simp
@[simp] theorem replyStarts_playbacks (l : Fin 4) (s : Block) : (replyStarts l s).playbacks = s.playbacks := by unfold replyStarts; split <;> simp
@[simp] theorem replyTimesOut_playbacks (l : Fin 4) (s : Block) : (replyTimesOut l s).playbacks = s.playbacks := by unfold replyTimesOut; split <;> simp
@[simp] theorem replyCollides_playbacks (l : Fin 4) (kind : CollisionKind) (s : Block) : (replyCollides l kind s).playbacks = s.playbacks := by unfold replyCollides; split <;> simp
@[simp] theorem replyGap_playbacks (l : Fin 4) (s : Block) : (replyGap l s).playbacks = s.playbacks := by
  unfold replyGap
  repeat' split
  all_goals simp
@[simp] theorem windowEnds_playbacks (l : Fin 4) (s : Block) : (windowEnds l s).playbacks = s.playbacks := by unfold windowEnds; split <;> simp
@[simp] theorem endReply_playbacks (code : ResultCode) (s : Block) : (endReply code s).playbacks = s.playbacks := by
  unfold endReply
  repeat' split
  all_goals simp
@[simp] theorem stopQueries_playbacks (l : Fin 4) (s : Block) : (stopQueries l s).playbacks = s.playbacks := by simp [stopQueries]
@[simp] theorem haltQueries_playbacks (l : Fin 4) (s : Block) : (haltQueries l s).playbacks = s.playbacks := by
  unfold haltQueries
  dsimp only
  split <;> simp
@[simp] theorem talkbackStop_playbacks (s : Block) : (talkbackStop s).playbacks = s.playbacks := by simp [talkbackStop, foldl_keeps (fun b : Block => b.playbacks)]
@[simp] theorem forgetQueries_playbacks (s : Block) : (forgetQueries s).playbacks = s.playbacks := rfl
@[simp] theorem talkbackHalt_playbacks (s : Block) : (talkbackHalt s).playbacks = s.playbacks := by simp [talkbackHalt, foldl_keeps (fun b : Block => b.playbacks)]
@[simp] theorem arriveSetTrigger_playbacks (t : Fin 8) (slot : Fin 32) (edge debounce action playback bank cue time : Word) (s : Block) : (arriveSetTrigger t slot edge debounce action playback bank cue time s).playbacks = s.playbacks := by unfold arriveSetTrigger; split <;> simp
@[simp] theorem tick_playbacks (s : Block) : (tick s).playbacks = s.playbacks := by simp [tick]
@[simp] theorem placeFrame_playbacks (slot : Fin 32) (v : FrameValues) (s : Block) : (placeFrame slot v s).playbacks = s.playbacks := by unfold placeFrame; split <;> simp
@[simp] theorem arriveSetFrame_playbacks (slot : Fin 32) (period scan status : Word) (s : Block) : (arriveSetFrame slot period scan status s).playbacks = s.playbacks := by
  unfold arriveSetFrame
  repeat' split
  all_goals simp
@[simp] theorem installFrame_playbacks (s : Block) : (installFrame s).playbacks = s.playbacks := by unfold installFrame; split <;> simp
@[simp] theorem dropPendingFrame_playbacks (s : Block) : (dropPendingFrame s).playbacks = s.playbacks := by unfold dropPendingFrame; split <;> simp
@[simp] theorem frameExpires_playbacks (s : Block) : (frameExpires s).playbacks = s.playbacks := by simp [frameExpires]
theorem withTarget_playbacks (n : Nat) (slot : Fin 32) (w : Word) (f : Fin n → Block → Block) (s : Block) (h : ∀ x t, (f x t).playbacks = t.playbacks) : (withTarget n slot w f s).playbacks = s.playbacks := by unfold withTarget; split <;> simp [h]
@[simp] theorem dispatchSetLine_playbacks (slot : Fin 32) (line mode rate count talkback base timeout action : Word) (s : Block) : (dispatchSetLine slot line mode rate count talkback base timeout action s).playbacks = s.playbacks := withTarget_playbacks _ _ _ _ s (fun _ _ => by simp)
@[simp] theorem dispatchSetTrigger_playbacks (slot : Fin 32) (trigger edge debounce action playback bank cue time : Word) (s : Block) : (dispatchSetTrigger slot trigger edge debounce action playback bank cue time s).playbacks = s.playbacks := withTarget_playbacks _ _ _ _ s (fun _ _ => by simp)
@[simp] theorem dispatchClearLine_playbacks (slot : Fin 32) (line : Word) (s : Block) : (dispatchClearLine slot line s).playbacks = s.playbacks := withTarget_playbacks _ _ _ _ s (fun _ _ => by simp)
@[simp] theorem dispatchQuery_playbacks (slot : Fin 32) (line address code count bytes0 bytes4 reply : Word) (s : Block) : (dispatchQuery slot line address code count bytes0 bytes4 reply s).playbacks = s.playbacks := withTarget_playbacks _ _ _ _ s (fun _ _ => by simp)
@[simp] theorem startScan_playbacks (s : Block) : (startScan s).playbacks = s.playbacks := by simp [startScan]
@[simp] theorem scanDue_playbacks (s : Block) : (scanDue s).playbacks = s.playbacks := by unfold scanDue; split <;> simp
@[simp] theorem endScan_playbacks (s : Block) : (endScan s).playbacks = s.playbacks := by unfold endScan; split <;> simp
@[simp] theorem visit_playbacks (taken : Nat) (s : Block) (xs : List (Fin 32)) : (visit taken s xs).playbacks = s.playbacks := by
  induction xs with
  | nil => simp [visit]
  | cons i rest ih =>
    rw [visit]
    split
    · simp
    · split
      · exact ih
      · split <;> simp
@[simp] theorem rowRead_playbacks (row words : List Word) (s : Block) : (rowRead row words s).playbacks = s.playbacks := by
  unfold rowRead
  dsimp only
  split <;> simp
@[simp] theorem claimDone_playbacks (i : Fin 32) (rest : List (Fin 32)) (taken : Nat) (value : Word) (s : Block) : (claimDone i rest taken value s).playbacks = s.playbacks := by
  unfold claimDone
  repeat' split
  all_goals simp
@[simp] theorem scannerFault_playbacks (s : Block) : (scannerFault s).playbacks = s.playbacks := by unfold scannerFault; split <;> simp
@[simp] theorem scannerHalt_playbacks (s : Block) : (scannerHalt s).playbacks = s.playbacks := by unfold scannerHalt; split <;> simp
@[simp] theorem countScan_playbacks (installed : Bool) (s : Block) : (countScan installed s).playbacks = s.playbacks := by
  unfold countScan
  dsimp only
  split <;> simp
@[simp] theorem resultsDone_playbacks (s : Block) : (resultsDone s).playbacks = s.playbacks := by unfold resultsDone; split <;> simp
@[simp] theorem resultsFault_playbacks (s : Block) : (resultsFault s).playbacks = s.playbacks := rfl
@[simp] theorem resultsBoundary_playbacks (s : Block) : (resultsBoundary s).playbacks = s.playbacks := by unfold resultsBoundary; split <;> simp
@[simp] theorem resultsHalt_playbacks (s : Block) : (resultsHalt s).playbacks = s.playbacks := rfl
@[simp] theorem beginCounting_playbacks (s : Block) : (beginCounting s).playbacks = s.playbacks := by simp [beginCounting]
@[simp] theorem serveNext_playbacks (s : Block) : (serveNext s).playbacks = s.playbacks := rfl
@[simp] theorem endPass_playbacks (s : Block) : (endPass s).playbacks = s.playbacks := by unfold endPass; split <;> simp
@[simp] theorem movePin_playbacks (t : Fin 8) (level : Bool) (s : Block) : (movePin t level s).playbacks = s.playbacks := rfl
theorem receiverEvent_playbacks (l : Fin 4) (frame : Line → Line) (reply : Block → Block) (s : Block) (h : ∀ t, (reply t).playbacks = t.playbacks) : (receiverEvent l frame reply s).playbacks = s.playbacks := by
  unfold receiverEvent
  dsimp only
  repeat' split
  all_goals simp [h]

/-! ### The cue loader -/

@[simp] theorem endShadow_loader (x : Shadow) (code : ResultCode) (s : Block) : (endShadow x code s).loader = s.loader := by unfold endShadow; split <;> simp
@[simp] theorem endStaging_loader (x : Staging) (code : ResultCode) (s : Block) : (endStaging x code s).loader = s.loader := by unfold endStaging; split <;> simp
@[simp] theorem beginTable_loader (j : TableJob) (s : Block) : (beginTable j s).loader = s.loader := by unfold beginTable; split <;> simp
@[simp] theorem takeTableJob_loader (s : Block) : (takeTableJob s).loader = s.loader := by
  unfold takeTableJob
  repeat' split
  all_goals simp
@[simp] theorem submitTable_loader (slot : Fin 32) (j : TableJob) (s : Block) : (submitTable slot j s).loader = s.loader := by unfold submitTable; split <;> simp
@[simp] theorem arrivePatch_loader (slot : Fin 32) (address count : Word) (s : Block) : (arrivePatch slot address count s).loader = s.loader := by unfold arrivePatch; split <;> simp
@[simp] theorem arriveCurve_loader (slot : Fin 32) (curve address : Word) (s : Block) : (arriveCurve slot curve address s).loader = s.loader := by unfold arriveCurve; split <;> simp
@[simp] theorem readerIdle_loader (s : Block) : (readerIdle s).loader = s.loader := by simp [readerIdle]
@[simp] theorem emptyFilling_loader (j : TableJob) (s : Block) : (emptyFilling j s).loader = s.loader := by unfold emptyFilling; split <;> simp
@[simp] theorem failTable_loader (j : TableJob) (code : ResultCode) (v1 v2 : Word) (s : Block) : (failTable j code v1 v2 s).loader = s.loader := by simp [failTable]
@[simp] theorem validatePatch_loader (slot : Fin 32) (j : TableJob) (words : List Word) (s : Block) : (validatePatch slot j words s).loader = s.loader := by
  unfold validatePatch
  dsimp only
  repeat' split
  all_goals simp
@[simp] theorem patchRead_loader (j : TableJob) (slot : Fin 32) (address : Word) (count : Nat) (words : List Word) (s : Block) : (patchRead j slot address count words s).loader = s.loader := by
  unfold patchRead
  dsimp only
  repeat' split
  all_goals simp
@[simp] theorem curveRead_loader (j : TableJob) (slot : Fin 32) (k : Fin 7) (address : Word) (words : List Word) (s : Block) : (curveRead j slot k address words s).loader = s.loader := by
  unfold curveRead
  dsimp only
  repeat' split
  all_goals simp
@[simp] theorem tablesDone_loader (words : List Word) (s : Block) : (tablesDone words s).loader = s.loader := by
  unfold tablesDone
  repeat' split
  all_goals simp
@[simp] theorem tablesFault_loader (s : Block) : (tablesFault s).loader = s.loader := by unfold tablesFault; split <;> simp
@[simp] theorem endTables_loader (code : ResultCode) (s : Block) : (endTables code s).loader = s.loader := by simp [endTables, foldl_keeps (fun b : Block => b.loader)]
@[simp] theorem tablesStop_loader (s : Block) : (tablesStop s).loader = s.loader := by simp [tablesStop]
@[simp] theorem tablesHalt_loader (s : Block) : (tablesHalt s).loader = s.loader := by unfold tablesHalt; split <;> simp
@[simp] theorem installPatch_loader (s : Block) : (installPatch s).loader = s.loader := by unfold installPatch; split <;> simp
@[simp] theorem installCurve_loader (k : Fin 7) (s : Block) : (installCurve k s).loader = s.loader := by unfold installCurve; split <;> simp
@[simp] theorem installTables_loader (s : Block) : (installTables s).loader = s.loader := by simp [installTables, foldl_keeps (fun b : Block => b.loader)]
@[simp] theorem periodEnds_loader (s : Block) : (periodEnds s).loader = s.loader := by simp [periodEnds]
@[simp] theorem arriveSetOutputs_loader (slot : Fin 32) (clock modes inverts : Word) (s : Block) : (arriveSetOutputs slot clock modes inverts s).loader = s.loader := by unfold arriveSetOutputs; split <;> simp
@[simp] theorem askStatus_loader (s : Block) : (askStatus s).loader = s.loader := by unfold askStatus; split <;> simp
@[simp] theorem joinStatus_loader (j : StatusJob) (s : Block) : (joinStatus j s).loader = s.loader := by unfold joinStatus; split <;> simp
@[simp] theorem leaveStatus_loader (s : Block) : (leaveStatus s).loader = s.loader := by simp [leaveStatus]
@[simp] theorem beginPage_loader (s : Block) : (beginPage s).loader = s.loader := by simp [beginPage]
@[simp] theorem statusDue_loader (s : Block) : (statusDue s).loader = s.loader := by
  unfold statusDue
  repeat' split
  all_goals simp
@[simp] theorem endPage_loader (s : Block) : (endPage s).loader = s.loader := by simp [endPage]
@[simp] theorem endSnapshot_loader (code : ResultCode) (s : Block) : (endSnapshot code s).loader = s.loader := by unfold endSnapshot; split <;> simp
@[simp] theorem statusDone_loader (s : Block) : (statusDone s).loader = s.loader := by
  unfold statusDone
  repeat' split
  all_goals simp
@[simp] theorem statusFault_loader (s : Block) : (statusFault s).loader = s.loader := by unfold statusFault; split <;> simp
@[simp] theorem statusHalt_loader (s : Block) : (statusHalt s).loader = s.loader := by unfold statusHalt; split <;> simp
@[simp] theorem statusStop_loader (s : Block) : (statusStop s).loader = s.loader := by unfold statusStop; split <;> simp
@[simp] theorem countStatus_loader (installed : Bool) (s : Block) : (countStatus installed s).loader = s.loader := by
  unfold countStatus
  dsimp only
  split <;> simp
@[simp] theorem arriveSnapshot_loader (slot : Fin 32) (address : Word) (s : Block) : (arriveSnapshot slot address s).loader = s.loader := by unfold arriveSnapshot; split <;> simp
@[simp] theorem copySnapshot_loader (s : Block) : (copySnapshot s).loader = s.loader := by unfold copySnapshot; split <;> simp
@[simp] theorem swap_loader (s : Block) : (swap s).loader = s.loader := by simp [swap]
@[simp] theorem passStarts_loader (s : Block) : (passStarts s).loader = s.loader := by simp [passStarts]
@[simp] theorem mixerBoundary_loader (s : Block) : (mixerBoundary s).loader = s.loader := by
  unfold mixerBoundary
  repeat' split
  all_goals simp
@[simp] theorem passEnds_loader (latch : PassLatch) (s : Block) : (passEnds latch s).loader = s.loader := by simp [passEnds]
@[simp] theorem arriveSetGrand_loader (slot : Fin 32) (level time : Word) (s : Block) : (arriveSetGrand slot level time s).loader = s.loader := by unfold arriveSetGrand; split <;> simp
@[simp] theorem arriveBlackout_loader (slot : Fin 32) (action : Word) (s : Block) : (arriveBlackout slot action s).loader = s.loader := by
  unfold arriveBlackout
  dsimp only
  split <;> simp
@[simp] theorem toggleBlackout_loader (s : Block) : (toggleBlackout s).loader = s.loader := by simp [toggleBlackout]
@[simp] theorem grandSettles_loader (s : Block) : (grandSettles s).loader = s.loader := by simp [grandSettles]
@[simp] theorem placeLine_loader (l : Fin 4) (slot : Fin 32) (c : LineConfig) (s : Block) : (placeLine l slot c s).loader = s.loader := by unfold placeLine; split <;> simp
@[simp] theorem arriveSetLine_loader (l : Fin 4) (slot : Fin 32) (mode rate count talkback base timeout action : Word) (s : Block) : (arriveSetLine l slot mode rate count talkback base timeout action s).loader = s.loader := by
  unfold arriveSetLine
  repeat' split
  all_goals simp
@[simp] theorem endQueries_loader (code : ResultCode) (qs : List Query) (s : Block) : (endQueries code qs s).loader = s.loader := by simp [endQueries, foldl_keeps (fun b : Block => b.loader)]
@[simp] theorem installLine_loader (l : Fin 4) (s : Block) : (installLine l s).loader = s.loader := by
  unfold installLine
  dsimp only
  repeat' split
  all_goals simp
@[simp] theorem startFrame_loader (l : Fin 4) (s : Block) : (startFrame l s).loader = s.loader := by unfold startFrame; split <;> simp
@[simp] theorem lineBoundary_loader (l : Fin 4) (s : Block) : (lineBoundary l s).loader = s.loader := by simp [lineBoundary]
@[simp] theorem commit_loader (l : Fin 4) (s : Block) : (commit l s).loader = s.loader := by
  unfold commit
  dsimp only
  repeat' split
  all_goals simp
@[simp] theorem mixCompletes_loader (latch : PassLatch) (s : Block) : (mixCompletes latch s).loader = s.loader := by simp [mixCompletes, foldl_keeps (fun b : Block => b.loader)]
@[simp] theorem signalExpires_loader (l : Fin 4) (s : Block) : (signalExpires l s).loader = s.loader := by unfold signalExpires; split <;> simp
@[simp] theorem receiveCharacter_loader (l : Fin 4) (flag : Bool) (data : Byte) (s : Block) : (receiveCharacter l flag data s).loader = s.loader := by
  unfold receiveCharacter
  dsimp only
  split <;> simp
@[simp] theorem receiving_loader (l : Fin 4) (f : Line → Line) (s : Block) : (receiving l f s).loader = s.loader := by unfold receiving; split <;> simp
@[simp] theorem arriveClearLine_loader (l : Fin 4) (slot : Fin 32) (s : Block) : (arriveClearLine l slot s).loader = s.loader := by simp [arriveClearLine]
@[simp] theorem dropPendingLine_loader (l : Fin 4) (s : Block) : (dropPendingLine l s).loader = s.loader := by unfold dropPendingLine; split <;> simp
@[simp] theorem dropPendingLines_loader (s : Block) : (dropPendingLines s).loader = s.loader := by simp [dropPendingLines, foldl_keeps (fun b : Block => b.loader)]
@[simp] theorem arriveQuery_loader (l : Fin 4) (slot : Fin 32) (address code count bytes0 bytes4 reply : Word) (s : Block) : (arriveQuery l slot address code count bytes0 bytes4 reply s).loader = s.loader := by
  unfold arriveQuery
  dsimp only
  repeat' split
  all_goals simp
@[simp] theorem endQuery_loader (l : Fin 4) (code : ResultCode) (v1 v2 : Word) (s : Block) : (endQuery l code v1 v2 s).loader = s.loader := by
  unfold endQuery
  repeat' split
  all_goals simp
@[simp] theorem queryFrameEnded_loader (l : Fin 4) (s : Block) : (queryFrameEnded l s).loader = s.loader := by
  unfold queryFrameEnded
  repeat' split
  all_goals simp
@[simp] theorem askTalkback_loader (s : Block) : (askTalkback s).loader = s.loader := by
  unfold askTalkback
  repeat' split
  all_goals simp
@[simp] theorem placeReply_loader (l : Fin 4) (r : Reply) (s : Block) : (placeReply l r s).loader = s.loader := by unfold placeReply; split <;> simp
@[simp] theorem replyWhole_loader (l : Fin 4) (f : InFlight) (s : Block) : (replyWhole l f s).loader = s.loader := by unfold replyWhole; split <;> simp
@[simp] theorem failReply_loader (l : Fin 4) (f : InFlight) (code : ResultCode) (reason : Nat) (s : Block) : (failReply l f code reason s).loader = s.loader := by simp [failReply]
@[simp] theorem replyCharacter_loader (l : Fin 4) (f : InFlight) (flag : Bool) (data : Byte) (s : Block) : (replyCharacter l f flag data s).loader = s.loader := by unfold replyCharacter; split <;> simp
@[simp] theorem countStray_loader (l : Fin 4) (s : Block) : (countStray l s).loader = s.loader := by simp [countStray]
@[simp] theorem talkbackCharacter_loader (l : Fin 4) (flag : Bool) (data : Byte) (s : Block) : (talkbackCharacter l flag data s).loader = s.loader := by
  unfold talkbackCharacter
  dsimp only
  repeat' split
  all_goals simp
@[simp] theorem replyStarts_loader (l : Fin 4) (s : Block) : (replyStarts l s).loader = s.loader := by unfold replyStarts; split <;> simp
@[simp] theorem replyTimesOut_loader (l : Fin 4) (s : Block) : (replyTimesOut l s).loader = s.loader := by unfold replyTimesOut; split <;> simp
@[simp] theorem replyCollides_loader (l : Fin 4) (kind : CollisionKind) (s : Block) : (replyCollides l kind s).loader = s.loader := by unfold replyCollides; split <;> simp
@[simp] theorem replyGap_loader (l : Fin 4) (s : Block) : (replyGap l s).loader = s.loader := by
  unfold replyGap
  repeat' split
  all_goals simp
@[simp] theorem windowEnds_loader (l : Fin 4) (s : Block) : (windowEnds l s).loader = s.loader := by unfold windowEnds; split <;> simp
@[simp] theorem endReply_loader (code : ResultCode) (s : Block) : (endReply code s).loader = s.loader := by
  unfold endReply
  repeat' split
  all_goals simp
@[simp] theorem stopQueries_loader (l : Fin 4) (s : Block) : (stopQueries l s).loader = s.loader := by simp [stopQueries]
@[simp] theorem haltQueries_loader (l : Fin 4) (s : Block) : (haltQueries l s).loader = s.loader := by
  unfold haltQueries
  dsimp only
  split <;> simp
@[simp] theorem talkbackStop_loader (s : Block) : (talkbackStop s).loader = s.loader := by simp [talkbackStop, foldl_keeps (fun b : Block => b.loader)]
@[simp] theorem forgetQueries_loader (s : Block) : (forgetQueries s).loader = s.loader := rfl
@[simp] theorem talkbackHalt_loader (s : Block) : (talkbackHalt s).loader = s.loader := by simp [talkbackHalt, foldl_keeps (fun b : Block => b.loader)]
@[simp] theorem arriveSetTrigger_loader (t : Fin 8) (slot : Fin 32) (edge debounce action playback bank cue time : Word) (s : Block) : (arriveSetTrigger t slot edge debounce action playback bank cue time s).loader = s.loader := by unfold arriveSetTrigger; split <;> simp
@[simp] theorem tick_loader (s : Block) : (tick s).loader = s.loader := by simp [tick]
@[simp] theorem placeFrame_loader (slot : Fin 32) (v : FrameValues) (s : Block) : (placeFrame slot v s).loader = s.loader := by unfold placeFrame; split <;> simp
@[simp] theorem arriveSetFrame_loader (slot : Fin 32) (period scan status : Word) (s : Block) : (arriveSetFrame slot period scan status s).loader = s.loader := by
  unfold arriveSetFrame
  repeat' split
  all_goals simp
@[simp] theorem installFrame_loader (s : Block) : (installFrame s).loader = s.loader := by unfold installFrame; split <;> simp
@[simp] theorem dropPendingFrame_loader (s : Block) : (dropPendingFrame s).loader = s.loader := by unfold dropPendingFrame; split <;> simp
@[simp] theorem frameExpires_loader (s : Block) : (frameExpires s).loader = s.loader := by simp [frameExpires]
theorem withTarget_loader (n : Nat) (slot : Fin 32) (w : Word) (f : Fin n → Block → Block) (s : Block) (h : ∀ x t, (f x t).loader = t.loader) : (withTarget n slot w f s).loader = s.loader := by unfold withTarget; split <;> simp [h]
@[simp] theorem dispatchSetLine_loader (slot : Fin 32) (line mode rate count talkback base timeout action : Word) (s : Block) : (dispatchSetLine slot line mode rate count talkback base timeout action s).loader = s.loader := withTarget_loader _ _ _ _ s (fun _ _ => by simp)
@[simp] theorem dispatchSetTrigger_loader (slot : Fin 32) (trigger edge debounce action playback bank cue time : Word) (s : Block) : (dispatchSetTrigger slot trigger edge debounce action playback bank cue time s).loader = s.loader := withTarget_loader _ _ _ _ s (fun _ _ => by simp)
@[simp] theorem dispatchClearLine_loader (slot : Fin 32) (line : Word) (s : Block) : (dispatchClearLine slot line s).loader = s.loader := withTarget_loader _ _ _ _ s (fun _ _ => by simp)
@[simp] theorem dispatchQuery_loader (slot : Fin 32) (line address code count bytes0 bytes4 reply : Word) (s : Block) : (dispatchQuery slot line address code count bytes0 bytes4 reply s).loader = s.loader := withTarget_loader _ _ _ _ s (fun _ _ => by simp)
@[simp] theorem startScan_loader (s : Block) : (startScan s).loader = s.loader := by simp [startScan]
@[simp] theorem scanDue_loader (s : Block) : (scanDue s).loader = s.loader := by unfold scanDue; split <;> simp
@[simp] theorem endScan_loader (s : Block) : (endScan s).loader = s.loader := by unfold endScan; split <;> simp
@[simp] theorem visit_loader (taken : Nat) (s : Block) (xs : List (Fin 32)) : (visit taken s xs).loader = s.loader := by
  induction xs with
  | nil => simp [visit]
  | cons i rest ih =>
    rw [visit]
    split
    · simp
    · split
      · exact ih
      · split <;> simp
@[simp] theorem rowRead_loader (row words : List Word) (s : Block) : (rowRead row words s).loader = s.loader := by
  unfold rowRead
  dsimp only
  split <;> simp
@[simp] theorem claimDone_loader (i : Fin 32) (rest : List (Fin 32)) (taken : Nat) (value : Word) (s : Block) : (claimDone i rest taken value s).loader = s.loader := by
  unfold claimDone
  repeat' split
  all_goals simp
@[simp] theorem scannerFault_loader (s : Block) : (scannerFault s).loader = s.loader := by unfold scannerFault; split <;> simp
@[simp] theorem scannerHalt_loader (s : Block) : (scannerHalt s).loader = s.loader := by unfold scannerHalt; split <;> simp
@[simp] theorem countScan_loader (installed : Bool) (s : Block) : (countScan installed s).loader = s.loader := by
  unfold countScan
  dsimp only
  split <;> simp
@[simp] theorem resultsDone_loader (s : Block) : (resultsDone s).loader = s.loader := by unfold resultsDone; split <;> simp
@[simp] theorem resultsFault_loader (s : Block) : (resultsFault s).loader = s.loader := rfl
@[simp] theorem resultsBoundary_loader (s : Block) : (resultsBoundary s).loader = s.loader := by unfold resultsBoundary; split <;> simp
@[simp] theorem resultsHalt_loader (s : Block) : (resultsHalt s).loader = s.loader := rfl
@[simp] theorem beginCounting_loader (s : Block) : (beginCounting s).loader = s.loader := by simp [beginCounting]
@[simp] theorem serveNext_loader (s : Block) : (serveNext s).loader = s.loader := rfl
@[simp] theorem endPass_loader (s : Block) : (endPass s).loader = s.loader := by unfold endPass; split <;> simp
@[simp] theorem movePin_loader (t : Fin 8) (level : Bool) (s : Block) : (movePin t level s).loader = s.loader := rfl
theorem receiverEvent_loader (l : Fin 4) (frame : Line → Line) (reply : Block → Block) (s : Block) (h : ∀ t, (reply t).loader = t.loader) : (receiverEvent l frame reply s).loader = s.loader := by
  unfold receiverEvent
  dsimp only
  repeat' split
  all_goals simp [h]

/-! ### The held edits -/

@[simp] theorem endShadow_held (x : Shadow) (code : ResultCode) (s : Block) : (endShadow x code s).mixer.held = s.mixer.held := by unfold endShadow; split <;> simp
@[simp] theorem endStaging_held (x : Staging) (code : ResultCode) (s : Block) : (endStaging x code s).mixer.held = s.mixer.held := by unfold endStaging; split <;> simp
@[simp] theorem beginTable_held (j : TableJob) (s : Block) : (beginTable j s).mixer.held = s.mixer.held := by unfold beginTable; split <;> simp
@[simp] theorem takeTableJob_held (s : Block) : (takeTableJob s).mixer.held = s.mixer.held := by
  unfold takeTableJob
  repeat' split
  all_goals simp
@[simp] theorem submitTable_held (slot : Fin 32) (j : TableJob) (s : Block) : (submitTable slot j s).mixer.held = s.mixer.held := by unfold submitTable; split <;> simp
@[simp] theorem arrivePatch_held (slot : Fin 32) (address count : Word) (s : Block) : (arrivePatch slot address count s).mixer.held = s.mixer.held := by unfold arrivePatch; split <;> simp
@[simp] theorem arriveCurve_held (slot : Fin 32) (curve address : Word) (s : Block) : (arriveCurve slot curve address s).mixer.held = s.mixer.held := by unfold arriveCurve; split <;> simp
@[simp] theorem readerIdle_held (s : Block) : (readerIdle s).mixer.held = s.mixer.held := by simp [readerIdle]
@[simp] theorem emptyFilling_held (j : TableJob) (s : Block) : (emptyFilling j s).mixer.held = s.mixer.held := by unfold emptyFilling; split <;> simp
@[simp] theorem failTable_held (j : TableJob) (code : ResultCode) (v1 v2 : Word) (s : Block) : (failTable j code v1 v2 s).mixer.held = s.mixer.held := by simp [failTable]
@[simp] theorem validatePatch_held (slot : Fin 32) (j : TableJob) (words : List Word) (s : Block) : (validatePatch slot j words s).mixer.held = s.mixer.held := by
  unfold validatePatch
  dsimp only
  repeat' split
  all_goals simp
@[simp] theorem patchRead_held (j : TableJob) (slot : Fin 32) (address : Word) (count : Nat) (words : List Word) (s : Block) : (patchRead j slot address count words s).mixer.held = s.mixer.held := by
  unfold patchRead
  dsimp only
  repeat' split
  all_goals simp
@[simp] theorem curveRead_held (j : TableJob) (slot : Fin 32) (k : Fin 7) (address : Word) (words : List Word) (s : Block) : (curveRead j slot k address words s).mixer.held = s.mixer.held := by
  unfold curveRead
  dsimp only
  repeat' split
  all_goals simp
@[simp] theorem tablesDone_held (words : List Word) (s : Block) : (tablesDone words s).mixer.held = s.mixer.held := by
  unfold tablesDone
  repeat' split
  all_goals simp
@[simp] theorem tablesFault_held (s : Block) : (tablesFault s).mixer.held = s.mixer.held := by unfold tablesFault; split <;> simp
@[simp] theorem endTables_held (code : ResultCode) (s : Block) : (endTables code s).mixer.held = s.mixer.held := by simp [endTables, foldl_keeps (fun b : Block => b.mixer.held)]
@[simp] theorem tablesStop_held (s : Block) : (tablesStop s).mixer.held = s.mixer.held := by simp [tablesStop]
@[simp] theorem tablesHalt_held (s : Block) : (tablesHalt s).mixer.held = s.mixer.held := by unfold tablesHalt; split <;> simp
@[simp] theorem installPatch_held (s : Block) : (installPatch s).mixer.held = s.mixer.held := by unfold installPatch; split <;> simp
@[simp] theorem installCurve_held (k : Fin 7) (s : Block) : (installCurve k s).mixer.held = s.mixer.held := by unfold installCurve; split <;> simp
@[simp] theorem installTables_held (s : Block) : (installTables s).mixer.held = s.mixer.held := by simp [installTables, foldl_keeps (fun b : Block => b.mixer.held)]
@[simp] theorem periodEnds_held (s : Block) : (periodEnds s).mixer.held = s.mixer.held := by simp [periodEnds]
@[simp] theorem arriveSetOutputs_held (slot : Fin 32) (clock modes inverts : Word) (s : Block) : (arriveSetOutputs slot clock modes inverts s).mixer.held = s.mixer.held := by unfold arriveSetOutputs; split <;> simp
@[simp] theorem askStatus_held (s : Block) : (askStatus s).mixer.held = s.mixer.held := by unfold askStatus; split <;> simp
@[simp] theorem joinStatus_held (j : StatusJob) (s : Block) : (joinStatus j s).mixer.held = s.mixer.held := by unfold joinStatus; split <;> simp
@[simp] theorem leaveStatus_held (s : Block) : (leaveStatus s).mixer.held = s.mixer.held := by simp [leaveStatus]
@[simp] theorem beginPage_held (s : Block) : (beginPage s).mixer.held = s.mixer.held := by simp [beginPage]
@[simp] theorem statusDue_held (s : Block) : (statusDue s).mixer.held = s.mixer.held := by
  unfold statusDue
  repeat' split
  all_goals simp
@[simp] theorem endPage_held (s : Block) : (endPage s).mixer.held = s.mixer.held := by simp [endPage]
@[simp] theorem endSnapshot_held (code : ResultCode) (s : Block) : (endSnapshot code s).mixer.held = s.mixer.held := by unfold endSnapshot; split <;> simp
@[simp] theorem statusDone_held (s : Block) : (statusDone s).mixer.held = s.mixer.held := by
  unfold statusDone
  repeat' split
  all_goals simp
@[simp] theorem statusFault_held (s : Block) : (statusFault s).mixer.held = s.mixer.held := by unfold statusFault; split <;> simp
@[simp] theorem statusHalt_held (s : Block) : (statusHalt s).mixer.held = s.mixer.held := by unfold statusHalt; split <;> simp
@[simp] theorem statusStop_held (s : Block) : (statusStop s).mixer.held = s.mixer.held := by unfold statusStop; split <;> simp
@[simp] theorem countStatus_held (installed : Bool) (s : Block) : (countStatus installed s).mixer.held = s.mixer.held := by
  unfold countStatus
  dsimp only
  split <;> simp
@[simp] theorem arriveSnapshot_held (slot : Fin 32) (address : Word) (s : Block) : (arriveSnapshot slot address s).mixer.held = s.mixer.held := by unfold arriveSnapshot; split <;> simp
@[simp] theorem copySnapshot_held (s : Block) : (copySnapshot s).mixer.held = s.mixer.held := by unfold copySnapshot; split <;> simp
@[simp] theorem swap_held (s : Block) : (swap s).mixer.held = s.mixer.held := by simp [swap]
@[simp] theorem passStarts_held (s : Block) : (passStarts s).mixer.held = s.mixer.held := by simp [passStarts]
@[simp] theorem mixerBoundary_held (s : Block) : (mixerBoundary s).mixer.held = s.mixer.held := by
  unfold mixerBoundary
  repeat' split
  all_goals simp
@[simp] theorem arriveSetGrand_held (slot : Fin 32) (level time : Word) (s : Block) : (arriveSetGrand slot level time s).mixer.held = s.mixer.held := by unfold arriveSetGrand; split <;> simp
@[simp] theorem arriveBlackout_held (slot : Fin 32) (action : Word) (s : Block) : (arriveBlackout slot action s).mixer.held = s.mixer.held := by
  unfold arriveBlackout
  dsimp only
  split <;> simp
@[simp] theorem toggleBlackout_held (s : Block) : (toggleBlackout s).mixer.held = s.mixer.held := by simp [toggleBlackout]
@[simp] theorem grandSettles_held (s : Block) : (grandSettles s).mixer.held = s.mixer.held := by simp [grandSettles]
@[simp] theorem placeLine_held (l : Fin 4) (slot : Fin 32) (c : LineConfig) (s : Block) : (placeLine l slot c s).mixer.held = s.mixer.held := by unfold placeLine; split <;> simp
@[simp] theorem arriveSetLine_held (l : Fin 4) (slot : Fin 32) (mode rate count talkback base timeout action : Word) (s : Block) : (arriveSetLine l slot mode rate count talkback base timeout action s).mixer.held = s.mixer.held := by
  unfold arriveSetLine
  repeat' split
  all_goals simp
@[simp] theorem endQueries_held (code : ResultCode) (qs : List Query) (s : Block) : (endQueries code qs s).mixer.held = s.mixer.held := by simp [endQueries, foldl_keeps (fun b : Block => b.mixer.held)]
@[simp] theorem installLine_held (l : Fin 4) (s : Block) : (installLine l s).mixer.held = s.mixer.held := by
  unfold installLine
  dsimp only
  repeat' split
  all_goals simp
@[simp] theorem startFrame_held (l : Fin 4) (s : Block) : (startFrame l s).mixer.held = s.mixer.held := by unfold startFrame; split <;> simp
@[simp] theorem lineBoundary_held (l : Fin 4) (s : Block) : (lineBoundary l s).mixer.held = s.mixer.held := by simp [lineBoundary]
@[simp] theorem commit_held (l : Fin 4) (s : Block) : (commit l s).mixer.held = s.mixer.held := by
  unfold commit
  dsimp only
  repeat' split
  all_goals simp
@[simp] theorem signalExpires_held (l : Fin 4) (s : Block) : (signalExpires l s).mixer.held = s.mixer.held := by unfold signalExpires; split <;> simp
@[simp] theorem receiveCharacter_held (l : Fin 4) (flag : Bool) (data : Byte) (s : Block) : (receiveCharacter l flag data s).mixer.held = s.mixer.held := by
  unfold receiveCharacter
  dsimp only
  split <;> simp
@[simp] theorem receiving_held (l : Fin 4) (f : Line → Line) (s : Block) : (receiving l f s).mixer.held = s.mixer.held := by unfold receiving; split <;> simp
@[simp] theorem arriveClearLine_held (l : Fin 4) (slot : Fin 32) (s : Block) : (arriveClearLine l slot s).mixer.held = s.mixer.held := by simp [arriveClearLine]
@[simp] theorem dropPendingLine_held (l : Fin 4) (s : Block) : (dropPendingLine l s).mixer.held = s.mixer.held := by unfold dropPendingLine; split <;> simp
@[simp] theorem dropPendingLines_held (s : Block) : (dropPendingLines s).mixer.held = s.mixer.held := by simp [dropPendingLines, foldl_keeps (fun b : Block => b.mixer.held)]
@[simp] theorem arriveQuery_held (l : Fin 4) (slot : Fin 32) (address code count bytes0 bytes4 reply : Word) (s : Block) : (arriveQuery l slot address code count bytes0 bytes4 reply s).mixer.held = s.mixer.held := by
  unfold arriveQuery
  dsimp only
  repeat' split
  all_goals simp
@[simp] theorem endQuery_held (l : Fin 4) (code : ResultCode) (v1 v2 : Word) (s : Block) : (endQuery l code v1 v2 s).mixer.held = s.mixer.held := by
  unfold endQuery
  repeat' split
  all_goals simp
@[simp] theorem queryFrameEnded_held (l : Fin 4) (s : Block) : (queryFrameEnded l s).mixer.held = s.mixer.held := by
  unfold queryFrameEnded
  repeat' split
  all_goals simp
@[simp] theorem askTalkback_held (s : Block) : (askTalkback s).mixer.held = s.mixer.held := by
  unfold askTalkback
  repeat' split
  all_goals simp
@[simp] theorem placeReply_held (l : Fin 4) (r : Reply) (s : Block) : (placeReply l r s).mixer.held = s.mixer.held := by unfold placeReply; split <;> simp
@[simp] theorem replyWhole_held (l : Fin 4) (f : InFlight) (s : Block) : (replyWhole l f s).mixer.held = s.mixer.held := by unfold replyWhole; split <;> simp
@[simp] theorem failReply_held (l : Fin 4) (f : InFlight) (code : ResultCode) (reason : Nat) (s : Block) : (failReply l f code reason s).mixer.held = s.mixer.held := by simp [failReply]
@[simp] theorem replyCharacter_held (l : Fin 4) (f : InFlight) (flag : Bool) (data : Byte) (s : Block) : (replyCharacter l f flag data s).mixer.held = s.mixer.held := by unfold replyCharacter; split <;> simp
@[simp] theorem countStray_held (l : Fin 4) (s : Block) : (countStray l s).mixer.held = s.mixer.held := by simp [countStray]
@[simp] theorem talkbackCharacter_held (l : Fin 4) (flag : Bool) (data : Byte) (s : Block) : (talkbackCharacter l flag data s).mixer.held = s.mixer.held := by
  unfold talkbackCharacter
  dsimp only
  repeat' split
  all_goals simp
@[simp] theorem replyStarts_held (l : Fin 4) (s : Block) : (replyStarts l s).mixer.held = s.mixer.held := by unfold replyStarts; split <;> simp
@[simp] theorem replyTimesOut_held (l : Fin 4) (s : Block) : (replyTimesOut l s).mixer.held = s.mixer.held := by unfold replyTimesOut; split <;> simp
@[simp] theorem replyCollides_held (l : Fin 4) (kind : CollisionKind) (s : Block) : (replyCollides l kind s).mixer.held = s.mixer.held := by unfold replyCollides; split <;> simp
@[simp] theorem replyGap_held (l : Fin 4) (s : Block) : (replyGap l s).mixer.held = s.mixer.held := by
  unfold replyGap
  repeat' split
  all_goals simp
@[simp] theorem windowEnds_held (l : Fin 4) (s : Block) : (windowEnds l s).mixer.held = s.mixer.held := by unfold windowEnds; split <;> simp
@[simp] theorem endReply_held (code : ResultCode) (s : Block) : (endReply code s).mixer.held = s.mixer.held := by
  unfold endReply
  repeat' split
  all_goals simp
@[simp] theorem stopQueries_held (l : Fin 4) (s : Block) : (stopQueries l s).mixer.held = s.mixer.held := by simp [stopQueries]
@[simp] theorem haltQueries_held (l : Fin 4) (s : Block) : (haltQueries l s).mixer.held = s.mixer.held := by
  unfold haltQueries
  dsimp only
  split <;> simp
@[simp] theorem talkbackStop_held (s : Block) : (talkbackStop s).mixer.held = s.mixer.held := by simp [talkbackStop, foldl_keeps (fun b : Block => b.mixer.held)]
@[simp] theorem forgetQueries_held (s : Block) : (forgetQueries s).mixer.held = s.mixer.held := rfl
@[simp] theorem talkbackHalt_held (s : Block) : (talkbackHalt s).mixer.held = s.mixer.held := by simp [talkbackHalt, foldl_keeps (fun b : Block => b.mixer.held)]
@[simp] theorem arriveSetTrigger_held (t : Fin 8) (slot : Fin 32) (edge debounce action playback bank cue time : Word) (s : Block) : (arriveSetTrigger t slot edge debounce action playback bank cue time s).mixer.held = s.mixer.held := by unfold arriveSetTrigger; split <;> simp
@[simp] theorem tick_held (s : Block) : (tick s).mixer.held = s.mixer.held := by simp [tick]
@[simp] theorem placeFrame_held (slot : Fin 32) (v : FrameValues) (s : Block) : (placeFrame slot v s).mixer.held = s.mixer.held := by unfold placeFrame; split <;> simp
@[simp] theorem arriveSetFrame_held (slot : Fin 32) (period scan status : Word) (s : Block) : (arriveSetFrame slot period scan status s).mixer.held = s.mixer.held := by
  unfold arriveSetFrame
  repeat' split
  all_goals simp
@[simp] theorem installFrame_held (s : Block) : (installFrame s).mixer.held = s.mixer.held := by unfold installFrame; split <;> simp
@[simp] theorem dropPendingFrame_held (s : Block) : (dropPendingFrame s).mixer.held = s.mixer.held := by unfold dropPendingFrame; split <;> simp
@[simp] theorem frameExpires_held (s : Block) : (frameExpires s).mixer.held = s.mixer.held := by simp [frameExpires]
theorem withTarget_held (n : Nat) (slot : Fin 32) (w : Word) (f : Fin n → Block → Block) (s : Block) (h : ∀ x t, (f x t).mixer.held = t.mixer.held) : (withTarget n slot w f s).mixer.held = s.mixer.held := by unfold withTarget; split <;> simp [h]
@[simp] theorem dispatchSetLine_held (slot : Fin 32) (line mode rate count talkback base timeout action : Word) (s : Block) : (dispatchSetLine slot line mode rate count talkback base timeout action s).mixer.held = s.mixer.held := withTarget_held _ _ _ _ s (fun _ _ => by simp)
@[simp] theorem dispatchSetTrigger_held (slot : Fin 32) (trigger edge debounce action playback bank cue time : Word) (s : Block) : (dispatchSetTrigger slot trigger edge debounce action playback bank cue time s).mixer.held = s.mixer.held := withTarget_held _ _ _ _ s (fun _ _ => by simp)
@[simp] theorem dispatchClearLine_held (slot : Fin 32) (line : Word) (s : Block) : (dispatchClearLine slot line s).mixer.held = s.mixer.held := withTarget_held _ _ _ _ s (fun _ _ => by simp)
@[simp] theorem dispatchQuery_held (slot : Fin 32) (line address code count bytes0 bytes4 reply : Word) (s : Block) : (dispatchQuery slot line address code count bytes0 bytes4 reply s).mixer.held = s.mixer.held := withTarget_held _ _ _ _ s (fun _ _ => by simp)
@[simp] theorem startScan_held (s : Block) : (startScan s).mixer.held = s.mixer.held := by simp [startScan]
@[simp] theorem scanDue_held (s : Block) : (scanDue s).mixer.held = s.mixer.held := by unfold scanDue; split <;> simp
@[simp] theorem endScan_held (s : Block) : (endScan s).mixer.held = s.mixer.held := by unfold endScan; split <;> simp
@[simp] theorem visit_held (taken : Nat) (s : Block) (xs : List (Fin 32)) : (visit taken s xs).mixer.held = s.mixer.held := by
  induction xs with
  | nil => simp [visit]
  | cons i rest ih =>
    rw [visit]
    split
    · simp
    · split
      · exact ih
      · split <;> simp
@[simp] theorem rowRead_held (row words : List Word) (s : Block) : (rowRead row words s).mixer.held = s.mixer.held := by
  unfold rowRead
  dsimp only
  split <;> simp
@[simp] theorem claimDone_held (i : Fin 32) (rest : List (Fin 32)) (taken : Nat) (value : Word) (s : Block) : (claimDone i rest taken value s).mixer.held = s.mixer.held := by
  unfold claimDone
  repeat' split
  all_goals simp
@[simp] theorem scannerFault_held (s : Block) : (scannerFault s).mixer.held = s.mixer.held := by unfold scannerFault; split <;> simp
@[simp] theorem scannerHalt_held (s : Block) : (scannerHalt s).mixer.held = s.mixer.held := by unfold scannerHalt; split <;> simp
@[simp] theorem countScan_held (installed : Bool) (s : Block) : (countScan installed s).mixer.held = s.mixer.held := by
  unfold countScan
  dsimp only
  split <;> simp
@[simp] theorem resultsDone_held (s : Block) : (resultsDone s).mixer.held = s.mixer.held := by unfold resultsDone; split <;> simp
@[simp] theorem resultsFault_held (s : Block) : (resultsFault s).mixer.held = s.mixer.held := rfl
@[simp] theorem resultsBoundary_held (s : Block) : (resultsBoundary s).mixer.held = s.mixer.held := by unfold resultsBoundary; split <;> simp
@[simp] theorem resultsHalt_held (s : Block) : (resultsHalt s).mixer.held = s.mixer.held := rfl
@[simp] theorem beginCounting_held (s : Block) : (beginCounting s).mixer.held = s.mixer.held := by simp [beginCounting]
@[simp] theorem serveNext_held (s : Block) : (serveNext s).mixer.held = s.mixer.held := rfl
@[simp] theorem movePin_held (t : Fin 8) (level : Bool) (s : Block) : (movePin t level s).mixer.held = s.mixer.held := rfl
theorem receiverEvent_held (l : Fin 4) (frame : Line → Line) (reply : Block → Block) (s : Block) (h : ∀ t, (reply t).mixer.held = t.mixer.held) : (receiverEvent l frame reply s).mixer.held = s.mixer.held := by
  unfold receiverEvent
  dsimp only
  repeat' split
  all_goals simp [h]

end Sys2Proof.Machine
end

