-- ==== Sys2Proof/Laws/FramesPort.lean ====
section
/-! SUPPORT. Which operations leave the port's counts of faults as they are. -/

namespace Sys2Proof.Machine

@[simp] theorem withdraw_consecutive (p : Port) : (p.withdraw).consecutive = p.consecutive := rfl
@[simp] theorem release_consecutive (p : Port) : (p.release).consecutive = p.consecutive := rfl
@[simp] theorem start_consecutive (p : Port) (c : Client) (k : TenureKind) : (p.start c k).consecutive = p.consecutive := rfl
@[simp] theorem arbitrate_consecutive (p : Port) : p.arbitrate.consecutive = p.consecutive := by
  unfold Port.arbitrate
  split
  · split <;> simp
  · rfl
@[simp] theorem withdraw_faults (p : Port) : (p.withdraw).faults = p.faults := rfl
@[simp] theorem release_faults (p : Port) : (p.release).faults = p.faults := rfl
@[simp] theorem start_faults (p : Port) (c : Client) (k : TenureKind) : (p.start c k).faults = p.faults := rfl
@[simp] theorem arbitrate_faults (p : Port) : p.arbitrate.faults = p.faults := by
  unfold Port.arbitrate
  split
  · split <;> simp
  · rfl
@[simp] theorem withdraw_waits (p : Port) : (p.withdraw).waits = p.waits := rfl
@[simp] theorem release_waits (p : Port) : (p.release).waits = p.waits := rfl
@[simp] theorem start_waits (p : Port) (c : Client) (k : TenureKind) : (p.start c k).waits = p.waits := rfl
@[simp] theorem arbitrate_waits (p : Port) : p.arbitrate.waits = p.waits := by
  unfold Port.arbitrate
  split
  · split <;> simp
  · rfl

/-- The arbiter leaves the counts of faults as they are. -/
@[simp] theorem serveNext_consecutive (s : Block) : (serveNext s).port.consecutive = s.port.consecutive := by simp [serveNext]

@[simp] theorem serveNext_faults (s : Block) : (serveNext s).port.faults = s.port.faults := by simp [serveNext]

@[simp] theorem startWriter_consecutive (s : Block) : (startWriter s).port.consecutive = s.port.consecutive := by
  unfold startWriter
  split
  · split <;> simp
  · rfl

@[simp] theorem startWriter_faults (s : Block) : (startWriter s).port.faults = s.port.faults := by
  unfold startWriter
  split
  · split <;> simp
  · rfl

@[simp] theorem complete_consecutive (i : Fin 32) (code : ResultCode) (v1 v2 v3 : Word) (s : Block) :
    (complete i code v1 v2 v3 s).port.consecutive = s.port.consecutive := by
  unfold complete
  dsimp only
  split
  · split <;> simp
  · rfl

@[simp] theorem complete_faults (i : Fin 32) (code : ResultCode) (v1 v2 v3 : Word) (s : Block) :
    (complete i code v1 v2 v3 s).port.faults = s.port.faults := by
  unfold complete
  dsimp only
  split
  · split <;> simp
  · rfl

@[simp] theorem completePlain_consecutive (i : Fin 32) (code : ResultCode) (s : Block) :
    (completePlain i code s).port.consecutive = s.port.consecutive := complete_consecutive ..

@[simp] theorem completePlain_faults (i : Fin 32) (code : ResultCode) (s : Block) :
    (completePlain i code s).port.faults = s.port.faults := complete_faults ..

@[simp] theorem completeOrigin_consecutive (o : Origin) (code : ResultCode) (v1 v2 : Word) (s : Block) :
    (completeOrigin o code v1 v2 s).port.consecutive = s.port.consecutive := by
  cases o <;> simp [completeOrigin]

@[simp] theorem completeOrigin_faults (o : Origin) (code : ResultCode) (v1 v2 : Word) (s : Block) :
    (completeOrigin o code v1 v2 s).port.faults = s.port.faults := by
  cases o <;> simp [completeOrigin]

@[simp] theorem edit_consecutive (p : Fin 8) (freed : Nat) (s : Block) : (edit p freed s).port.consecutive = s.port.consecutive := by unfold edit; split <;> simp
@[simp] theorem takeLoadJob_consecutive (s : Block) : (takeLoadJob s).port.consecutive = s.port.consecutive := by
  unfold takeLoadJob
  repeat' split
  all_goals simp
@[simp] theorem submitLoad_consecutive (p : Fin 8) (bank : Nat) (search : Search) (s : Block) : (submitLoad p bank search s).port.consecutive = s.port.consecutive := by simp [submitLoad]
@[simp] theorem followEnd_consecutive (p : Fin 8) (s : Block) : (followEnd p s).port.consecutive = s.port.consecutive := by
  unfold followEnd
  dsimp only
  split <;> simp
@[simp] theorem followIfDue_consecutive (p : Fin 8) (s : Block) : (followIfDue p s).port.consecutive = s.port.consecutive := by unfold followIfDue; split <;> simp
@[simp] theorem fadeEnds_consecutive (p : Fin 8) (s : Block) : (fadeEnds p s).port.consecutive = s.port.consecutive := by
  unfold fadeEnds
  dsimp only
  split <;> simp
@[simp] theorem fadeEndIfDue_consecutive (p : Fin 8) (s : Block) : (fadeEndIfDue p s).port.consecutive = s.port.consecutive := by unfold fadeEndIfDue; split <;> simp
@[simp] theorem finishHead_consecutive (p : Fin 8) (code : ResultCode) (v1 v2 : Word) (s : Block) : (finishHead p code v1 v2 s).port.consecutive = s.port.consecutive := by unfold finishHead; split <;> simp
@[simp] theorem servePause_consecutive (p : Fin 8) (s : Block) : (servePause p s).port.consecutive = s.port.consecutive := by
  unfold servePause
  dsimp only
  split <;> simp
@[simp] theorem serveResume_consecutive (p : Fin 8) (s : Block) : (serveResume p s).port.consecutive = s.port.consecutive := by
  unfold serveResume
  dsimp only
  split <;> simp
@[simp] theorem serveLoad_consecutive (p : Fin 8) (choice : Option (Nat × Search)) (s : Block) : (serveLoad p choice s).port.consecutive = s.port.consecutive := by
  unfold serveLoad
  repeat' split
  all_goals simp
@[simp] theorem serveHead_consecutive (p : Fin 8) (s : Block) : (serveHead p s).port.consecutive = s.port.consecutive := by
  unfold serveHead
  dsimp only
  repeat' split
  all_goals simp
@[simp] theorem serveUpTo_consecutive (n : Nat) (p : Fin 8) (s : Block) : (serveUpTo n p s).port.consecutive = s.port.consecutive := by
  induction n generalizing s with
  | zero => rfl
  | succ n ih => unfold serveUpTo; split <;> simp [ih]
@[simp] theorem serve_consecutive (p : Fin 8) (s : Block) : (serve p s).port.consecutive = s.port.consecutive := by simp [serve]
@[simp] theorem queueFull_consecutive (o : Origin) (s : Block) : (queueFull o s).port.consecutive = s.port.consecutive := by unfold queueFull; split <;> simp
@[simp] theorem arriveQueued_consecutive (p : Fin 8) (o : Origin) (k : QueuedKind) (s : Block) : (arriveQueued p o k s).port.consecutive = s.port.consecutive := by
  unfold arriveQueued
  repeat' split
  all_goals simp
@[simp] theorem cancelRequests_consecutive (rs : List QueuedRequest) (s : Block) : (cancelRequests rs s).port.consecutive = s.port.consecutive := by simp [cancelRequests, foldl_keeps (fun b : Block => b.port.consecutive)]
@[simp] theorem markAbandoned_consecutive (p : Fin 8) (s : Block) : (markAbandoned p s).port.consecutive = s.port.consecutive := by
  unfold markAbandoned
  repeat' split
  all_goals simp
@[simp] theorem abandonLoad_consecutive (p : Fin 8) (s : Block) : (abandonLoad p s).port.consecutive = s.port.consecutive := by unfold abandonLoad; split <;> simp
@[simp] theorem cancelAndAbandon_consecutive (p : Fin 8) (s : Block) : (cancelAndAbandon p s).port.consecutive = s.port.consecutive := by simp [cancelAndAbandon]
@[simp] theorem releaseBuild_consecutive (p : Fin 8) (time : Option Nat) (s : Block) : (releaseBuild p time s).port.consecutive = s.port.consecutive := by simp [releaseBuild]
@[simp] theorem arriveRelease_consecutive (p : Fin 8) (o : Origin) (time : Option Nat) (s : Block) : (arriveRelease p o time s).port.consecutive = s.port.consecutive := by
  unfold arriveRelease
  dsimp only
  repeat' split
  all_goals simp
@[simp] theorem arriveSetMaster_consecutive (p : Fin 8) (slot : Fin 32) (level time : Word) (s : Block) : (arriveSetMaster p slot level time s).port.consecutive = s.port.consecutive := by unfold arriveSetMaster; split <;> simp
@[simp] theorem clearPlayback_consecutive (p : Fin 8) (s : Block) : (clearPlayback p s).port.consecutive = s.port.consecutive := by simp [clearPlayback]
@[simp] theorem clearPlaybacks_consecutive (s : Block) : (clearPlaybacks s).port.consecutive = s.port.consecutive := by simp [clearPlaybacks, foldl_keeps (fun b : Block => b.port.consecutive)]
@[simp] theorem loadCompleted_consecutive (p : Fin 8) (bank : Nat) (h : CueHeader) (s : Block) : (loadCompleted p bank h s).port.consecutive = s.port.consecutive := by simp [loadCompleted]
@[simp] theorem loadEnded_consecutive (p : Fin 8) (code : ResultCode) (s : Block) : (loadEnded p code s).port.consecutive = s.port.consecutive := by simp [loadEnded]
@[simp] theorem freeLoad_consecutive (p : Fin 8) (s : Block) : (freeLoad p s).port.consecutive = s.port.consecutive := by simp [freeLoad]
theorem endJob_consecutive (report : Block → Block) (s : Block) (h : ∀ t, (report t).port.consecutive = t.port.consecutive) : (endJob report s).port.consecutive = s.port.consecutive := by simp [endJob, h]
@[simp] theorem endUnfinished_consecutive (c : CurrentLoad) (code : ResultCode) (s : Block) : (endUnfinished c code s).port.consecutive = s.port.consecutive := endJob_consecutive _ s (fun _ => by simp)
@[simp] theorem enterUnlock_consecutive (c : CurrentLoad) (s : Block) : (enterUnlock c s).port.consecutive = s.port.consecutive := by simp [enterUnlock]
@[simp] theorem failLoad_consecutive (c : CurrentLoad) (code : ResultCode) (s : Block) : (failLoad c code s).port.consecutive = s.port.consecutive := by unfold failLoad; split <;> simp
@[simp] theorem readBank_consecutive (c : CurrentLoad) (stage : LoadStage) (k words : Nat) (s : Block) : (readBank c stage k words s).port.consecutive = s.port.consecutive := by simp [readBank]
@[simp] theorem putBack_consecutive (c : CurrentLoad) (s : Block) : (putBack c s).port.consecutive = s.port.consecutive := by simp [putBack]
@[simp] theorem lockDone_consecutive (c : CurrentLoad) (value : Word) (s : Block) : (lockDone c value s).port.consecutive = s.port.consecutive := by
  unfold lockDone
  repeat' split
  all_goals simp
@[simp] theorem countRead_consecutive (c : CurrentLoad) (n : Nat) (s : Block) : (countRead c n s).port.consecutive = s.port.consecutive := by
  unfold countRead
  repeat' split
  all_goals simp
@[simp] theorem directoryRead_consecutive (c : CurrentLoad) (count position : Nat) (words : List Word) (s : Block) : (directoryRead c count position words s).port.consecutive = s.port.consecutive := by
  unfold directoryRead
  dsimp only
  repeat' split
  all_goals simp
@[simp] theorem headerRead_consecutive (c : CurrentLoad) (number offset : Nat) (words : List Word) (s : Block) : (headerRead c number offset words s).port.consecutive = s.port.consecutive := by
  unfold headerRead
  repeat' split
  all_goals simp
@[simp] theorem entriesRead_consecutive (c : CurrentLoad) (offset position : Nat) (words : List Word) (s : Block) : (entriesRead c offset position words s).port.consecutive = s.port.consecutive := by
  unfold entriesRead
  dsimp only
  repeat' split
  all_goals simp
@[simp] theorem unlockDone_consecutive (c : CurrentLoad) (s : Block) : (unlockDone c s).port.consecutive = s.port.consecutive := by
  unfold unlockDone
  split
  · rw [endJob_consecutive _ _ (fun _ => by simp)]; simp
  · simp
@[simp] theorem loaderDone_consecutive (words : List Word) (s : Block) : (loaderDone words s).port.consecutive = s.port.consecutive := by
  unfold loaderDone
  repeat' split
  all_goals simp
@[simp] theorem loaderFault_consecutive (read : Bool) (s : Block) : (loaderFault read s).port.consecutive = s.port.consecutive := by
  unfold loaderFault
  repeat' split
  all_goals simp
@[simp] theorem haltJobs_consecutive (jobs : List LoadJob) (s : Block) : (haltJobs jobs s).port.consecutive = s.port.consecutive := by simp [haltJobs, foldl_keeps (fun b : Block => b.port.consecutive)]
@[simp] theorem haltCurrent_consecutive (s : Block) : (haltCurrent s).port.consecutive = s.port.consecutive := by
  unfold haltCurrent
  repeat' split
  all_goals simp
@[simp] theorem loaderHalt_consecutive (s : Block) : (loaderHalt s).port.consecutive = s.port.consecutive := by simp [loaderHalt]
@[simp] theorem loaderBoundary_consecutive (s : Block) : (loaderBoundary s).port.consecutive = s.port.consecutive := by simp [loaderBoundary]
@[simp] theorem endShadow_consecutive (x : Shadow) (code : ResultCode) (s : Block) : (endShadow x code s).port.consecutive = s.port.consecutive := by unfold endShadow; split <;> simp
@[simp] theorem endStaging_consecutive (x : Staging) (code : ResultCode) (s : Block) : (endStaging x code s).port.consecutive = s.port.consecutive := by unfold endStaging; split <;> simp
@[simp] theorem beginTable_consecutive (j : TableJob) (s : Block) : (beginTable j s).port.consecutive = s.port.consecutive := by unfold beginTable; split <;> simp
@[simp] theorem takeTableJob_consecutive (s : Block) : (takeTableJob s).port.consecutive = s.port.consecutive := by
  unfold takeTableJob
  repeat' split
  all_goals simp
@[simp] theorem submitTable_consecutive (slot : Fin 32) (j : TableJob) (s : Block) : (submitTable slot j s).port.consecutive = s.port.consecutive := by unfold submitTable; split <;> simp
@[simp] theorem arrivePatch_consecutive (slot : Fin 32) (address count : Word) (s : Block) : (arrivePatch slot address count s).port.consecutive = s.port.consecutive := by unfold arrivePatch; split <;> simp
@[simp] theorem arriveCurve_consecutive (slot : Fin 32) (curve address : Word) (s : Block) : (arriveCurve slot curve address s).port.consecutive = s.port.consecutive := by unfold arriveCurve; split <;> simp
@[simp] theorem readerIdle_consecutive (s : Block) : (readerIdle s).port.consecutive = s.port.consecutive := by simp [readerIdle]
@[simp] theorem emptyFilling_consecutive (j : TableJob) (s : Block) : (emptyFilling j s).port.consecutive = s.port.consecutive := by unfold emptyFilling; split <;> simp
@[simp] theorem failTable_consecutive (j : TableJob) (code : ResultCode) (v1 v2 : Word) (s : Block) : (failTable j code v1 v2 s).port.consecutive = s.port.consecutive := by simp [failTable]
@[simp] theorem validatePatch_consecutive (slot : Fin 32) (j : TableJob) (words : List Word) (s : Block) : (validatePatch slot j words s).port.consecutive = s.port.consecutive := by
  unfold validatePatch
  dsimp only
  repeat' split
  all_goals simp
@[simp] theorem patchRead_consecutive (j : TableJob) (slot : Fin 32) (address : Word) (count : Nat) (words : List Word) (s : Block) : (patchRead j slot address count words s).port.consecutive = s.port.consecutive := by
  unfold patchRead
  dsimp only
  repeat' split
  all_goals simp
@[simp] theorem curveRead_consecutive (j : TableJob) (slot : Fin 32) (k : Fin 7) (address : Word) (words : List Word) (s : Block) : (curveRead j slot k address words s).port.consecutive = s.port.consecutive := by
  unfold curveRead
  dsimp only
  repeat' split
  all_goals simp
@[simp] theorem tablesDone_consecutive (words : List Word) (s : Block) : (tablesDone words s).port.consecutive = s.port.consecutive := by
  unfold tablesDone
  repeat' split
  all_goals simp
@[simp] theorem tablesFault_consecutive (s : Block) : (tablesFault s).port.consecutive = s.port.consecutive := by unfold tablesFault; split <;> simp
@[simp] theorem endTables_consecutive (code : ResultCode) (s : Block) : (endTables code s).port.consecutive = s.port.consecutive := by simp [endTables, foldl_keeps (fun b : Block => b.port.consecutive)]
@[simp] theorem tablesStop_consecutive (s : Block) : (tablesStop s).port.consecutive = s.port.consecutive := by simp [tablesStop]
@[simp] theorem tablesHalt_consecutive (s : Block) : (tablesHalt s).port.consecutive = s.port.consecutive := by unfold tablesHalt; split <;> simp
@[simp] theorem installPatch_consecutive (s : Block) : (installPatch s).port.consecutive = s.port.consecutive := by unfold installPatch; split <;> simp
@[simp] theorem installCurve_consecutive (k : Fin 7) (s : Block) : (installCurve k s).port.consecutive = s.port.consecutive := by unfold installCurve; split <;> simp
@[simp] theorem installTables_consecutive (s : Block) : (installTables s).port.consecutive = s.port.consecutive := by simp [installTables, foldl_keeps (fun b : Block => b.port.consecutive)]
@[simp] theorem periodEnds_consecutive (s : Block) : (periodEnds s).port.consecutive = s.port.consecutive := by simp [periodEnds]
@[simp] theorem arriveSetOutputs_consecutive (slot : Fin 32) (clock modes inverts : Word) (s : Block) : (arriveSetOutputs slot clock modes inverts s).port.consecutive = s.port.consecutive := by unfold arriveSetOutputs; split <;> simp
@[simp] theorem askStatus_consecutive (s : Block) : (askStatus s).port.consecutive = s.port.consecutive := by unfold askStatus; split <;> simp
@[simp] theorem joinStatus_consecutive (j : StatusJob) (s : Block) : (joinStatus j s).port.consecutive = s.port.consecutive := by unfold joinStatus; split <;> simp
@[simp] theorem leaveStatus_consecutive (s : Block) : (leaveStatus s).port.consecutive = s.port.consecutive := by simp [leaveStatus]
@[simp] theorem beginPage_consecutive (s : Block) : (beginPage s).port.consecutive = s.port.consecutive := by simp [beginPage]
@[simp] theorem statusDue_consecutive (s : Block) : (statusDue s).port.consecutive = s.port.consecutive := by
  unfold statusDue
  repeat' split
  all_goals simp
@[simp] theorem endPage_consecutive (s : Block) : (endPage s).port.consecutive = s.port.consecutive := by simp [endPage]
@[simp] theorem endSnapshot_consecutive (code : ResultCode) (s : Block) : (endSnapshot code s).port.consecutive = s.port.consecutive := by unfold endSnapshot; split <;> simp
@[simp] theorem statusDone_consecutive (s : Block) : (statusDone s).port.consecutive = s.port.consecutive := by
  unfold statusDone
  repeat' split
  all_goals simp
@[simp] theorem statusFault_consecutive (s : Block) : (statusFault s).port.consecutive = s.port.consecutive := by unfold statusFault; split <;> simp
@[simp] theorem statusHalt_consecutive (s : Block) : (statusHalt s).port.consecutive = s.port.consecutive := by unfold statusHalt; split <;> simp
@[simp] theorem statusStop_consecutive (s : Block) : (statusStop s).port.consecutive = s.port.consecutive := by unfold statusStop; split <;> simp
@[simp] theorem countStatus_consecutive (installed : Bool) (s : Block) : (countStatus installed s).port.consecutive = s.port.consecutive := by
  unfold countStatus
  dsimp only
  split <;> simp
@[simp] theorem arriveSnapshot_consecutive (slot : Fin 32) (address : Word) (s : Block) : (arriveSnapshot slot address s).port.consecutive = s.port.consecutive := by unfold arriveSnapshot; split <;> simp
@[simp] theorem copySnapshot_consecutive (s : Block) : (copySnapshot s).port.consecutive = s.port.consecutive := by unfold copySnapshot; split <;> simp
@[simp] theorem swap_consecutive (s : Block) : (swap s).port.consecutive = s.port.consecutive := by simp [swap]
@[simp] theorem passStarts_consecutive (s : Block) : (passStarts s).port.consecutive = s.port.consecutive := by simp [passStarts]
@[simp] theorem mixerBoundary_consecutive (s : Block) : (mixerBoundary s).port.consecutive = s.port.consecutive := by
  unfold mixerBoundary
  repeat' split
  all_goals simp
@[simp] theorem passEnds_consecutive (latch : PassLatch) (s : Block) : (passEnds latch s).port.consecutive = s.port.consecutive := by simp [passEnds]
@[simp] theorem arriveSetGrand_consecutive (slot : Fin 32) (level time : Word) (s : Block) : (arriveSetGrand slot level time s).port.consecutive = s.port.consecutive := by unfold arriveSetGrand; split <;> simp
@[simp] theorem arriveBlackout_consecutive (slot : Fin 32) (action : Word) (s : Block) : (arriveBlackout slot action s).port.consecutive = s.port.consecutive := by
  unfold arriveBlackout
  dsimp only
  split <;> simp
@[simp] theorem toggleBlackout_consecutive (s : Block) : (toggleBlackout s).port.consecutive = s.port.consecutive := by simp [toggleBlackout]
@[simp] theorem grandSettles_consecutive (s : Block) : (grandSettles s).port.consecutive = s.port.consecutive := by simp [grandSettles]
@[simp] theorem placeLine_consecutive (l : Fin 4) (slot : Fin 32) (c : LineConfig) (s : Block) : (placeLine l slot c s).port.consecutive = s.port.consecutive := by unfold placeLine; split <;> simp
@[simp] theorem arriveSetLine_consecutive (l : Fin 4) (slot : Fin 32) (mode rate count talkback base timeout action : Word) (s : Block) : (arriveSetLine l slot mode rate count talkback base timeout action s).port.consecutive = s.port.consecutive := by
  unfold arriveSetLine
  repeat' split
  all_goals simp
@[simp] theorem endQueries_consecutive (code : ResultCode) (qs : List Query) (s : Block) : (endQueries code qs s).port.consecutive = s.port.consecutive := by simp [endQueries, foldl_keeps (fun b : Block => b.port.consecutive)]
@[simp] theorem installLine_consecutive (l : Fin 4) (s : Block) : (installLine l s).port.consecutive = s.port.consecutive := by
  unfold installLine
  dsimp only
  repeat' split
  all_goals simp
@[simp] theorem startFrame_consecutive (l : Fin 4) (s : Block) : (startFrame l s).port.consecutive = s.port.consecutive := by unfold startFrame; split <;> simp
@[simp] theorem lineBoundary_consecutive (l : Fin 4) (s : Block) : (lineBoundary l s).port.consecutive = s.port.consecutive := by simp [lineBoundary]
@[simp] theorem commit_consecutive (l : Fin 4) (s : Block) : (commit l s).port.consecutive = s.port.consecutive := by
  unfold commit
  dsimp only
  repeat' split
  all_goals simp
@[simp] theorem mixCompletes_consecutive (latch : PassLatch) (s : Block) : (mixCompletes latch s).port.consecutive = s.port.consecutive := by simp [mixCompletes, foldl_keeps (fun b : Block => b.port.consecutive)]
@[simp] theorem signalExpires_consecutive (l : Fin 4) (s : Block) : (signalExpires l s).port.consecutive = s.port.consecutive := by unfold signalExpires; split <;> simp
@[simp] theorem receiveCharacter_consecutive (l : Fin 4) (flag : Bool) (data : Byte) (s : Block) : (receiveCharacter l flag data s).port.consecutive = s.port.consecutive := by
  unfold receiveCharacter
  dsimp only
  split <;> simp
@[simp] theorem receiving_consecutive (l : Fin 4) (f : Line → Line) (s : Block) : (receiving l f s).port.consecutive = s.port.consecutive := by unfold receiving; split <;> simp
@[simp] theorem arriveClearLine_consecutive (l : Fin 4) (slot : Fin 32) (s : Block) : (arriveClearLine l slot s).port.consecutive = s.port.consecutive := by simp [arriveClearLine]
@[simp] theorem dropPendingLine_consecutive (l : Fin 4) (s : Block) : (dropPendingLine l s).port.consecutive = s.port.consecutive := by unfold dropPendingLine; split <;> simp
@[simp] theorem dropPendingLines_consecutive (s : Block) : (dropPendingLines s).port.consecutive = s.port.consecutive := by simp [dropPendingLines, foldl_keeps (fun b : Block => b.port.consecutive)]
@[simp] theorem arriveQuery_consecutive (l : Fin 4) (slot : Fin 32) (address code count bytes0 bytes4 reply : Word) (s : Block) : (arriveQuery l slot address code count bytes0 bytes4 reply s).port.consecutive = s.port.consecutive := by
  unfold arriveQuery
  dsimp only
  repeat' split
  all_goals simp
@[simp] theorem endQuery_consecutive (l : Fin 4) (code : ResultCode) (v1 v2 : Word) (s : Block) : (endQuery l code v1 v2 s).port.consecutive = s.port.consecutive := by
  unfold endQuery
  repeat' split
  all_goals simp
@[simp] theorem queryFrameEnded_consecutive (l : Fin 4) (s : Block) : (queryFrameEnded l s).port.consecutive = s.port.consecutive := by
  unfold queryFrameEnded
  repeat' split
  all_goals simp
@[simp] theorem askTalkback_consecutive (s : Block) : (askTalkback s).port.consecutive = s.port.consecutive := by
  unfold askTalkback
  repeat' split
  all_goals simp
@[simp] theorem placeReply_consecutive (l : Fin 4) (r : Reply) (s : Block) : (placeReply l r s).port.consecutive = s.port.consecutive := by unfold placeReply; split <;> simp
@[simp] theorem replyWhole_consecutive (l : Fin 4) (f : InFlight) (s : Block) : (replyWhole l f s).port.consecutive = s.port.consecutive := by unfold replyWhole; split <;> simp
@[simp] theorem failReply_consecutive (l : Fin 4) (f : InFlight) (code : ResultCode) (reason : Nat) (s : Block) : (failReply l f code reason s).port.consecutive = s.port.consecutive := by simp [failReply]
@[simp] theorem replyCharacter_consecutive (l : Fin 4) (f : InFlight) (flag : Bool) (data : Byte) (s : Block) : (replyCharacter l f flag data s).port.consecutive = s.port.consecutive := by unfold replyCharacter; split <;> simp
@[simp] theorem countStray_consecutive (l : Fin 4) (s : Block) : (countStray l s).port.consecutive = s.port.consecutive := by simp [countStray]
@[simp] theorem talkbackCharacter_consecutive (l : Fin 4) (flag : Bool) (data : Byte) (s : Block) : (talkbackCharacter l flag data s).port.consecutive = s.port.consecutive := by
  unfold talkbackCharacter
  dsimp only
  repeat' split
  all_goals simp
@[simp] theorem replyStarts_consecutive (l : Fin 4) (s : Block) : (replyStarts l s).port.consecutive = s.port.consecutive := by unfold replyStarts; split <;> simp
@[simp] theorem replyTimesOut_consecutive (l : Fin 4) (s : Block) : (replyTimesOut l s).port.consecutive = s.port.consecutive := by unfold replyTimesOut; split <;> simp
@[simp] theorem replyCollides_consecutive (l : Fin 4) (kind : CollisionKind) (s : Block) : (replyCollides l kind s).port.consecutive = s.port.consecutive := by unfold replyCollides; split <;> simp
@[simp] theorem replyGap_consecutive (l : Fin 4) (s : Block) : (replyGap l s).port.consecutive = s.port.consecutive := by
  unfold replyGap
  repeat' split
  all_goals simp
@[simp] theorem windowEnds_consecutive (l : Fin 4) (s : Block) : (windowEnds l s).port.consecutive = s.port.consecutive := by unfold windowEnds; split <;> simp
@[simp] theorem endReply_consecutive (code : ResultCode) (s : Block) : (endReply code s).port.consecutive = s.port.consecutive := by
  unfold endReply
  repeat' split
  all_goals simp
@[simp] theorem stopQueries_consecutive (l : Fin 4) (s : Block) : (stopQueries l s).port.consecutive = s.port.consecutive := by simp [stopQueries]
@[simp] theorem haltQueries_consecutive (l : Fin 4) (s : Block) : (haltQueries l s).port.consecutive = s.port.consecutive := by
  unfold haltQueries
  dsimp only
  split <;> simp
@[simp] theorem talkbackStop_consecutive (s : Block) : (talkbackStop s).port.consecutive = s.port.consecutive := by simp [talkbackStop, foldl_keeps (fun b : Block => b.port.consecutive)]
@[simp] theorem forgetQueries_consecutive (s : Block) : (forgetQueries s).port.consecutive = s.port.consecutive := rfl

@[simp] theorem talkbackHalt_consecutive (s : Block) : (talkbackHalt s).port.consecutive = s.port.consecutive := by simp [talkbackHalt, foldl_keeps (fun b : Block => b.port.consecutive)]
@[simp] theorem performAction_consecutive (t : Fin 8) (r : TriggerRecord) (s : Block) : (performAction t r s).port.consecutive = s.port.consecutive := by unfold performAction; split <;> simp
@[simp] theorem examineEdge_consecutive (t : Fin 8) (level : Bool) (s : Block) : (examineEdge t level s).port.consecutive = s.port.consecutive := by
  unfold examineEdge
  dsimp only
  repeat' split
  all_goals simp
@[simp] theorem settle_consecutive (t : Fin 8) (level : Bool) (s : Block) : (settle t level s).port.consecutive = s.port.consecutive := by simp [settle]
@[simp] theorem pinChanges_consecutive (t : Fin 8) (level : Bool) (s : Block) : (pinChanges t level s).port.consecutive = s.port.consecutive := by
  unfold pinChanges
  dsimp only
  repeat' split
  all_goals simp
@[simp] theorem debounceEnds_consecutive (t : Fin 8) (s : Block) : (debounceEnds t s).port.consecutive = s.port.consecutive := by simp [debounceEnds]
@[simp] theorem arriveSetTrigger_consecutive (t : Fin 8) (slot : Fin 32) (edge debounce action playback bank cue time : Word) (s : Block) : (arriveSetTrigger t slot edge debounce action playback bank cue time s).port.consecutive = s.port.consecutive := by unfold arriveSetTrigger; split <;> simp
@[simp] theorem tick_consecutive (s : Block) : (tick s).port.consecutive = s.port.consecutive := by simp [tick]
@[simp] theorem placeFrame_consecutive (slot : Fin 32) (v : FrameValues) (s : Block) : (placeFrame slot v s).port.consecutive = s.port.consecutive := by unfold placeFrame; split <;> simp
@[simp] theorem arriveSetFrame_consecutive (slot : Fin 32) (period scan status : Word) (s : Block) : (arriveSetFrame slot period scan status s).port.consecutive = s.port.consecutive := by
  unfold arriveSetFrame
  repeat' split
  all_goals simp
@[simp] theorem installFrame_consecutive (s : Block) : (installFrame s).port.consecutive = s.port.consecutive := by unfold installFrame; split <;> simp
@[simp] theorem dropPendingFrame_consecutive (s : Block) : (dropPendingFrame s).port.consecutive = s.port.consecutive := by unfold dropPendingFrame; split <;> simp
@[simp] theorem frameExpires_consecutive (s : Block) : (frameExpires s).port.consecutive = s.port.consecutive := by simp [frameExpires]
theorem withTarget_consecutive (n : Nat) (slot : Fin 32) (w : Word) (f : Fin n → Block → Block) (s : Block) (h : ∀ x t, (f x t).port.consecutive = t.port.consecutive) : (withTarget n slot w f s).port.consecutive = s.port.consecutive := by unfold withTarget; split <;> simp [h]
@[simp] theorem dispatchSetLine_consecutive (slot : Fin 32) (line mode rate count talkback base timeout action : Word) (s : Block) : (dispatchSetLine slot line mode rate count talkback base timeout action s).port.consecutive = s.port.consecutive := withTarget_consecutive _ _ _ _ s (fun _ _ => by simp)
@[simp] theorem dispatchSetTrigger_consecutive (slot : Fin 32) (trigger edge debounce action playback bank cue time : Word) (s : Block) : (dispatchSetTrigger slot trigger edge debounce action playback bank cue time s).port.consecutive = s.port.consecutive := withTarget_consecutive _ _ _ _ s (fun _ _ => by simp)
@[simp] theorem dispatchClearLine_consecutive (slot : Fin 32) (line : Word) (s : Block) : (dispatchClearLine slot line s).port.consecutive = s.port.consecutive := withTarget_consecutive _ _ _ _ s (fun _ _ => by simp)
@[simp] theorem dispatchQuery_consecutive (slot : Fin 32) (line address code count bytes0 bytes4 reply : Word) (s : Block) : (dispatchQuery slot line address code count bytes0 bytes4 reply s).port.consecutive = s.port.consecutive := withTarget_consecutive _ _ _ _ s (fun _ _ => by simp)
@[simp] theorem dispatchGo_consecutive (slot : Fin 32) (playback bank cue time : Word) (s : Block) : (dispatchGo slot playback bank cue time s).port.consecutive = s.port.consecutive := withTarget_consecutive _ _ _ _ s (fun _ _ => by simp)
@[simp] theorem dispatchGoNext_consecutive (slot : Fin 32) (playback bank : Word) (s : Block) : (dispatchGoNext slot playback bank s).port.consecutive = s.port.consecutive := withTarget_consecutive _ _ _ _ s (fun _ _ => by simp)
@[simp] theorem dispatchPause_consecutive (slot : Fin 32) (playback : Word) (s : Block) : (dispatchPause slot playback s).port.consecutive = s.port.consecutive := withTarget_consecutive _ _ _ _ s (fun _ _ => by simp)
@[simp] theorem dispatchResume_consecutive (slot : Fin 32) (playback : Word) (s : Block) : (dispatchResume slot playback s).port.consecutive = s.port.consecutive := withTarget_consecutive _ _ _ _ s (fun _ _ => by simp)
@[simp] theorem dispatchRelease_consecutive (slot : Fin 32) (playback time : Word) (s : Block) : (dispatchRelease slot playback time s).port.consecutive = s.port.consecutive := withTarget_consecutive _ _ _ _ s (fun _ _ => by simp)
@[simp] theorem dispatchSetMaster_consecutive (slot : Fin 32) (playback level time : Word) (s : Block) : (dispatchSetMaster slot playback level time s).port.consecutive = s.port.consecutive := withTarget_consecutive _ _ _ _ s (fun _ _ => by simp)
@[simp] theorem dispatch_consecutive (slot : Fin 32) (words : List Word) (s : Block) : (dispatch slot words s).port.consecutive = s.port.consecutive := by unfold dispatch; split <;> simp
@[simp] theorem startScan_consecutive (s : Block) : (startScan s).port.consecutive = s.port.consecutive := by simp [startScan]
@[simp] theorem scanDue_consecutive (s : Block) : (scanDue s).port.consecutive = s.port.consecutive := by unfold scanDue; split <;> simp
@[simp] theorem endScan_consecutive (s : Block) : (endScan s).port.consecutive = s.port.consecutive := by unfold endScan; split <;> simp
@[simp] theorem visit_consecutive (taken : Nat) (s : Block) (xs : List (Fin 32)) : (visit taken s xs).port.consecutive = s.port.consecutive := by
  induction xs with
  | nil => simp [visit]
  | cons i rest ih =>
    rw [visit]
    split
    · simp
    · split
      · exact ih
      · split <;> simp
@[simp] theorem rowRead_consecutive (row words : List Word) (s : Block) : (rowRead row words s).port.consecutive = s.port.consecutive := by
  unfold rowRead
  dsimp only
  split <;> simp
@[simp] theorem claimDone_consecutive (i : Fin 32) (rest : List (Fin 32)) (taken : Nat) (value : Word) (s : Block) : (claimDone i rest taken value s).port.consecutive = s.port.consecutive := by
  unfold claimDone
  repeat' split
  all_goals simp
@[simp] theorem bodyDone_consecutive (i : Fin 32) (rest : List (Fin 32)) (taken : Nat) (words : List Word) (s : Block) : (bodyDone i rest taken words s).port.consecutive = s.port.consecutive := by unfold bodyDone; split <;> simp
@[simp] theorem scannerDone_consecutive (words : List Word) (s : Block) : (scannerDone words s).port.consecutive = s.port.consecutive := by unfold scannerDone; split <;> simp
@[simp] theorem scannerFault_consecutive (s : Block) : (scannerFault s).port.consecutive = s.port.consecutive := by unfold scannerFault; split <;> simp
@[simp] theorem scannerHalt_consecutive (s : Block) : (scannerHalt s).port.consecutive = s.port.consecutive := by unfold scannerHalt; split <;> simp
@[simp] theorem countScan_consecutive (installed : Bool) (s : Block) : (countScan installed s).port.consecutive = s.port.consecutive := by
  unfold countScan
  dsimp only
  split <;> simp
@[simp] theorem resultsDone_consecutive (s : Block) : (resultsDone s).port.consecutive = s.port.consecutive := by unfold resultsDone; split <;> simp
@[simp] theorem resultsFault_consecutive (s : Block) : (resultsFault s).port.consecutive = s.port.consecutive := rfl
@[simp] theorem resultsBoundary_consecutive (s : Block) : (resultsBoundary s).port.consecutive = s.port.consecutive := by unfold resultsBoundary; split <;> simp
@[simp] theorem resultsHalt_consecutive (s : Block) : (resultsHalt s).port.consecutive = s.port.consecutive := rfl
@[simp] theorem anchorBad_consecutive (s : Block) : (anchorBad s).port.consecutive = s.port.consecutive := rfl
@[simp] theorem enterRunning_consecutive (s : Block) : (enterRunning s).port.consecutive = s.port.consecutive := rfl
@[simp] theorem sweepFrom_consecutive (bank : Nat) (s : Block) : (sweepFrom bank s).port.consecutive = s.port.consecutive := by unfold sweepFrom; split <;> simp
@[simp] theorem anchorRead_consecutive (before words : List Word) (s : Block) : (anchorRead before words s).port.consecutive = s.port.consecutive := by
  unfold anchorRead
  dsimp only
  repeat' split
  all_goals simp
@[simp] theorem startDone_consecutive (words : List Word) (s : Block) : (startDone words s).port.consecutive = s.port.consecutive := by
  unfold startDone
  repeat' split
  all_goals simp
@[simp] theorem startFault_consecutive (s : Block) : (startFault s).port.consecutive = s.port.consecutive := by unfold startFault; split <;> simp
@[simp] theorem enterStopping_consecutive (s : Block) : (enterStopping s).port.consecutive = s.port.consecutive := by simp [enterStopping]
@[simp] theorem enterHalted_consecutive (s : Block) : (enterHalted s).port.consecutive = s.port.consecutive := by simp [enterHalted]
@[simp] theorem beginCounting_consecutive (s : Block) : (beginCounting s).port.consecutive = s.port.consecutive := by simp [beginCounting]
@[simp] theorem releaseReset_consecutive (s : Block) : (releaseReset s).port.consecutive = s.port.consecutive := by unfold releaseReset; split <;> simp
@[simp] theorem clientDone_consecutive (c : Client) (words : List Word) (s : Block) : (clientDone c words s).port.consecutive = s.port.consecutive := by
  unfold clientDone
  repeat' split
  all_goals simp
@[simp] theorem clientFault_consecutive (c : Client) (words : List Word) (s : Block) : (clientFault c words s).port.consecutive = s.port.consecutive := by
  unfold clientFault
  repeat' split
  all_goals simp
@[simp] theorem takeBoundary_consecutive (installed : Bool) (b : BoundaryTaker) (s : Block) : (takeBoundary installed b s).port.consecutive = s.port.consecutive := by unfold takeBoundary; split <;> simp
@[simp] theorem frameBoundary_consecutive (order : List BoundaryTaker) (s : Block) : (frameBoundary order s).port.consecutive = s.port.consecutive := by simp [frameBoundary, foldl_keeps (fun b : Block => b.port.consecutive)]
@[simp] theorem endPass_consecutive (s : Block) : (endPass s).port.consecutive = s.port.consecutive := by unfold endPass; split <;> simp
@[simp] theorem masterSettles_consecutive (p : Fin 8) (s : Block) : (masterSettles p s).port.consecutive = s.port.consecutive := by simp [masterSettles]
@[simp] theorem movePin_consecutive (t : Fin 8) (level : Bool) (s : Block) : (movePin t level s).port.consecutive = s.port.consecutive := rfl
theorem receiverEvent_consecutive (l : Fin 4) (frame : Line → Line) (reply : Block → Block) (s : Block) (h : ∀ t, (reply t).port.consecutive = t.port.consecutive) : (receiverEvent l frame reply s).port.consecutive = s.port.consecutive := by
  unfold receiverEvent
  dsimp only
  repeat' split
  all_goals simp [h]
@[simp] theorem edit_faults (p : Fin 8) (freed : Nat) (s : Block) : (edit p freed s).port.faults = s.port.faults := by unfold edit; split <;> simp
@[simp] theorem takeLoadJob_faults (s : Block) : (takeLoadJob s).port.faults = s.port.faults := by
  unfold takeLoadJob
  repeat' split
  all_goals simp
@[simp] theorem submitLoad_faults (p : Fin 8) (bank : Nat) (search : Search) (s : Block) : (submitLoad p bank search s).port.faults = s.port.faults := by simp [submitLoad]
@[simp] theorem followEnd_faults (p : Fin 8) (s : Block) : (followEnd p s).port.faults = s.port.faults := by
  unfold followEnd
  dsimp only
  split <;> simp
@[simp] theorem followIfDue_faults (p : Fin 8) (s : Block) : (followIfDue p s).port.faults = s.port.faults := by unfold followIfDue; split <;> simp
@[simp] theorem fadeEnds_faults (p : Fin 8) (s : Block) : (fadeEnds p s).port.faults = s.port.faults := by
  unfold fadeEnds
  dsimp only
  split <;> simp
@[simp] theorem fadeEndIfDue_faults (p : Fin 8) (s : Block) : (fadeEndIfDue p s).port.faults = s.port.faults := by unfold fadeEndIfDue; split <;> simp
@[simp] theorem finishHead_faults (p : Fin 8) (code : ResultCode) (v1 v2 : Word) (s : Block) : (finishHead p code v1 v2 s).port.faults = s.port.faults := by unfold finishHead; split <;> simp
@[simp] theorem servePause_faults (p : Fin 8) (s : Block) : (servePause p s).port.faults = s.port.faults := by
  unfold servePause
  dsimp only
  split <;> simp
@[simp] theorem serveResume_faults (p : Fin 8) (s : Block) : (serveResume p s).port.faults = s.port.faults := by
  unfold serveResume
  dsimp only
  split <;> simp
@[simp] theorem serveLoad_faults (p : Fin 8) (choice : Option (Nat × Search)) (s : Block) : (serveLoad p choice s).port.faults = s.port.faults := by
  unfold serveLoad
  repeat' split
  all_goals simp
@[simp] theorem serveHead_faults (p : Fin 8) (s : Block) : (serveHead p s).port.faults = s.port.faults := by
  unfold serveHead
  dsimp only
  repeat' split
  all_goals simp
@[simp] theorem serveUpTo_faults (n : Nat) (p : Fin 8) (s : Block) : (serveUpTo n p s).port.faults = s.port.faults := by
  induction n generalizing s with
  | zero => rfl
  | succ n ih => unfold serveUpTo; split <;> simp [ih]
@[simp] theorem serve_faults (p : Fin 8) (s : Block) : (serve p s).port.faults = s.port.faults := by simp [serve]
@[simp] theorem queueFull_faults (o : Origin) (s : Block) : (queueFull o s).port.faults = s.port.faults := by unfold queueFull; split <;> simp
@[simp] theorem arriveQueued_faults (p : Fin 8) (o : Origin) (k : QueuedKind) (s : Block) : (arriveQueued p o k s).port.faults = s.port.faults := by
  unfold arriveQueued
  repeat' split
  all_goals simp
@[simp] theorem cancelRequests_faults (rs : List QueuedRequest) (s : Block) : (cancelRequests rs s).port.faults = s.port.faults := by simp [cancelRequests, foldl_keeps (fun b : Block => b.port.faults)]
@[simp] theorem markAbandoned_faults (p : Fin 8) (s : Block) : (markAbandoned p s).port.faults = s.port.faults := by
  unfold markAbandoned
  repeat' split
  all_goals simp
@[simp] theorem abandonLoad_faults (p : Fin 8) (s : Block) : (abandonLoad p s).port.faults = s.port.faults := by unfold abandonLoad; split <;> simp
@[simp] theorem cancelAndAbandon_faults (p : Fin 8) (s : Block) : (cancelAndAbandon p s).port.faults = s.port.faults := by simp [cancelAndAbandon]
@[simp] theorem releaseBuild_faults (p : Fin 8) (time : Option Nat) (s : Block) : (releaseBuild p time s).port.faults = s.port.faults := by simp [releaseBuild]
@[simp] theorem arriveRelease_faults (p : Fin 8) (o : Origin) (time : Option Nat) (s : Block) : (arriveRelease p o time s).port.faults = s.port.faults := by
  unfold arriveRelease
  dsimp only
  repeat' split
  all_goals simp
@[simp] theorem arriveSetMaster_faults (p : Fin 8) (slot : Fin 32) (level time : Word) (s : Block) : (arriveSetMaster p slot level time s).port.faults = s.port.faults := by unfold arriveSetMaster; split <;> simp
@[simp] theorem clearPlayback_faults (p : Fin 8) (s : Block) : (clearPlayback p s).port.faults = s.port.faults := by simp [clearPlayback]
@[simp] theorem clearPlaybacks_faults (s : Block) : (clearPlaybacks s).port.faults = s.port.faults := by simp [clearPlaybacks, foldl_keeps (fun b : Block => b.port.faults)]
@[simp] theorem loadCompleted_faults (p : Fin 8) (bank : Nat) (h : CueHeader) (s : Block) : (loadCompleted p bank h s).port.faults = s.port.faults := by simp [loadCompleted]
@[simp] theorem loadEnded_faults (p : Fin 8) (code : ResultCode) (s : Block) : (loadEnded p code s).port.faults = s.port.faults := by simp [loadEnded]
@[simp] theorem freeLoad_faults (p : Fin 8) (s : Block) : (freeLoad p s).port.faults = s.port.faults := by simp [freeLoad]
theorem endJob_faults (report : Block → Block) (s : Block) (h : ∀ t, (report t).port.faults = t.port.faults) : (endJob report s).port.faults = s.port.faults := by simp [endJob, h]
@[simp] theorem endUnfinished_faults (c : CurrentLoad) (code : ResultCode) (s : Block) : (endUnfinished c code s).port.faults = s.port.faults := endJob_faults _ s (fun _ => by simp)
@[simp] theorem enterUnlock_faults (c : CurrentLoad) (s : Block) : (enterUnlock c s).port.faults = s.port.faults := by simp [enterUnlock]
@[simp] theorem failLoad_faults (c : CurrentLoad) (code : ResultCode) (s : Block) : (failLoad c code s).port.faults = s.port.faults := by unfold failLoad; split <;> simp
@[simp] theorem readBank_faults (c : CurrentLoad) (stage : LoadStage) (k words : Nat) (s : Block) : (readBank c stage k words s).port.faults = s.port.faults := by simp [readBank]
@[simp] theorem putBack_faults (c : CurrentLoad) (s : Block) : (putBack c s).port.faults = s.port.faults := by simp [putBack]
@[simp] theorem lockDone_faults (c : CurrentLoad) (value : Word) (s : Block) : (lockDone c value s).port.faults = s.port.faults := by
  unfold lockDone
  repeat' split
  all_goals simp
@[simp] theorem countRead_faults (c : CurrentLoad) (n : Nat) (s : Block) : (countRead c n s).port.faults = s.port.faults := by
  unfold countRead
  repeat' split
  all_goals simp
@[simp] theorem directoryRead_faults (c : CurrentLoad) (count position : Nat) (words : List Word) (s : Block) : (directoryRead c count position words s).port.faults = s.port.faults := by
  unfold directoryRead
  dsimp only
  repeat' split
  all_goals simp
@[simp] theorem headerRead_faults (c : CurrentLoad) (number offset : Nat) (words : List Word) (s : Block) : (headerRead c number offset words s).port.faults = s.port.faults := by
  unfold headerRead
  repeat' split
  all_goals simp
@[simp] theorem entriesRead_faults (c : CurrentLoad) (offset position : Nat) (words : List Word) (s : Block) : (entriesRead c offset position words s).port.faults = s.port.faults := by
  unfold entriesRead
  dsimp only
  repeat' split
  all_goals simp
@[simp] theorem unlockDone_faults (c : CurrentLoad) (s : Block) : (unlockDone c s).port.faults = s.port.faults := by
  unfold unlockDone
  split
  · rw [endJob_faults _ _ (fun _ => by simp)]; simp
  · simp
@[simp] theorem loaderDone_faults (words : List Word) (s : Block) : (loaderDone words s).port.faults = s.port.faults := by
  unfold loaderDone
  repeat' split
  all_goals simp
@[simp] theorem loaderFault_faults (read : Bool) (s : Block) : (loaderFault read s).port.faults = s.port.faults := by
  unfold loaderFault
  repeat' split
  all_goals simp
@[simp] theorem haltJobs_faults (jobs : List LoadJob) (s : Block) : (haltJobs jobs s).port.faults = s.port.faults := by simp [haltJobs, foldl_keeps (fun b : Block => b.port.faults)]
@[simp] theorem haltCurrent_faults (s : Block) : (haltCurrent s).port.faults = s.port.faults := by
  unfold haltCurrent
  repeat' split
  all_goals simp
@[simp] theorem loaderHalt_faults (s : Block) : (loaderHalt s).port.faults = s.port.faults := by simp [loaderHalt]
@[simp] theorem loaderBoundary_faults (s : Block) : (loaderBoundary s).port.faults = s.port.faults := by simp [loaderBoundary]
@[simp] theorem endShadow_faults (x : Shadow) (code : ResultCode) (s : Block) : (endShadow x code s).port.faults = s.port.faults := by unfold endShadow; split <;> simp
@[simp] theorem endStaging_faults (x : Staging) (code : ResultCode) (s : Block) : (endStaging x code s).port.faults = s.port.faults := by unfold endStaging; split <;> simp
@[simp] theorem beginTable_faults (j : TableJob) (s : Block) : (beginTable j s).port.faults = s.port.faults := by unfold beginTable; split <;> simp
@[simp] theorem takeTableJob_faults (s : Block) : (takeTableJob s).port.faults = s.port.faults := by
  unfold takeTableJob
  repeat' split
  all_goals simp
@[simp] theorem submitTable_faults (slot : Fin 32) (j : TableJob) (s : Block) : (submitTable slot j s).port.faults = s.port.faults := by unfold submitTable; split <;> simp
@[simp] theorem arrivePatch_faults (slot : Fin 32) (address count : Word) (s : Block) : (arrivePatch slot address count s).port.faults = s.port.faults := by unfold arrivePatch; split <;> simp
@[simp] theorem arriveCurve_faults (slot : Fin 32) (curve address : Word) (s : Block) : (arriveCurve slot curve address s).port.faults = s.port.faults := by unfold arriveCurve; split <;> simp
@[simp] theorem readerIdle_faults (s : Block) : (readerIdle s).port.faults = s.port.faults := by simp [readerIdle]
@[simp] theorem emptyFilling_faults (j : TableJob) (s : Block) : (emptyFilling j s).port.faults = s.port.faults := by unfold emptyFilling; split <;> simp
@[simp] theorem failTable_faults (j : TableJob) (code : ResultCode) (v1 v2 : Word) (s : Block) : (failTable j code v1 v2 s).port.faults = s.port.faults := by simp [failTable]
@[simp] theorem validatePatch_faults (slot : Fin 32) (j : TableJob) (words : List Word) (s : Block) : (validatePatch slot j words s).port.faults = s.port.faults := by
  unfold validatePatch
  dsimp only
  repeat' split
  all_goals simp
@[simp] theorem patchRead_faults (j : TableJob) (slot : Fin 32) (address : Word) (count : Nat) (words : List Word) (s : Block) : (patchRead j slot address count words s).port.faults = s.port.faults := by
  unfold patchRead
  dsimp only
  repeat' split
  all_goals simp
@[simp] theorem curveRead_faults (j : TableJob) (slot : Fin 32) (k : Fin 7) (address : Word) (words : List Word) (s : Block) : (curveRead j slot k address words s).port.faults = s.port.faults := by
  unfold curveRead
  dsimp only
  repeat' split
  all_goals simp
@[simp] theorem tablesDone_faults (words : List Word) (s : Block) : (tablesDone words s).port.faults = s.port.faults := by
  unfold tablesDone
  repeat' split
  all_goals simp
@[simp] theorem tablesFault_faults (s : Block) : (tablesFault s).port.faults = s.port.faults := by unfold tablesFault; split <;> simp
@[simp] theorem endTables_faults (code : ResultCode) (s : Block) : (endTables code s).port.faults = s.port.faults := by simp [endTables, foldl_keeps (fun b : Block => b.port.faults)]
@[simp] theorem tablesStop_faults (s : Block) : (tablesStop s).port.faults = s.port.faults := by simp [tablesStop]
@[simp] theorem tablesHalt_faults (s : Block) : (tablesHalt s).port.faults = s.port.faults := by unfold tablesHalt; split <;> simp
@[simp] theorem installPatch_faults (s : Block) : (installPatch s).port.faults = s.port.faults := by unfold installPatch; split <;> simp
@[simp] theorem installCurve_faults (k : Fin 7) (s : Block) : (installCurve k s).port.faults = s.port.faults := by unfold installCurve; split <;> simp
@[simp] theorem installTables_faults (s : Block) : (installTables s).port.faults = s.port.faults := by simp [installTables, foldl_keeps (fun b : Block => b.port.faults)]
@[simp] theorem periodEnds_faults (s : Block) : (periodEnds s).port.faults = s.port.faults := by simp [periodEnds]
@[simp] theorem arriveSetOutputs_faults (slot : Fin 32) (clock modes inverts : Word) (s : Block) : (arriveSetOutputs slot clock modes inverts s).port.faults = s.port.faults := by unfold arriveSetOutputs; split <;> simp
@[simp] theorem askStatus_faults (s : Block) : (askStatus s).port.faults = s.port.faults := by unfold askStatus; split <;> simp
@[simp] theorem joinStatus_faults (j : StatusJob) (s : Block) : (joinStatus j s).port.faults = s.port.faults := by unfold joinStatus; split <;> simp
@[simp] theorem leaveStatus_faults (s : Block) : (leaveStatus s).port.faults = s.port.faults := by simp [leaveStatus]
@[simp] theorem beginPage_faults (s : Block) : (beginPage s).port.faults = s.port.faults := by simp [beginPage]
@[simp] theorem statusDue_faults (s : Block) : (statusDue s).port.faults = s.port.faults := by
  unfold statusDue
  repeat' split
  all_goals simp
@[simp] theorem endPage_faults (s : Block) : (endPage s).port.faults = s.port.faults := by simp [endPage]
@[simp] theorem endSnapshot_faults (code : ResultCode) (s : Block) : (endSnapshot code s).port.faults = s.port.faults := by unfold endSnapshot; split <;> simp
@[simp] theorem statusDone_faults (s : Block) : (statusDone s).port.faults = s.port.faults := by
  unfold statusDone
  repeat' split
  all_goals simp
@[simp] theorem statusFault_faults (s : Block) : (statusFault s).port.faults = s.port.faults := by unfold statusFault; split <;> simp
@[simp] theorem statusHalt_faults (s : Block) : (statusHalt s).port.faults = s.port.faults := by unfold statusHalt; split <;> simp
@[simp] theorem statusStop_faults (s : Block) : (statusStop s).port.faults = s.port.faults := by unfold statusStop; split <;> simp
@[simp] theorem countStatus_faults (installed : Bool) (s : Block) : (countStatus installed s).port.faults = s.port.faults := by
  unfold countStatus
  dsimp only
  split <;> simp
@[simp] theorem arriveSnapshot_faults (slot : Fin 32) (address : Word) (s : Block) : (arriveSnapshot slot address s).port.faults = s.port.faults := by unfold arriveSnapshot; split <;> simp
@[simp] theorem copySnapshot_faults (s : Block) : (copySnapshot s).port.faults = s.port.faults := by unfold copySnapshot; split <;> simp
@[simp] theorem swap_faults (s : Block) : (swap s).port.faults = s.port.faults := by simp [swap]
@[simp] theorem passStarts_faults (s : Block) : (passStarts s).port.faults = s.port.faults := by simp [passStarts]
@[simp] theorem mixerBoundary_faults (s : Block) : (mixerBoundary s).port.faults = s.port.faults := by
  unfold mixerBoundary
  repeat' split
  all_goals simp
@[simp] theorem passEnds_faults (latch : PassLatch) (s : Block) : (passEnds latch s).port.faults = s.port.faults := by simp [passEnds]
@[simp] theorem arriveSetGrand_faults (slot : Fin 32) (level time : Word) (s : Block) : (arriveSetGrand slot level time s).port.faults = s.port.faults := by unfold arriveSetGrand; split <;> simp
@[simp] theorem arriveBlackout_faults (slot : Fin 32) (action : Word) (s : Block) : (arriveBlackout slot action s).port.faults = s.port.faults := by
  unfold arriveBlackout
  dsimp only
  split <;> simp
@[simp] theorem toggleBlackout_faults (s : Block) : (toggleBlackout s).port.faults = s.port.faults := by simp [toggleBlackout]
@[simp] theorem grandSettles_faults (s : Block) : (grandSettles s).port.faults = s.port.faults := by simp [grandSettles]
@[simp] theorem placeLine_faults (l : Fin 4) (slot : Fin 32) (c : LineConfig) (s : Block) : (placeLine l slot c s).port.faults = s.port.faults := by unfold placeLine; split <;> simp
@[simp] theorem arriveSetLine_faults (l : Fin 4) (slot : Fin 32) (mode rate count talkback base timeout action : Word) (s : Block) : (arriveSetLine l slot mode rate count talkback base timeout action s).port.faults = s.port.faults := by
  unfold arriveSetLine
  repeat' split
  all_goals simp
@[simp] theorem endQueries_faults (code : ResultCode) (qs : List Query) (s : Block) : (endQueries code qs s).port.faults = s.port.faults := by simp [endQueries, foldl_keeps (fun b : Block => b.port.faults)]
@[simp] theorem installLine_faults (l : Fin 4) (s : Block) : (installLine l s).port.faults = s.port.faults := by
  unfold installLine
  dsimp only
  repeat' split
  all_goals simp
@[simp] theorem startFrame_faults (l : Fin 4) (s : Block) : (startFrame l s).port.faults = s.port.faults := by unfold startFrame; split <;> simp
@[simp] theorem lineBoundary_faults (l : Fin 4) (s : Block) : (lineBoundary l s).port.faults = s.port.faults := by simp [lineBoundary]
@[simp] theorem commit_faults (l : Fin 4) (s : Block) : (commit l s).port.faults = s.port.faults := by
  unfold commit
  dsimp only
  repeat' split
  all_goals simp
@[simp] theorem mixCompletes_faults (latch : PassLatch) (s : Block) : (mixCompletes latch s).port.faults = s.port.faults := by simp [mixCompletes, foldl_keeps (fun b : Block => b.port.faults)]
@[simp] theorem signalExpires_faults (l : Fin 4) (s : Block) : (signalExpires l s).port.faults = s.port.faults := by unfold signalExpires; split <;> simp
@[simp] theorem receiveCharacter_faults (l : Fin 4) (flag : Bool) (data : Byte) (s : Block) : (receiveCharacter l flag data s).port.faults = s.port.faults := by
  unfold receiveCharacter
  dsimp only
  split <;> simp
@[simp] theorem receiving_faults (l : Fin 4) (f : Line → Line) (s : Block) : (receiving l f s).port.faults = s.port.faults := by unfold receiving; split <;> simp
@[simp] theorem arriveClearLine_faults (l : Fin 4) (slot : Fin 32) (s : Block) : (arriveClearLine l slot s).port.faults = s.port.faults := by simp [arriveClearLine]
@[simp] theorem dropPendingLine_faults (l : Fin 4) (s : Block) : (dropPendingLine l s).port.faults = s.port.faults := by unfold dropPendingLine; split <;> simp
@[simp] theorem dropPendingLines_faults (s : Block) : (dropPendingLines s).port.faults = s.port.faults := by simp [dropPendingLines, foldl_keeps (fun b : Block => b.port.faults)]
@[simp] theorem arriveQuery_faults (l : Fin 4) (slot : Fin 32) (address code count bytes0 bytes4 reply : Word) (s : Block) : (arriveQuery l slot address code count bytes0 bytes4 reply s).port.faults = s.port.faults := by
  unfold arriveQuery
  dsimp only
  repeat' split
  all_goals simp
@[simp] theorem endQuery_faults (l : Fin 4) (code : ResultCode) (v1 v2 : Word) (s : Block) : (endQuery l code v1 v2 s).port.faults = s.port.faults := by
  unfold endQuery
  repeat' split
  all_goals simp
@[simp] theorem queryFrameEnded_faults (l : Fin 4) (s : Block) : (queryFrameEnded l s).port.faults = s.port.faults := by
  unfold queryFrameEnded
  repeat' split
  all_goals simp
@[simp] theorem askTalkback_faults (s : Block) : (askTalkback s).port.faults = s.port.faults := by
  unfold askTalkback
  repeat' split
  all_goals simp
@[simp] theorem placeReply_faults (l : Fin 4) (r : Reply) (s : Block) : (placeReply l r s).port.faults = s.port.faults := by unfold placeReply; split <;> simp
@[simp] theorem replyWhole_faults (l : Fin 4) (f : InFlight) (s : Block) : (replyWhole l f s).port.faults = s.port.faults := by unfold replyWhole; split <;> simp
@[simp] theorem failReply_faults (l : Fin 4) (f : InFlight) (code : ResultCode) (reason : Nat) (s : Block) : (failReply l f code reason s).port.faults = s.port.faults := by simp [failReply]
@[simp] theorem replyCharacter_faults (l : Fin 4) (f : InFlight) (flag : Bool) (data : Byte) (s : Block) : (replyCharacter l f flag data s).port.faults = s.port.faults := by unfold replyCharacter; split <;> simp
@[simp] theorem countStray_faults (l : Fin 4) (s : Block) : (countStray l s).port.faults = s.port.faults := by simp [countStray]
@[simp] theorem talkbackCharacter_faults (l : Fin 4) (flag : Bool) (data : Byte) (s : Block) : (talkbackCharacter l flag data s).port.faults = s.port.faults := by
  unfold talkbackCharacter
  dsimp only
  repeat' split
  all_goals simp
@[simp] theorem replyStarts_faults (l : Fin 4) (s : Block) : (replyStarts l s).port.faults = s.port.faults := by unfold replyStarts; split <;> simp
@[simp] theorem replyTimesOut_faults (l : Fin 4) (s : Block) : (replyTimesOut l s).port.faults = s.port.faults := by unfold replyTimesOut; split <;> simp
@[simp] theorem replyCollides_faults (l : Fin 4) (kind : CollisionKind) (s : Block) : (replyCollides l kind s).port.faults = s.port.faults := by unfold replyCollides; split <;> simp
@[simp] theorem replyGap_faults (l : Fin 4) (s : Block) : (replyGap l s).port.faults = s.port.faults := by
  unfold replyGap
  repeat' split
  all_goals simp
@[simp] theorem windowEnds_faults (l : Fin 4) (s : Block) : (windowEnds l s).port.faults = s.port.faults := by unfold windowEnds; split <;> simp
@[simp] theorem endReply_faults (code : ResultCode) (s : Block) : (endReply code s).port.faults = s.port.faults := by
  unfold endReply
  repeat' split
  all_goals simp
@[simp] theorem stopQueries_faults (l : Fin 4) (s : Block) : (stopQueries l s).port.faults = s.port.faults := by simp [stopQueries]
@[simp] theorem haltQueries_faults (l : Fin 4) (s : Block) : (haltQueries l s).port.faults = s.port.faults := by
  unfold haltQueries
  dsimp only
  split <;> simp
@[simp] theorem talkbackStop_faults (s : Block) : (talkbackStop s).port.faults = s.port.faults := by simp [talkbackStop, foldl_keeps (fun b : Block => b.port.faults)]
@[simp] theorem forgetQueries_faults (s : Block) : (forgetQueries s).port.faults = s.port.faults := rfl

@[simp] theorem talkbackHalt_faults (s : Block) : (talkbackHalt s).port.faults = s.port.faults := by simp [talkbackHalt, foldl_keeps (fun b : Block => b.port.faults)]
@[simp] theorem performAction_faults (t : Fin 8) (r : TriggerRecord) (s : Block) : (performAction t r s).port.faults = s.port.faults := by unfold performAction; split <;> simp
@[simp] theorem examineEdge_faults (t : Fin 8) (level : Bool) (s : Block) : (examineEdge t level s).port.faults = s.port.faults := by
  unfold examineEdge
  dsimp only
  repeat' split
  all_goals simp
@[simp] theorem settle_faults (t : Fin 8) (level : Bool) (s : Block) : (settle t level s).port.faults = s.port.faults := by simp [settle]
@[simp] theorem pinChanges_faults (t : Fin 8) (level : Bool) (s : Block) : (pinChanges t level s).port.faults = s.port.faults := by
  unfold pinChanges
  dsimp only
  repeat' split
  all_goals simp
@[simp] theorem debounceEnds_faults (t : Fin 8) (s : Block) : (debounceEnds t s).port.faults = s.port.faults := by simp [debounceEnds]
@[simp] theorem arriveSetTrigger_faults (t : Fin 8) (slot : Fin 32) (edge debounce action playback bank cue time : Word) (s : Block) : (arriveSetTrigger t slot edge debounce action playback bank cue time s).port.faults = s.port.faults := by unfold arriveSetTrigger; split <;> simp
@[simp] theorem tick_faults (s : Block) : (tick s).port.faults = s.port.faults := by simp [tick]
@[simp] theorem placeFrame_faults (slot : Fin 32) (v : FrameValues) (s : Block) : (placeFrame slot v s).port.faults = s.port.faults := by unfold placeFrame; split <;> simp
@[simp] theorem arriveSetFrame_faults (slot : Fin 32) (period scan status : Word) (s : Block) : (arriveSetFrame slot period scan status s).port.faults = s.port.faults := by
  unfold arriveSetFrame
  repeat' split
  all_goals simp
@[simp] theorem installFrame_faults (s : Block) : (installFrame s).port.faults = s.port.faults := by unfold installFrame; split <;> simp
@[simp] theorem dropPendingFrame_faults (s : Block) : (dropPendingFrame s).port.faults = s.port.faults := by unfold dropPendingFrame; split <;> simp
@[simp] theorem frameExpires_faults (s : Block) : (frameExpires s).port.faults = s.port.faults := by simp [frameExpires]
theorem withTarget_faults (n : Nat) (slot : Fin 32) (w : Word) (f : Fin n → Block → Block) (s : Block) (h : ∀ x t, (f x t).port.faults = t.port.faults) : (withTarget n slot w f s).port.faults = s.port.faults := by unfold withTarget; split <;> simp [h]
@[simp] theorem dispatchSetLine_faults (slot : Fin 32) (line mode rate count talkback base timeout action : Word) (s : Block) : (dispatchSetLine slot line mode rate count talkback base timeout action s).port.faults = s.port.faults := withTarget_faults _ _ _ _ s (fun _ _ => by simp)
@[simp] theorem dispatchSetTrigger_faults (slot : Fin 32) (trigger edge debounce action playback bank cue time : Word) (s : Block) : (dispatchSetTrigger slot trigger edge debounce action playback bank cue time s).port.faults = s.port.faults := withTarget_faults _ _ _ _ s (fun _ _ => by simp)
@[simp] theorem dispatchClearLine_faults (slot : Fin 32) (line : Word) (s : Block) : (dispatchClearLine slot line s).port.faults = s.port.faults := withTarget_faults _ _ _ _ s (fun _ _ => by simp)
@[simp] theorem dispatchQuery_faults (slot : Fin 32) (line address code count bytes0 bytes4 reply : Word) (s : Block) : (dispatchQuery slot line address code count bytes0 bytes4 reply s).port.faults = s.port.faults := withTarget_faults _ _ _ _ s (fun _ _ => by simp)
@[simp] theorem dispatchGo_faults (slot : Fin 32) (playback bank cue time : Word) (s : Block) : (dispatchGo slot playback bank cue time s).port.faults = s.port.faults := withTarget_faults _ _ _ _ s (fun _ _ => by simp)
@[simp] theorem dispatchGoNext_faults (slot : Fin 32) (playback bank : Word) (s : Block) : (dispatchGoNext slot playback bank s).port.faults = s.port.faults := withTarget_faults _ _ _ _ s (fun _ _ => by simp)
@[simp] theorem dispatchPause_faults (slot : Fin 32) (playback : Word) (s : Block) : (dispatchPause slot playback s).port.faults = s.port.faults := withTarget_faults _ _ _ _ s (fun _ _ => by simp)
@[simp] theorem dispatchResume_faults (slot : Fin 32) (playback : Word) (s : Block) : (dispatchResume slot playback s).port.faults = s.port.faults := withTarget_faults _ _ _ _ s (fun _ _ => by simp)
@[simp] theorem dispatchRelease_faults (slot : Fin 32) (playback time : Word) (s : Block) : (dispatchRelease slot playback time s).port.faults = s.port.faults := withTarget_faults _ _ _ _ s (fun _ _ => by simp)
@[simp] theorem dispatchSetMaster_faults (slot : Fin 32) (playback level time : Word) (s : Block) : (dispatchSetMaster slot playback level time s).port.faults = s.port.faults := withTarget_faults _ _ _ _ s (fun _ _ => by simp)
@[simp] theorem dispatch_faults (slot : Fin 32) (words : List Word) (s : Block) : (dispatch slot words s).port.faults = s.port.faults := by unfold dispatch; split <;> simp
@[simp] theorem startScan_faults (s : Block) : (startScan s).port.faults = s.port.faults := by simp [startScan]
@[simp] theorem scanDue_faults (s : Block) : (scanDue s).port.faults = s.port.faults := by unfold scanDue; split <;> simp
@[simp] theorem endScan_faults (s : Block) : (endScan s).port.faults = s.port.faults := by unfold endScan; split <;> simp
@[simp] theorem visit_faults (taken : Nat) (s : Block) (xs : List (Fin 32)) : (visit taken s xs).port.faults = s.port.faults := by
  induction xs with
  | nil => simp [visit]
  | cons i rest ih =>
    rw [visit]
    split
    · simp
    · split
      · exact ih
      · split <;> simp
@[simp] theorem rowRead_faults (row words : List Word) (s : Block) : (rowRead row words s).port.faults = s.port.faults := by
  unfold rowRead
  dsimp only
  split <;> simp
@[simp] theorem claimDone_faults (i : Fin 32) (rest : List (Fin 32)) (taken : Nat) (value : Word) (s : Block) : (claimDone i rest taken value s).port.faults = s.port.faults := by
  unfold claimDone
  repeat' split
  all_goals simp
@[simp] theorem bodyDone_faults (i : Fin 32) (rest : List (Fin 32)) (taken : Nat) (words : List Word) (s : Block) : (bodyDone i rest taken words s).port.faults = s.port.faults := by unfold bodyDone; split <;> simp
@[simp] theorem scannerDone_faults (words : List Word) (s : Block) : (scannerDone words s).port.faults = s.port.faults := by unfold scannerDone; split <;> simp
@[simp] theorem scannerFault_faults (s : Block) : (scannerFault s).port.faults = s.port.faults := by unfold scannerFault; split <;> simp
@[simp] theorem scannerHalt_faults (s : Block) : (scannerHalt s).port.faults = s.port.faults := by unfold scannerHalt; split <;> simp
@[simp] theorem countScan_faults (installed : Bool) (s : Block) : (countScan installed s).port.faults = s.port.faults := by
  unfold countScan
  dsimp only
  split <;> simp
@[simp] theorem resultsDone_faults (s : Block) : (resultsDone s).port.faults = s.port.faults := by unfold resultsDone; split <;> simp
@[simp] theorem resultsFault_faults (s : Block) : (resultsFault s).port.faults = s.port.faults := rfl
@[simp] theorem resultsBoundary_faults (s : Block) : (resultsBoundary s).port.faults = s.port.faults := by unfold resultsBoundary; split <;> simp
@[simp] theorem resultsHalt_faults (s : Block) : (resultsHalt s).port.faults = s.port.faults := rfl
@[simp] theorem enterStarting_faults (s : Block) : (enterStarting s).port.faults = s.port.faults := by simp [enterStarting]
@[simp] theorem startIfSet_faults (s : Block) : (startIfSet s).port.faults = s.port.faults := by unfold startIfSet; split <;> simp
@[simp] theorem enterStopped_faults (s : Block) : (enterStopped s).port.faults = s.port.faults := by simp [enterStopped]
@[simp] theorem anchorBad_faults (s : Block) : (anchorBad s).port.faults = s.port.faults := rfl
@[simp] theorem enterRunning_faults (s : Block) : (enterRunning s).port.faults = s.port.faults := rfl
@[simp] theorem sweepFrom_faults (bank : Nat) (s : Block) : (sweepFrom bank s).port.faults = s.port.faults := by unfold sweepFrom; split <;> simp
@[simp] theorem anchorRead_faults (before words : List Word) (s : Block) : (anchorRead before words s).port.faults = s.port.faults := by
  unfold anchorRead
  dsimp only
  repeat' split
  all_goals simp
@[simp] theorem startDone_faults (words : List Word) (s : Block) : (startDone words s).port.faults = s.port.faults := by
  unfold startDone
  repeat' split
  all_goals simp
@[simp] theorem startFault_faults (s : Block) : (startFault s).port.faults = s.port.faults := by unfold startFault; split <;> simp
@[simp] theorem reach_faults (p : Port) (n : Nat) (m : Memory) : (p.reach n m).faults = p.faults := by unfold Port.reach; split <;> rfl
@[simp] theorem abortStart_faults (done : Nat) (s : Block) : (abortStart done s).port.faults = s.port.faults := by
  unfold abortStart
  repeat' split
  all_goals simp
@[simp] theorem enterStopping_faults (s : Block) : (enterStopping s).port.faults = s.port.faults := by simp [enterStopping]
@[simp] theorem enterHalted_faults (s : Block) : (enterHalted s).port.faults = s.port.faults := by simp [enterHalted]
@[simp] theorem leaveHalted_faults (s : Block) : (leaveHalted s).port.faults = s.port.faults := by simp [leaveHalted]
@[simp] theorem writeControl_faults (v : Word) (done : Nat) (s : Block) : (writeControl v done s).port.faults = s.port.faults := by unfold writeControl; split <;> simp
@[simp] theorem beginCounting_faults (s : Block) : (beginCounting s).port.faults = s.port.faults := by simp [beginCounting]
@[simp] theorem releaseReset_faults (s : Block) : (releaseReset s).port.faults = s.port.faults := by unfold releaseReset; split <;> simp
@[simp] theorem clockLocks_faults (s : Block) : (clockLocks s).port.faults = s.port.faults := by unfold clockLocks; split <;> simp
@[simp] theorem clientDone_faults (c : Client) (words : List Word) (s : Block) : (clientDone c words s).port.faults = s.port.faults := by
  unfold clientDone
  repeat' split
  all_goals simp
@[simp] theorem clientFault_faults (c : Client) (words : List Word) (s : Block) : (clientFault c words s).port.faults = s.port.faults := by
  unfold clientFault
  repeat' split
  all_goals simp
@[simp] theorem takeBoundary_faults (installed : Bool) (b : BoundaryTaker) (s : Block) : (takeBoundary installed b s).port.faults = s.port.faults := by unfold takeBoundary; split <;> simp
@[simp] theorem frameBoundary_faults (order : List BoundaryTaker) (s : Block) : (frameBoundary order s).port.faults = s.port.faults := by simp [frameBoundary, foldl_keeps (fun b : Block => b.port.faults)]
@[simp] theorem endPass_faults (s : Block) : (endPass s).port.faults = s.port.faults := by unfold endPass; split <;> simp
@[simp] theorem masterSettles_faults (p : Fin 8) (s : Block) : (masterSettles p s).port.faults = s.port.faults := by simp [masterSettles]
@[simp] theorem movePin_faults (t : Fin 8) (level : Bool) (s : Block) : (movePin t level s).port.faults = s.port.faults := rfl
theorem receiverEvent_faults (l : Fin 4) (frame : Line → Line) (reply : Block → Block) (s : Block) (h : ∀ t, (reply t).port.faults = t.port.faults) : (receiverEvent l frame reply s).port.faults = s.port.faults := by
  unfold receiverEvent
  dsimp only
  repeat' split
  all_goals simp [h]

end Sys2Proof.Machine
end

