-- ==== Sys2Proof/Laws/Lines.lean ====
section
/-! SUPPORT. What the frames of a line are: their characters and their length in bit times, and how far a tenure has come. -/

namespace Sys2Proof.Machine

/-! ### The progress of a tenure (R182, R183) -/

@[simp] theorem reach_client (t : Tenure) (n : Nat) (m : Memory) : (t.reach n m).client = t.client := rfl
@[simp] theorem reach_kind (t : Tenure) (n : Nat) (m : Memory) : (t.reach n m).kind = t.kind := rfl
@[simp] theorem reach_done (t : Tenure) (n : Nat) (m : Memory) : (t.reach n m).done = min n (tenureLength t.kind m) := rfl

theorem reach_value_of_modify {t : Tenure} {a expect put : Word} (n : Nat) (m : Memory) (h : t.kind = .modify a expect put) :
    (t.reach n m).value = if n = 0 then none else some (m.load (wordAddress a)) := by
  have pos : tenureLength t.kind m ≠ 0 := by unfold tenureLength; rw [h]; dsimp only; split <;> decide
  have zero : min n (tenureLength t.kind m) = 0 ↔ n = 0 := by omega
  simp only [Tenure.reach, h] at zero ⊢
  simp only [zero]

@[simp] theorem underWay_client (t : Tenure) (n : Nat) (m : Memory) : (t.underWay n m).client = t.client := rfl
@[simp] theorem underWay_kind (t : Tenure) (n : Nat) (m : Memory) : (t.underWay n m).kind = t.kind := rfl

/-- A tenure under way has at least one word to go. -/
theorem underWay_done (t : Tenure) (n : Nat) (m : Memory) :
    (t.underWay n m).done = min n (tenureLength t.kind m - 1) := by simp only [Tenure.underWay, reach_done]; omega

/-- At the end of an aborted tenure at most one word more is done than at the abort, and none less (R187). -/
theorem lastWord_bounds (t : Tenure) (n : Nat) : t.done ≤ t.lastWord n ∧ t.lastWord n ≤ t.done + 1 := by
  unfold Tenure.lastWord; omega

theorem lastWord_of_range {t : Tenure} {n : Nat} (lo : t.done ≤ n) (hi : n ≤ t.done + 1) : t.lastWord n = n := by
  unfold Tenure.lastWord; omega

/-- An aborted read-modify-write whose read was in progress makes no write (R187). -/
theorem performWords_lastWord_of_read {t : Tenure} {a expect put : Word} (n : Nat) (m : Memory) (h : t.kind = .modify a expect put)
    (read : t.done = 0) : performWords t.kind (t.lastWord n) m = m := by
  have : ¬2 ≤ t.lastWord n := by have := lastWord_bounds t n; omega
  simp [h, performWords, this]

theorem tenureAt_requesting (n : Nat) (s : Block) (h : s.port.state ≠ .transferring) : tenureAt n s = s.port.current := by
  simp [tenureAt, Port.reach, h]

theorem tenureAt_transferring (n : Nat) (s : Block) (h : s.port.state = .transferring) :
    tenureAt n s = s.port.current.map fun t => t.underWay n s.mem := by simp [tenureAt, Port.reach, h]

/-! ### Characters and frames (R113, R114, R147) -/

@[simp] theorem characterLevel_start (c : Character) : characterLevel c 0 = false := rfl
@[simp] theorem characterLevel_flag (c : Character) : characterLevel c 9 = c.1 := rfl
@[simp] theorem characterLevel_stop (c : Character) : characterLevel c 10 = true := rfl

theorem characterLevel_data (c : Character) (k : Fin 8) : characterLevel c (k.val + 1) = c.2.getLsbD k.val := by
  unfold characterLevel; rw [if_neg (by omega), if_pos (by omega), Nat.add_sub_cancel]

theorem frameOf_length (header : Byte) (body : List Byte) : (frameOf header body).length = body.length + 2 := by simp [frameOf]

/-- Only the header of a frame is flagged. -/
theorem frameOf_flags (header : Byte) (body : List Byte) :
    (frameOf header body).map Prod.fst = true :: List.replicate (body.length + 1) false := by
  simp [frameOf, Function.comp_def, List.map_const', List.replicate_succ']

/-- The data values of a frame, its check last, sum to a multiple of 256. -/
theorem frameOf_sum (header : Byte) (body : List Byte) :
    ((frameOf header body).map fun c => c.2.toNat).sum % 256 = 0 := by
  have check : (checkByte (header :: body)).toNat = (256 - (header.toNat + (body.map BitVec.toNat).sum) % 256) % 256 := by
    simp [checkByte]
  have values : ((frameOf header body).map fun c => c.2.toNat).sum
      = header.toNat + ((body.map BitVec.toNat).sum + (checkByte (header :: body)).toNat) := by
    simp [frameOf, Function.comp_def]
  omega

theorem lineFrame_length (s : Block) (l : Fin 4) :
    (lineFrame s l).length = (lineOf s l).config.slots + 3 := by
  simp [lineFrame, levelFrame, frameOf_length, sentSlots]

/-- The bit times of a line's level frame and its query window are the bit count that its line time is made of (R106). -/
theorem frameBits_lineFrame (s : Block) (l : Fin 4) :
    frameBits (lineFrame s l) + (if (lineOf s l).config.talkback then Config.queryWindow else 0) = bitCount (lineOf s l).config := by
  simp only [frameBits, lineFrame_length s l, bitCount, breakBits, markBits, characterBits]

/-! ### Leaving HALTED (R156) -/

@[simp] theorem forgetQueries_lineOf (s : Block) (l : Fin 4) : lineOf (forgetQueries s) l = { lineOf s l with inFlight := none } := by
  simp [forgetQueries, lineOf]

end Sys2Proof.Machine
end

