-- ==== Sys2Proof/Laws/Loads.lean ====
section
/-! SUPPORT. Loads and queues: a playback serves its queue until it is empty or a load is under way, and each load state has its job in the
cue loader (R2, R7, R46 to R48). -/

namespace Sys2Proof.Machine

/-! ### What serving leaves of the queue (R7) -/

/-- What an operation of playback `p` alone does: the loader, the engine state and the other playbacks stay, and so does its load state. -/
structure Alone (p : Fin 8) (s t : Block) : Prop where
  loader : t.loader = s.loader
  engine : t.engine = s.engine
  others : ∀ q, q ≠ p → playbackOf t q = playbackOf s q
  load : (playbackOf t p).load = (playbackOf s p).load

theorem Alone.refl (p : Fin 8) (s : Block) : Alone p s s := ⟨rfl, rfl, fun _ _ => rfl, rfl⟩

theorem Alone.trans {p : Fin 8} {s t u : Block} (h : Alone p s t) (k : Alone p t u) : Alone p s u :=
  ⟨k.loader.trans h.loader, k.engine.trans h.engine, fun q hq => (k.others q hq).trans (h.others q hq), k.load.trans h.load⟩

theorem alone_setPlayback {p : Fin 8} {x : Playback} {s : Block} (h : x.load = (playbackOf s p).load) : Alone p s (setPlayback p x s) :=
  ⟨rfl, rfl, fun q hq => playbackOf_setPlayback_ne p q x s hq, by simpa using h⟩

theorem alone_edit (p : Fin 8) (freed : Nat) (s : Block) : Alone p s (edit p freed s) := by
  rw [edit_eq]
  exact ⟨rfl, rfl, fun _ _ => rfl, rfl⟩

theorem alone_modPlayback {p : Fin 8} {f : Playback → Playback} {s : Block} (h : (f (playbackOf s p)).load = (playbackOf s p).load) :
    Alone p s (modPlayback p f s) := alone_setPlayback h

/-- A playback replaced, its load state kept, and the edit of it. -/
theorem alone_edited {p : Fin 8} {x : Playback} {s : Block} {freed : Nat} (h : x.load = (playbackOf s p).load) :
    Alone p s (edit p freed (setPlayback p x s)) := (alone_setPlayback h).trans (alone_edit p freed _)

theorem alone_completeOrigin (p : Fin 8) (o : Origin) (code : ResultCode) (v1 v2 : Word) (s : Block) :
    Alone p s (completeOrigin o code v1 v2 s) := ⟨by simp, by simp, fun q _ => by simp, by simp⟩

theorem alone_raiseInt (p : Fin 8) (src : IntSource) (s : Block) : Alone p s (raiseInt src s) := ⟨rfl, rfl, fun _ _ => rfl, rfl⟩

theorem alone_finishHead (p : Fin 8) (code : ResultCode) (v1 v2 : Word) (s : Block) : Alone p s (finishHead p code v1 v2 s) := by
  unfold finishHead
  split
  · refine .trans ?_ (alone_completeOrigin p _ _ _ _ _)
    exact alone_setPlayback rfl
  · exact .refl p s

theorem finishHead_queue (p : Fin 8) (code : ResultCode) (v1 v2 : Word) (s : Block) :
    (playbackOf (finishHead p code v1 v2 s) p).queue = (playbackOf s p).queue.drop 1 := by
  unfold finishHead
  split
  · rename_i r rest h
    simp [h]
  · rename_i h
    simp [h]

/-- The request that a follow appends to an empty queue (R22). -/
def followRequest : QueuedRequest := ⟨.follow, .goNext none⟩

/-- A queue after an expiry of the follow timer, or after none (R22). -/
def FollowsOn (before after : List QueuedRequest) : Prop := after = before ∨ before = [] ∧ after = [followRequest]

theorem alone_followEnd (p : Fin 8) (s : Block) : Alone p s (followEnd p s) := by
  unfold followEnd
  dsimp only
  split
  · exact alone_setPlayback rfl
  · exact .trans (t := setPlayback p { playbackOf s p with follow := none } s) (alone_setPlayback rfl) ⟨rfl, rfl, fun _ _ => rfl, rfl⟩

theorem followEnd_queue (p : Fin 8) (s : Block) : FollowsOn (playbackOf s p).queue (playbackOf (followEnd p s) p).queue := by
  unfold followEnd FollowsOn
  dsimp only
  split
  · rename_i h
    exact .inr ⟨by simpa using h, by simp [followRequest]⟩
  · exact .inl (by simp [playbackOf])

theorem alone_followIfDue (p : Fin 8) (s : Block) : Alone p s (followIfDue p s) := by
  unfold followIfDue
  split
  · exact alone_followEnd p s
  · exact .refl p s

theorem followIfDue_queue (p : Fin 8) (s : Block) : FollowsOn (playbackOf s p).queue (playbackOf (followIfDue p s) p).queue := by
  unfold followIfDue
  split
  · exact followEnd_queue p s
  · exact .inl rfl

theorem alone_fadeEnds (p : Fin 8) (s : Block) : Alone p s (fadeEnds p s) := by
  unfold fadeEnds
  dsimp only
  split
  · refine .trans ?_ (alone_followIfDue p _)
    refine .trans ?_ (alone_raiseInt p _ _)
    exact alone_edited rfl
  · refine .trans ?_ (alone_raiseInt p _ _)
    exact alone_edited rfl
  · exact .refl p s

theorem fadeEnds_queue (p : Fin 8) (s : Block) : FollowsOn (playbackOf s p).queue (playbackOf (fadeEnds p s) p).queue := by
  unfold fadeEnds
  dsimp only
  split
  · have := followIfDue_queue p (raiseInt .playback
      (edit p ((playbackOf s p).entries.length - (settledSet (playbackOf s p).entries).length)
        (setPlayback p (playbackOf s p).toHolding s)))
    simpa [Playback.toHolding] using this
  · exact .inl (by simp [Playback.toIdle])
  · exact .inl rfl

theorem alone_fadeEndIfDue (p : Fin 8) (s : Block) : Alone p s (fadeEndIfDue p s) := by
  unfold fadeEndIfDue
  split
  · exact alone_fadeEnds p s
  · exact .refl p s

theorem fadeEndIfDue_queue (p : Fin 8) (s : Block) : FollowsOn (playbackOf s p).queue (playbackOf (fadeEndIfDue p s) p).queue := by
  unfold fadeEndIfDue
  split
  · exact fadeEnds_queue p s
  · exact .inl rfl

theorem alone_servePause (p : Fin 8) (s : Block) : Alone p s (servePause p s) := by
  unfold servePause
  dsimp only
  split
  all_goals refine .trans ?_ (alone_finishHead p _ _ _ _)
  · exact alone_edited rfl
  · exact alone_edited rfl
  · exact alone_edited rfl
  · exact .refl p s

theorem servePause_queue (p : Fin 8) (s : Block) : (playbackOf (servePause p s) p).queue = (playbackOf s p).queue.drop 1 := by
  unfold servePause
  dsimp only
  split
  all_goals simp [finishHead_queue]

theorem alone_serveResume (p : Fin 8) (s : Block) : Alone p s (serveResume p s) := by
  unfold serveResume
  dsimp only
  split
  · refine .trans ?_ (alone_fadeEndIfDue p _)
    refine .trans ?_ (alone_finishHead p _ _ _ _)
    exact alone_edited rfl
  · refine .trans ?_ (alone_fadeEndIfDue p _)
    refine .trans ?_ (alone_finishHead p _ _ _ _)
    exact alone_edited rfl
  · refine .trans ?_ (alone_followIfDue p _)
    refine .trans ?_ (alone_finishHead p _ _ _ _)
    exact alone_edited rfl
  · exact alone_finishHead p _ _ _ _

theorem serveResume_queue (p : Fin 8) (s : Block) : FollowsOn ((playbackOf s p).queue.drop 1) (playbackOf (serveResume p s) p).queue := by
  unfold serveResume
  dsimp only
  split
  · refine Eq.subst (motive := fun q => FollowsOn q _) ?_ (fadeEndIfDue_queue p _)
    simp [finishHead_queue]
  · refine Eq.subst (motive := fun q => FollowsOn q _) ?_ (fadeEndIfDue_queue p _)
    simp [finishHead_queue]
  · refine Eq.subst (motive := fun q => FollowsOn q _) ?_ (followIfDue_queue p _)
    simp [finishHead_queue]
  · exact .inl (finishHead_queue p _ _ _ s)

/-- A GO or GO NEXT at the head leaves the queue, or a load is under way. -/
theorem serveLoad_queue (p : Fin 8) (choice : Option (Nat × Search)) (s : Block) :
    (playbackOf (serveLoad p choice s) p).load ≠ .none
      ∨ (playbackOf (serveLoad p choice s) p).queue = (playbackOf s p).queue.drop 1 := by
  unfold serveLoad
  dsimp only
  split
  · exact .inr (by rw [finishHead_queue]; simp)
  · split
    · exact .inl (submitLoad_load p _ _ _)
    · exact .inr (by rw [finishHead_queue]; simp)

/-- A head served leaves the queue, or a load is under way; only a RESUME that is the last request can let a follow append one (R7, R22). -/
theorem serveHead_queue (p : Fin 8) (s : Block) (r : QueuedRequest) (rest : List QueuedRequest) (h : (playbackOf s p).queue = r :: rest) :
    (playbackOf (serveHead p s) p).load ≠ .none ∨ (playbackOf (serveHead p s) p).queue = rest
      ∨ r.kind = .resume ∧ rest = [] ∧ (playbackOf (serveHead p s) p).queue = [followRequest] := by
  have tail : (playbackOf s p).queue.drop 1 = rest := by rw [h]; rfl
  unfold serveHead
  dsimp only
  rw [h]
  dsimp only
  split
  · exact (serveLoad_queue p _ s).imp_right fun e => .inl (e.trans tail)
  · exact (serveLoad_queue p _ s).imp_right fun e => .inl (e.trans tail)
  · exact .inr (.inl ((servePause_queue p s).trans tail))
  · rename_i kind
    rcases serveResume_queue p s with e | ⟨e, f⟩
    · exact .inr (.inl (e.trans tail))
    · exact .inr (.inr ⟨kind, tail.symm.trans e, f⟩)

/-- How many heads a queue can have served: its requests, and one that a follow may append after a RESUME. -/
def servings (q : List QueuedRequest) : Nat := q.length + bit (q.any fun r => r.kind == .resume)

theorem servings_tail (r : QueuedRequest) (rest : List QueuedRequest) : servings rest < servings (r :: rest) := by
  simp only [servings, List.length_cons, List.any_cons]
  cases rest.any fun r => r.kind == .resume <;> cases r.kind == .resume <;> simp [bit]

/-- Served as often as that, the queue is empty or a load is under way. -/
theorem serveUpTo_ends (n : Nat) (p : Fin 8) (s : Block) (h : servings (playbackOf s p).queue ≤ n) :
    (playbackOf (serveUpTo n p s) p).load ≠ .none ∨ (playbackOf (serveUpTo n p s) p).queue = [] := by
  induction n generalizing s with
  | zero =>
    have : (playbackOf s p).queue.length = 0 := by simp only [servings] at h; omega
    exact .inr (List.length_eq_zero_iff.1 this)
  | succ n ih =>
    unfold serveUpTo
    split
    · rename_i waits
      obtain ⟨r, rest, hq⟩ := List.exists_cons_of_ne_nil waits.2
      have shorter := servings_tail r rest
      rw [hq] at h
      rcases serveHead_queue p s r rest hq with load | same | ⟨kind, last, follow⟩
      · exact .inl (by rwa [serveUpTo_stop n p _ (.inl load)])
      · exact ih _ (by rw [same]; omega)
      · refine ih _ ?_
        rw [follow]
        subst last
        have : servings [followRequest] = 1 := rfl
        have : servings [r] = 2 := by simp [servings, kind, bit]
        omega
    · rename_i stops
      by_cases load : (playbackOf s p).load = .none
      · exact .inr (by by_contra queue; exact stops ⟨load, queue⟩)
      · exact .inl load

/-- A playback serves its queue until it is empty or a load is under way (R7). -/
theorem serve_ends (p : Fin 8) (s : Block) : (playbackOf (serve p s) p).load ≠ .none ∨ (playbackOf (serve p s) p).queue = [] := by
  refine serveUpTo_ends _ p s ?_
  simp only [servings, bit]
  split <;> omega

/-! ### Each load state has its job (R2, R46 to R48) -/

/-- The loads in order but for playback `p`, which may have requests to serve while its load state is NONE. -/
structure LoadsBut (p : Fin 8) (s : Block) : Prop where
  loads : ∀ q, q ≠ p ∨ (playbackOf s q).load ≠ .none → loadOk s q = true
  lock : (s.loader.current.all fun c => c.lockHeld == (c.stage != .lock)) = true

/-- The loads in order (R2, R48). -/
structure LoadsInv (s : Block) : Prop where
  loads : ∀ q, loadOk s q = true
  lock : (s.loader.current.all fun c => c.lockHeld == (c.stage != .lock)) = true

theorem loadsInv_iff (s : Block) : LoadsInv s ↔ loadsOk s = true := by
  have all : allPlaybacks.all (loadOk s) = true ↔ ∀ q, loadOk s q = true := by
    simp only [allPlaybacks, List.all_cons, List.all_nil, Bool.and_true, Bool.and_eq_true, Fin.forall_fin_succ]
    simp
  rw [loadsOk, Bool.and_eq_true, all]
  exact ⟨fun h => ⟨h.loads, h.lock⟩, fun h => ⟨h.1, h.2⟩⟩

theorem LoadsInv.but {s : Block} (h : LoadsInv s) (p : Fin 8) : LoadsBut p s := ⟨fun q _ => h.loads q, h.lock⟩

/-- With its queue served, or a load under way, the playback is in order too. -/
theorem LoadsBut.whole {p : Fin 8} {s : Block} (h : LoadsBut p s) (e : (playbackOf s p).load ≠ .none ∨ (playbackOf s p).queue = []) :
    LoadsInv s := by
  refine ⟨fun q => ?_, h.lock⟩
  by_cases hq : q ≠ p ∨ (playbackOf s q).load ≠ .none
  · exact h.loads q hq
  · simp only [not_or, not_not] at hq
    obtain ⟨rfl, none⟩ := hq
    simp only [ne_eq, none, not_true_eq_false, false_or] at e
    simp [loadOk, none, e]

/-- A load state and a job found by the loader are all that an operation of another kind leaves to see. -/
theorem loadOk_congr {s t : Block} {q : Fin 8} (l : t.loader = s.loader) (h : playbackOf t q = playbackOf s q) :
    loadOk t q = loadOk s q := by simp only [loadOk, l, h]

theorem loadOk_of_load {s t : Block} {q : Fin 8} (l : t.loader = s.loader) (h : (playbackOf t q).load = (playbackOf s q).load)
    (n : (playbackOf s q).load ≠ .none) (ok : loadOk s q = true) : loadOk t q = true := by
  revert ok n
  simp only [loadOk, l, h]
  cases (playbackOf s q).load <;> simp

theorem LoadsInv.of_same {s t : Block} (h : LoadsInv s) (hp : t.playbacks = s.playbacks) (hl : t.loader = s.loader) : LoadsInv t :=
  ⟨fun q => by rw [loadOk_congr hl (by simp [playbackOf, hp])]; exact h.loads q, by rw [hl]; exact h.lock⟩

theorem LoadsBut.alone {p : Fin 8} {s t : Block} (h : LoadsBut p s) (a : Alone p s t) : LoadsBut p t := by
  refine ⟨fun q hq => ?_, by rw [a.loader]; exact h.lock⟩
  by_cases hp : q = p
  · subst hp
    have n : (playbackOf s q).load ≠ .none := by
      rcases hq with hq | hq
      · exact absurd rfl hq
      · rwa [a.load] at hq
    exact loadOk_of_load a.loader a.load n (h.loads q (.inr n))
  · rw [loadOk_congr a.loader (a.others q hp)]
    exact h.loads q (.inl hp)

/-- What leaves a list is the element found; every other one stays. -/
theorem mem_eraseP_of_find {α : Type} {f : α → Bool} {xs : List α} {j k : α} (h : xs.find? f = some j) (mem : k ∈ xs) (ne : k ≠ j) :
    k ∈ xs.eraseP f := by
  induction xs with
  | nil => simp at mem
  | cons x rest ih =>
    rw [List.eraseP_cons]
    rw [List.find?_cons] at h
    cases hx : f x
    · simp only [hx] at h
      simp only [cond_false]
      rcases List.mem_cons.1 mem with rfl | mem
      · exact List.mem_cons_self
      · exact List.mem_cons_of_mem _ (ih h mem)
    · simp only [hx, Option.some.injEq] at h
      subst h
      simpa [ne] using mem

theorem LoadsBut.takeLoadJob {p : Fin 8} {s : Block} (h : LoadsBut p s) : LoadsBut p (takeLoadJob s) := by
  unfold Machine.takeLoadJob
  split
  · exact h
  · split
    · rename_i j none found
      refine ⟨fun q hq => ?_, by simp⟩
      by_cases hj : q = j.playback
      · subst hj
        simp [loadOk, playbackOf]
      · have same : ∀ (t : Block), t.playbacks = s.playbacks →
            playbackOf (ask .loader (acquireTenure s j.bank) (modPlayback j.playback (fun x => { x with load := .reading }) t)) q
              = playbackOf s q := by
          intro t ht
          rw [playbackOf_ask, playbackOf_modPlayback_ne _ _ _ _ hj]
          simp [playbackOf, ht]
        have same := same { s with loader := { s.loader with
          queue := s.loader.queue.eraseP fun k => !k.deferred
          current := some ⟨j, .lock, false, false, Option.none, Option.none⟩ } } rfl
        have before : loadOk s q = true := h.loads q (by rwa [same] at hq)
        simp only [loadOk, same, ask_loader, modPlayback_loader] at before ⊢
        cases load : (playbackOf s q).load <;> simp only [load] at before ⊢
        · exact before
        · simp only [List.any_eq_true] at before ⊢
          obtain ⟨k, mem, hk⟩ := before
          refine ⟨k, mem_eraseP_of_find found mem ?_, hk⟩
          rintro rfl
          exact hj (beq_iff_eq.1 hk).symm
        · simp [none] at before
    · exact h

theorem LoadsInv.takeLoadJob {s : Block} (h : LoadsInv s) : LoadsInv (takeLoadJob s) := by
  refine ⟨fun q => ?_, ((h.but 0).takeLoadJob).lock⟩
  by_cases hq : q = 0
  · exact ((h.but 1).takeLoadJob).loads q (.inl (by simp [hq]))
  · exact ((h.but 0).takeLoadJob).loads q (.inl hq)

/-- A job joins the loader queue with its playback WAITING (R46). -/
theorem LoadsBut.submitLoad {p : Fin 8} {s : Block} (h : LoadsBut p s) (bank : Nat) (search : Search) :
    LoadsBut p (submitLoad p bank search s) := by
  unfold Machine.submitLoad
  refine LoadsBut.takeLoadJob ⟨fun q hq => ?_, h.lock⟩
  by_cases hp : q = p
  · subst hp
    simp [loadOk]
  · have before := h.loads q (.inl hp)
    simp only [loadOk, playbackOf_modPlayback_ne _ _ _ _ hp] at before ⊢
    simp only [modPlayback_loader]
    simp only [playbackOf] at before ⊢
    cases load : (getAt s.playbacks q).load <;> simp only [load] at before ⊢
    · exact before
    · simp [before]
    · exact before

theorem LoadsBut.serveLoad {p : Fin 8} {s : Block} (h : LoadsBut p s) (choice : Option (Nat × Search)) :
    LoadsBut p (serveLoad p choice s) := by
  have disarmed : LoadsBut p (modPlayback p (fun x => { x with follow := none }) s) := h.alone (alone_setPlayback rfl)
  unfold Machine.serveLoad
  dsimp only
  split
  · exact disarmed.alone (alone_finishHead p _ _ _ _)
  · split
    · exact disarmed.submitLoad _ _
    · exact disarmed.alone (alone_finishHead p _ _ _ _)

theorem LoadsBut.serveHead {p : Fin 8} {s : Block} (h : LoadsBut p s) : LoadsBut p (serveHead p s) := by
  unfold Machine.serveHead
  dsimp only
  split
  · exact h
  · split
    · exact h.serveLoad _
    · exact h.serveLoad _
    · exact h.alone (alone_servePause p s)
    · exact h.alone (alone_serveResume p s)

theorem LoadsBut.serveUpTo {p : Fin 8} {s : Block} (n : Nat) (h : LoadsBut p s) : LoadsBut p (serveUpTo n p s) := by
  induction n generalizing s with
  | zero => exact h
  | succ n ih =>
    unfold Machine.serveUpTo
    split
    · exact ih h.serveHead
    · exact h

/-- A playback that serves its queue leaves every load in order (R7). -/
theorem LoadsBut.serve {p : Fin 8} {s : Block} (h : LoadsBut p s) : LoadsInv (serve p s) := (h.serveUpTo _).whole (serve_ends p s)

/-- In HALTED a playback's queue is served to its end, and no load is begun (R25). -/
theorem serve_halted {p : Fin 8} {s : Block} (h : s.engine.state = .halted) : Alone p s (serve p s) := by
  unfold serve
  generalize (playbackOf s p).queue.length + 2 = n
  induction n generalizing s with
  | zero => exact .refl p s
  | succ n ih =>
    unfold serveUpTo
    split
    · have head : Alone p s (serveHead p s) := by
        unfold serveHead
        dsimp only
        split
        · exact .refl p s
        · split
          · unfold serveLoad
            dsimp only
            rw [if_pos h]
            exact .trans (alone_modPlayback rfl) (alone_finishHead p _ _ _ _)
          · unfold serveLoad
            dsimp only
            rw [if_pos h]
            exact .trans (alone_modPlayback rfl) (alone_finishHead p _ _ _ _)
          · exact alone_servePause p s
          · exact alone_serveResume p s
      exact head.trans (ih (by rw [head.engine]; exact h))
    · exact .refl p s

theorem LoadsInv.arriveQueued {s : Block} (h : LoadsInv s) (p : Fin 8) (o : Origin) (k : QueuedKind) : LoadsInv (arriveQueued p o k s) := by
  unfold Machine.arriveQueued
  split
  · split
    · exact ((h.but p).alone (alone_modPlayback rfl)).serve
    · unfold queueFull
      split
      · exact h.of_same (by simp [completePlain]) (by simp [completePlain])
      · exact h.of_same rfl rfl
      · exact h
  · exact h.of_same (by simp) (by simp)

/-- A fade end or the end of a follow, and then the queue (R20, R22). -/
theorem LoadsInv.fadeEnds {s : Block} (h : LoadsInv s) (p : Fin 8) : LoadsInv (serve p (fadeEnds p s)) :=
  ((h.but p).alone (alone_fadeEnds p s)).serve

theorem LoadsInv.followEnd {s : Block} (h : LoadsInv s) (p : Fin 8) : LoadsInv (serve p (followEnd p s)) :=
  ((h.but p).alone (alone_followEnd p s)).serve

/-! ### Cancelling and clearing (R16, R24) -/

@[simp] theorem cancelRequests_playbacks (rs : List QueuedRequest) (s : Block) : (cancelRequests rs s).playbacks = s.playbacks := by
  simp [cancelRequests, foldl_keeps (fun b : Block => b.playbacks)]

@[simp] theorem cancelRequests_loader (rs : List QueuedRequest) (s : Block) : (cancelRequests rs s).loader = s.loader := by
  simp [cancelRequests, foldl_keeps (fun b : Block => b.loader)]

/-- A playback with at most its request in service leaves every load in order as its load is abandoned: a WAITING job leaves the loader
queue, and a READING one is marked. -/
theorem LoadsInv.abandonLoad {s : Block} (h : LoadsInv s) (p : Fin 8) (one : (playbackOf s p).queue.drop 1 = []) :
    LoadsInv (abandonLoad p s) := by
  unfold Machine.abandonLoad
  split
  · exact h
  · rename_i waiting
    have but : LoadsBut p (modPlayback p (fun x => { x with load := .none })
        { s with loader := { s.loader with queue := s.loader.queue.filter fun j => j.playback != p } }) := by
      refine ⟨fun q hq => ?_, h.lock⟩
      have hp : q ≠ p := by
        rintro rfl
        rcases hq with hq | hq
        · exact hq rfl
        · simp at hq
      have before := h.loads q
      simp only [loadOk, playbackOf_modPlayback_ne _ _ _ _ hp] at before ⊢
      simp only [modPlayback_loader]
      simp only [playbackOf] at before ⊢
      cases load : (getAt s.playbacks q).load <;> simp only [load] at before ⊢
      · exact before
      · simp only [List.any_eq_true, List.mem_filter, beq_iff_eq, bne_iff_ne] at before ⊢
        obtain ⟨j, mem, rfl⟩ := before
        exact ⟨j, ⟨mem, hp⟩, rfl⟩
      · exact before
    refine (but.alone (alone_finishHead p _ _ _ _)).whole (.inr ?_)
    rw [finishHead_queue, playbackOf_modPlayback]
    exact one
  · unfold markAbandoned
    split
    · rename_i c current
      split
      · refine ⟨fun q => ?_, ?_⟩
        · have before := h.loads q
          simp only [loadOk, current] at before ⊢
          exact before
        · have lock := h.lock
          simp only [current] at lock ⊢
          exact lock
      · exact h
    · exact h

/-- After steps 1 and 2 of R16 and of R24 every load is in order. -/
theorem LoadsInv.cancelAndAbandon {s : Block} (h : LoadsInv s) (p : Fin 8) : LoadsInv (cancelAndAbandon p s) := by
  have kept : Alone p s (setPlayback p { playbackOf s p with queue := inService (playbackOf s p) } s) := alone_setPlayback rfl
  have one : ∀ rs, (playbackOf (cancelRequests rs (setPlayback p { playbackOf s p with queue := inService (playbackOf s p) } s)) p).queue
      = inService (playbackOf s p) := by
    intro rs
    simp [playbackOf]
  unfold Machine.cancelAndAbandon
  dsimp only
  refine LoadsInv.abandonLoad ?_ p ?_
  · refine LoadsInv.of_same (s := setPlayback p { playbackOf s p with queue := inService (playbackOf s p) } s) ?_ (by simp) (by simp)
    refine ((h.but p).alone kept).whole ?_
    simp only [playbackOf_setPlayback, inService]
    by_cases load : (playbackOf s p).load = .none
    · exact .inr (by simp [load])
    · exact .inl load
  · rw [one]
    simp only [inService]
    split <;> simp

theorem LoadsInv.edited {s : Block} (h : LoadsInv s) (p : Fin 8) {x : Playback} {freed : Nat} (load : x.load = (playbackOf s p).load)
    (queue : x.queue = (playbackOf s p).queue) : LoadsInv (edit p freed (setPlayback p x s)) := by
  refine ((h.but p).alone (alone_edited load)).whole ?_
  have before := h.loads p
  by_cases none : (playbackOf s p).load = .none
  · refine .inr ?_
    simp only [loadOk, none] at before
    simpa [queue] using before
  · exact .inl (by simpa [load] using none)

theorem LoadsInv.clearPlayback {s : Block} (h : LoadsInv s) (p : Fin 8) : LoadsInv (clearPlayback p s) := by
  unfold Machine.clearPlayback
  exact (h.cancelAndAbandon p).edited p rfl rfl

theorem LoadsInv.clearPlaybacks {s : Block} (h : LoadsInv s) : LoadsInv (clearPlaybacks s) := by
  unfold Machine.clearPlaybacks
  generalize allPlaybacks = ps
  induction ps generalizing s with
  | nil => exact h
  | cons p rest ih => exact ih (h.clearPlayback p)

theorem LoadsInv.arriveSetMaster {s : Block} (h : LoadsInv s) (p : Fin 8) (slot : Fin 32) (level time : Word) :
    LoadsInv (arriveSetMaster p slot level time s) := by
  unfold Machine.arriveSetMaster
  split
  · refine LoadsInv.of_same (s := edit p 0 (setPlayback p { playbackOf s p with
        master := (playbackOf s p).master.rewrite s.time.clock level.toNat time.toNat } s)) ?_ (by simp) (by simp)
    exact h.edited p rfl rfl
  · exact h.of_same (by simp [completePlain]) (by simp [completePlain])

theorem LoadsInv.masterSettles {s : Block} (h : LoadsInv s) (p : Fin 8) : LoadsInv (masterSettles p s) :=
  h.edited (x := { playbackOf s p with master := (playbackOf s p).master.settle }) p rfl rfl

/-- A follow disarmed leaves the loads. -/
theorem LoadsInv.disarm {s : Block} (h : LoadsInv s) (p : Fin 8) : LoadsInv (modPlayback p (fun x => { x with follow := none }) s) := by
  refine ((h.but p).alone (alone_modPlayback rfl)).whole ?_
  have before := h.loads p
  by_cases none : (playbackOf s p).load = .none
  · refine .inr ?_
    simp only [loadOk, none] at before
    simpa using before
  · exact .inl (by simpa using none)

/-- The fade end of a release that is due at once arms no follow (R17, R20). -/
theorem fadeEnds_of_releasing {p : Fin 8} {s : Block} (h : (playbackOf s p).fade = .releasing) :
    fadeEnds p s = raiseInt .playback (edit p (playbackOf s p).entries.length (setPlayback p (playbackOf s p).toIdle s)) := by
  unfold fadeEnds
  dsimp only
  rw [h]

theorem LoadsInv.arriveRelease {s : Block} (h : LoadsInv s) (p : Fin 8) (o : Origin) (time : Option Nat) :
    LoadsInv (arriveRelease p o time s) := by
  unfold Machine.arriveRelease
  dsimp only
  have cleared := (h.cancelAndAbandon p).disarm p
  generalize modPlayback p (fun x => { x with follow := none }) (Machine.cancelAndAbandon p s) = t at cleared
  split
  · split
    · exact cleared.of_same (by simp) (by simp)
    · refine LoadsInv.of_same (s := fadeEndIfDue p (releaseBuild p time t)) ?_ (by simp) (by simp)
      have built : LoadsInv (releaseBuild p time t) := cleared.edited p rfl rfl
      unfold fadeEndIfDue
      split
      · rw [fadeEnds_of_releasing (by simp [releaseBuild])]
        have idle := built.edited (x := (playbackOf (releaseBuild p time t) p).toIdle)
          (freed := (playbackOf (releaseBuild p time t) p).entries.length) p rfl rfl
        exact idle.of_same rfl rfl
      · exact built
  · exact h.of_same (by simp) (by simp)

/-! ### The cue loader (R48 to R60) -/

/-- The loader is IDLE and playback `p`, whose job it was, has load state NONE, its queue still to be served (R11). -/
theorem LoadsInv.reported {s t : Block} {c : CurrentLoad} (h : LoadsInv s) (current : s.loader.current = some c)
    (queue : t.loader.queue = s.loader.queue) (idle : t.loader.current = none)
    (others : ∀ q, q ≠ c.job.playback → playbackOf t q = playbackOf s q) (load : (playbackOf t c.job.playback).load = .none) :
    LoadsBut c.job.playback t := by
  refine ⟨fun q hq => ?_, by simp [idle]⟩
  have hp : q ≠ c.job.playback := by
    rintro rfl
    rcases hq with hq | hq
    · exact hq rfl
    · exact hq load
  have before := h.loads q
  simp only [loadOk, others q hp, queue, idle] at before ⊢
  cases found : (playbackOf s q).load <;> simp only [found] at before ⊢
  · exact before
  · exact before
  · simp only [current, Option.any_some, beq_iff_eq] at before
    exact absurd before.symm hp

/-- The report of a load that ended, the loader IDLE: its playback's load state becomes NONE and its queue is served (R11, R16). -/
theorem LoadsInv.loadEnded {s t : Block} {c : CurrentLoad} (h : LoadsInv s) (current : s.loader.current = some c)
    (queue : t.loader.queue = s.loader.queue) (idle : t.loader.current = none)
    (others : ∀ q, q ≠ c.job.playback → playbackOf t q = playbackOf s q) (code : ResultCode) :
    LoadsInv (loadEnded c.job.playback code t) := by
  unfold Machine.loadEnded
  refine LoadsBut.serve (LoadsBut.alone ?_ (alone_finishHead _ _ _ _ _))
  refine h.reported current queue idle (fun q hq => ?_) (by simp)
  rw [playbackOf_modPlayback_ne _ _ _ _ hq]
  exact others q hq

theorem playbackOf_freeLoad_ne {p q : Fin 8} (s : Block) (h : q ≠ p) : playbackOf (freeLoad p s) q = playbackOf s q :=
  playbackOf_modPlayback_ne _ _ _ _ h

/-- A job that ends without completing leaves every load in order, whatever it leaves of the stuck-lock count. -/
theorem LoadsInv.endUnfinished {s t : Block} {c d : CurrentLoad} (h : LoadsInv s) (current : s.loader.current = some c)
    (job : d.job = c.job) (queue : t.loader.queue = s.loader.queue) (same : t.playbacks = s.playbacks) (code : ResultCode) :
    LoadsInv (endUnfinished d code (freeLoad c.job.playback t)) := by
  unfold Machine.endUnfinished endJob
  rw [job]
  refine LoadsInv.takeLoadJob (h.loadEnded current ?_ rfl (fun q hq => ?_) _)
  · exact queue
  · exact (playbackOf_freeLoad_ne t hq).trans (by simp [playbackOf, same])

/-- The current job goes on in another stage, its playback's list changed or not; it holds its lock in every stage but LOCK. -/
theorem LoadsInv.goesOn {s : Block} {c d : CurrentLoad} (h : LoadsInv s) (current : s.loader.current = some c) (job : d.job = c.job)
    (lock : (d.lockHeld == (d.stage != .lock)) = true) (k : TenureKind) {x : Playback}
    (load : x.load = (playbackOf s c.job.playback).load) (queue : x.queue = (playbackOf s c.job.playback).queue) :
    LoadsInv (ask .loader k (setCurrent d (setPlayback c.job.playback x s))) := by
  refine LoadsInv.of_same (s := setCurrent d (setPlayback c.job.playback x s)) ⟨fun q => ?_, by simpa [setCurrent] using lock⟩ (by simp) (by simp)
  have before := h.loads q
  have same : (playbackOf (setPlayback c.job.playback x s) q).load = (playbackOf s q).load
      ∧ (playbackOf (setPlayback c.job.playback x s) q).queue = (playbackOf s q).queue := by
    by_cases hq : q = c.job.playback
    · subst hq; simp [load, queue]
    · simp [playbackOf_setPlayback_ne _ _ _ _ hq]
  have seen : playbackOf (setCurrent d (setPlayback c.job.playback x s)) q = playbackOf (setPlayback c.job.playback x s) q := rfl
  simp only [loadOk, seen, same.1, same.2, current, Option.any_some] at before ⊢
  simpa [setCurrent, job] using before

/-- The same, with the playback as it is. -/
theorem LoadsInv.stage {s : Block} {c d : CurrentLoad} (h : LoadsInv s) (current : s.loader.current = some c) (job : d.job = c.job)
    (lock : (d.lockHeld == (d.stage != .lock)) = true) (k : TenureKind) : LoadsInv (ask .loader k (setCurrent d s)) := by
  have := h.goesOn (d := d) current job lock k (x := playbackOf s c.job.playback) rfl rfl
  rwa [setPlayback_same] at this

/-- A job fails or stops, with or without its lock; its playback's list may have changed. -/
theorem LoadsInv.failLoad {s : Block} {c d : CurrentLoad} (h : LoadsInv s) (current : s.loader.current = some c) (job : d.job = c.job)
    (code : ResultCode) {x : Playback} (load : x.load = (playbackOf s c.job.playback).load)
    (queue : x.queue = (playbackOf s c.job.playback).queue) : LoadsInv (failLoad d code (setPlayback c.job.playback x s)) := by
  unfold Machine.failLoad enterUnlock
  dsimp only
  rw [job]
  have freed : freeLoad c.job.playback (setPlayback c.job.playback x s)
      = setPlayback c.job.playback { x with incoming := [], reservation := 0 } s := by
    simp [freeLoad, modPlayback_eq]
  split
  · rename_i held
    rw [freed]
    exact h.goesOn (d := { d with job := c.job, failed := some (d.failed.getD code), stage := .unlock }) current rfl
      (by simp only [held]; rfl) _ (x := { x with incoming := [], reservation := 0 }) load queue
  · unfold Machine.endUnfinished endJob
    rw [job, freed]
    refine LoadsInv.takeLoadJob (h.loadEnded (t := { setPlayback c.job.playback { x with incoming := [], reservation := 0 } s with
      loader := { s.loader with current := none } }) current rfl rfl (fun q hq => ?_) _)
    exact playbackOf_setPlayback_ne c.job.playback q { x with incoming := [], reservation := 0 } s hq

theorem LoadsInv.failed {s : Block} {c d : CurrentLoad} (h : LoadsInv s) (current : s.loader.current = some c) (job : d.job = c.job)
    (code : ResultCode) : LoadsInv (Machine.failLoad d code s) := by
  have := h.failLoad current job code (x := playbackOf s c.job.playback) rfl rfl
  rwa [setPlayback_same] at this

theorem LoadsInv.lockDone {s : Block} {c : CurrentLoad} (h : LoadsInv s) (current : s.loader.current = some c) (value : Word) :
    LoadsInv (lockDone c value s) := by
  unfold Machine.lockDone
  dsimp only
  split
  · split
    · exact h.failed (d := { c with lockHeld := true }) current rfl _
    · exact h.stage (d := { c with lockHeld := true, stage := .seekCount }) current rfl rfl _
  · split
    · exact h.failed current rfl _
    · split
      · unfold putBack
        dsimp only
        refine LoadsInv.takeLoadJob ⟨fun q => ?_, rfl⟩
        have before := h.loads q
        by_cases hq : q = c.job.playback
        · subst hq
          simp [loadOk, playbackOf]
        · simp only [loadOk, playbackOf, modPlayback_playbacks, modAt_eq, getAt_setAt_ne _ _ _ _ hq, current, Option.any_some,
            modPlayback_loader] at before ⊢
          cases found : (getAt s.playbacks q).load <;> simp only [found] at before ⊢
          · exact before
          · simp [before]
          · exact absurd (beq_iff_eq.1 before).symm hq
      · exact h.failed current rfl _

/-- The words of a burst reach the incoming list and the reservation alone (R55). -/
theorem takeEntries_keeps (words : List Word) (x : Playback) :
    (takeEntries x words).1.load = x.load ∧ (takeEntries x words).1.queue = x.queue := by
  induction words generalizing x with
  | nil => exact ⟨rfl, rfl⟩
  | cons w rest ih =>
    unfold takeEntries
    split
    · exact ih _
    · exact ⟨rfl, rfl⟩

theorem LoadsInv.loaderDone {s : Block} (h : LoadsInv s) (words : List Word) : LoadsInv (loaderDone words s) := by
  unfold Machine.loaderDone
  split
  · exact h
  · rename_i c current
    have lock : (c.lockHeld == (c.stage != .lock)) = true := by
      have := h.lock
      simpa only [current, Option.all_some] using this
    split
    · exact h.lockDone current _
    · unfold unlockDone
      split
      · unfold endJob loadCompleted
        dsimp only
        refine LoadsInv.takeLoadJob (LoadsBut.serve (LoadsBut.alone ?_ (.trans (alone_finishHead _ _ _ _ _) (alone_fadeEndIfDue _ _))))
        refine LoadsBut.alone ?_ (alone_edit _ _ _)
        refine h.reported current rfl rfl (fun q hq => ?_) ?_
        · rw [playbackOf_setPlayback_ne _ _ _ _ hq]
          exact playbackOf_modPlayback_ne c.job.playback q (fun x => { x with reservation := 0 }) s hq
        · rw [playbackOf_setPlayback]
          rfl
      · exact h.endUnfinished current rfl rfl rfl _
    · rename_i stage
      have held : c.lockHeld = true := by rw [stage] at lock; exact beq_iff_eq.1 lock
      split
      · exact h.failed current rfl _
      · unfold countRead
        split
        · exact h.failed current rfl _
        · split
          · exact h.failed current rfl _
          · exact h.stage (d := { c with stage := .seekDirectory (wordAt words 0).toNat 0 }) current rfl (by simp only [held]; rfl) _
    · rename_i count position stage
      have held : c.lockHeld = true := by rw [stage] at lock; exact beq_iff_eq.1 lock
      split
      · exact h.failed current rfl _
      · unfold directoryRead
        split
        · rename_i w _
          split
          · split
            · exact h.failed current rfl _
            · exact h.stage (d := { c with stage := .header (directoryCue w) (directoryOffset w) count }) current rfl
                (by simp only [held]; rfl) _
          · exact h.failed current rfl _
        · dsimp only
          split
          · exact h.stage (d := { c with stage := .seekDirectory count (position + words.length) }) current rfl (by simp only [held]; rfl) _
          · exact h.failed current rfl _
    · rename_i number offset count stage
      have held : c.lockHeld = true := by rw [stage] at lock; exact beq_iff_eq.1 lock
      split
      · exact h.failed current rfl _
      · unfold headerRead
        split
        · exact h.failed current rfl _
        · rename_i header _
          dsimp only
          split
          · split
            · exact h.goesOn (d := { c with header := some header, stage := .unlock }) current rfl (by simp only [held]; rfl) _
                (x := { playbackOf s c.job.playback with reservation := header.count }) rfl rfl
            · exact h.goesOn (d := { c with header := some header, stage := .entries offset 0 }) current rfl (by simp only [held]; rfl) _
                (x := { playbackOf s c.job.playback with reservation := header.count }) rfl rfl
          · exact h.failed current rfl _
    · rename_i offset position stage
      have held : c.lockHeld = true := by rw [stage] at lock; exact beq_iff_eq.1 lock
      split
      · exact h.failed current rfl _
      · unfold entriesRead
        dsimp only
        have kept := takeEntries_keeps (words.take ((c.header.map CueHeader.count).getD 0 - position)) (playbackOf s c.job.playback)
        split
        · split
          · exact h.goesOn (d := { c with stage := .entries offset (position + words.length) }) current rfl (by simp only [held]; rfl) _
              kept.1 kept.2
          · exact h.goesOn (d := { c with stage := .unlock }) current rfl (by simp only [held]; rfl) _ kept.1 kept.2
        · exact h.failLoad current rfl _ kept.1 kept.2

theorem LoadsInv.loaderFault {s : Block} (h : LoadsInv s) (read : Bool) : LoadsInv (loaderFault read s) := by
  unfold Machine.loaderFault
  split
  · exact h
  · rename_i c current
    split
    · split
      · exact h.endUnfinished (t := countStuck s) current rfl rfl rfl _
      · exact h.endUnfinished current rfl rfl rfl _
    · exact h.endUnfinished (t := countStuck s) current rfl rfl rfl _
    · exact h.failed current rfl _
    · exact h.failed current rfl _
    · exact h.failed current rfl _
    · exact h.failed current rfl _

theorem LoadsInv.loaderBoundary {s : Block} (h : LoadsInv s) : LoadsInv (loaderBoundary s) := by
  unfold Machine.loaderBoundary
  refine LoadsInv.takeLoadJob ⟨fun q => ?_, h.lock⟩
  have before := h.loads q
  simp only [loadOk, List.any_map] at before ⊢
  exact before

/-! ### HALTED (R25, R60) -/

/-- The report of an ended load in HALTED leaves its playback at NONE with an empty queue, and nothing else of the loads changed. -/
theorem loadEnded_halted {s : Block} (h : s.engine.state = .halted) (p : Fin 8) (code : ResultCode) :
    (loadEnded p code s).loader = s.loader ∧ (loadEnded p code s).engine = s.engine
      ∧ (∀ q, q ≠ p → playbackOf (loadEnded p code s) q = playbackOf s q)
      ∧ (playbackOf (loadEnded p code s) p).load = .none ∧ (playbackOf (loadEnded p code s) p).queue = [] := by
  have head : Alone p (modPlayback p (fun x => { x with load := .none }) s)
      (finishHead p code 0 0 (modPlayback p (fun x => { x with load := .none }) s)) := alone_finishHead p _ _ _ _
  have all := head.trans (serve_halted (by rw [head.engine]; exact h))
  have load : (playbackOf (loadEnded p code s) p).load = .none := by
    refine all.load.trans ?_
    simp
  refine ⟨all.loader, all.engine, fun q hq => (all.others q hq).trans (playbackOf_modPlayback_ne _ _ _ _ hq), load, ?_⟩
  exact (serve_ends p _).resolve_left fun n => n load

/-- The end of the queued jobs in HALTED: the loader queue stays as it is, and every playback with a job in the list is left at NONE with an
empty queue. -/
theorem haltJobs_ends (jobs : List LoadJob) {s : Block} (h : s.engine.state = .halted) :
    (haltJobs jobs s).loader = s.loader ∧ (haltJobs jobs s).engine = s.engine
      ∧ (∀ q, (∀ j ∈ jobs, j.playback ≠ q) → playbackOf (haltJobs jobs s) q = playbackOf s q)
      ∧ ∀ q, (∃ j ∈ jobs, j.playback = q) ∨ (playbackOf s q).load = .none ∧ (playbackOf s q).queue = [] →
          (playbackOf (haltJobs jobs s) q).load = .none ∧ (playbackOf (haltJobs jobs s) q).queue = [] := by
  unfold haltJobs
  induction jobs generalizing s with
  | nil => exact ⟨rfl, rfl, fun _ _ => rfl, fun q hq => by simpa using hq⟩
  | cons j rest ih =>
    have one := loadEnded_halted h j.playback .busFault
    have more := ih (s := loadEnded j.playback .busFault s) (by rw [one.2.1]; exact h)
    refine ⟨more.1.trans one.1, more.2.1.trans one.2.1, fun q hq => ?_, fun q hq => more.2.2.2 q ?_⟩
    · refine (more.2.2.1 q fun k hk => hq k (List.mem_cons_of_mem _ hk)).trans (one.2.2.1 q ?_)
      exact (hq j List.mem_cons_self).symm
    · by_cases hj : q = j.playback
      · subst hj
        exact .inr one.2.2.2
      · rcases hq with ⟨k, mem, rfl⟩ | idle
        · rcases List.mem_cons.1 mem with rfl | mem
          · exact absurd rfl hj
          · exact .inl ⟨k, mem, rfl⟩
        · exact .inr (by rw [one.2.2.1 q hj]; exact idle)

/-- In HALTED the loader is left with no job, and every playback with load state NONE and an empty queue (R25, R60). -/
theorem loaderHalt_ends {s : Block} (h : LoadsInv s) (halted : s.engine.state = .halted) :
    (loaderHalt s).loader.queue = [] ∧ (loaderHalt s).loader.current = none
      ∧ ∀ q, (playbackOf (loaderHalt s) q).load = .none ∧ (playbackOf (loaderHalt s) q).queue = [] := by
  have jobs := haltJobs_ends s.loader.queue (s := { s with loader := { s.loader with queue := [] } }) halted
  have idle : ∀ q, (∀ c, s.loader.current = some c → c.job.playback ≠ q) →
      (playbackOf (haltJobs s.loader.queue { s with loader := { s.loader with queue := [] } }) q).load = .none
        ∧ (playbackOf (haltJobs s.loader.queue { s with loader := { s.loader with queue := [] } }) q).queue = [] := by
    intro q other
    refine jobs.2.2.2 q ?_
    have before := h.loads q
    simp only [loadOk] at before
    cases load : (playbackOf s q).load <;> simp only [load] at before
    · exact .inr ⟨load, List.isEmpty_iff.1 before⟩
    · exact .inl (by simpa using before)
    · cases found : s.loader.current with
      | none => simp [found] at before
      | some c => exact absurd (by simpa [found] using before) (other c found)
  unfold loaderHalt haltCurrent
  rw [jobs.1]
  dsimp only
  split
  · rename_i none
    rw [jobs.1]
    exact ⟨rfl, none, fun q => idle q fun c hc => by simp [none] at hc⟩
  · rename_i c current
    generalize reported : freeLoad c.job.playback _ = t
    have same : t.loader.queue = [] ∧ t.loader.current = none ∧ t.engine.state = .halted
        ∧ ∀ q, q ≠ c.job.playback → playbackOf t q
          = playbackOf (haltJobs s.loader.queue { s with loader := { s.loader with queue := [] } }) q := by
      subst reported
      have queue : (haltJobs s.loader.queue { s with loader := { s.loader with queue := [] } }).loader.queue = [] := by rw [jobs.1]
      have engine := (congrArg Engine.state jobs.2.1).trans halted
      split
      · exact ⟨queue, rfl, engine, fun q hq => playbackOf_freeLoad_ne _ hq⟩
      · exact ⟨queue, rfl, engine, fun q hq => playbackOf_freeLoad_ne _ hq⟩
    have ended := loadEnded_halted same.2.2.1 c.job.playback (if c.abandon then .abandoned else .busFault)
    rw [ended.1]
    refine ⟨same.1, same.2.1, fun q => ?_⟩
    by_cases hq : q = c.job.playback
    · subst hq
      exact ended.2.2.2
    · rw [ended.2.2.1 q hq, same.2.2.2 q hq]
      refine idle q fun d hd => ?_
      rw [current] at hd
      cases hd
      exact Ne.symm hq

end Sys2Proof.Machine
end

