-- ==== Sys2Proof/Laws/Pool.lean ====
section
/-! SUPPORT. The scene pool: what each operation of a playback and of the cue loader does to the entries in use (R27 to R31, R41). -/

namespace Sys2Proof.Machine

/-! ### The entries in use -/

/-- Entries in use and awaiting landing. -/
def poolUsed (s : Block) : Nat := poolHeld s + poolAwaiting s

/-- The pool within its size, with a reserved entry for each that is still to be read. -/
def PoolInv (s : Block) : Prop := poolUsed s ≤ Config.poolSize ∧ ∀ p, entriesLeft s p ≤ (playbackOf s p).reservation

theorem all_playbacks (f : Fin 8 → Bool) : allPlaybacks.all f = true ↔ ∀ p, f p = true := by
  simp only [allPlaybacks, List.all_cons, List.all_nil, Bool.and_true, Bool.and_eq_true, Fin.forall_fin_succ]
  simp

theorem poolInv_iff (s : Block) : PoolInv s ↔ poolOk s = true ∧ entriesReserved s = true := by
  simp only [PoolInv, poolOk, entriesReserved, all_playbacks, decide_eq_true_eq, poolUsed]

/-- A step in which no more entries are used, no reservation changes, and none is left to be read that was not before. -/
def PoolStep (s t : Block) : Prop :=
  poolUsed t ≤ poolUsed s ∧ ∀ p, (playbackOf t p).reservation = (playbackOf s p).reservation ∧ entriesLeft t p ≤ entriesLeft s p

theorem PoolStep.inv {s t : Block} (h : PoolStep s t) (i : PoolInv s) : PoolInv t := by
  refine ⟨Nat.le_trans h.1 i.1, fun p => ?_⟩
  rw [(h.2 p).1]
  exact Nat.le_trans (h.2 p).2 (i.2 p)

theorem PoolStep.refl (s : Block) : PoolStep s s := ⟨Nat.le_refl _, fun _ => ⟨rfl, Nat.le_refl _⟩⟩

theorem PoolStep.trans {s t u : Block} (h : PoolStep s t) (k : PoolStep t u) : PoolStep s u :=
  ⟨Nat.le_trans k.1 h.1, fun p => ⟨(k.2 p).1.trans (h.2 p).1, Nat.le_trans (k.2 p).2 (h.2 p).2⟩⟩

/-- What leaves the playbacks, the loader and the held edits is such a step. -/
theorem PoolStep.of_same {s t : Block} (hp : t.playbacks = s.playbacks) (hl : t.loader = s.loader) (hh : t.mixer.held = s.mixer.held) :
    PoolStep s t := by
  refine ⟨?_, fun p => ?_⟩
  · simp [poolUsed, poolHeld, poolAwaiting, playbackOf, hp, hh]
  · simp [entriesLeft, playbackOf, hp, hl]

/-- One playback replaced changes the entries held by as many as its own. -/
theorem poolHeld_setPlayback (p : Fin 8) (x : Playback) (s : Block) :
    poolHeld (setPlayback p x s) + (playbackOf s p).held = poolHeld s + x.held := by
  have h : ∀ q, (playbackOf (setPlayback p x s) q).held = if q = p then x.held else (playbackOf s q).held := by
    intro q
    by_cases e : q = p
    · subst e; simp
    · simp [e, playbackOf_setPlayback_ne]
  simp only [poolHeld, allPlaybacks, List.map_cons, List.map_nil, List.sum_cons, List.sum_nil, h]
  fin_cases p <;> simp <;> omega

@[simp] theorem poolAwaiting_setPlayback (p : Fin 8) (x : Playback) (s : Block) : poolAwaiting (setPlayback p x s) = poolAwaiting s := rfl

/-- A playback replaced by one that holds no more entries and the same reservation. -/
theorem poolStep_setPlayback {p : Fin 8} {x : Playback} {s : Block} (h : x.held ≤ (playbackOf s p).held)
    (r : x.reservation = (playbackOf s p).reservation) : PoolStep s (setPlayback p x s) := by
  have e := poolHeld_setPlayback p x s
  refine ⟨?_, fun q => ⟨?_, Nat.le_refl _⟩⟩
  · simp only [poolUsed, poolAwaiting_setPlayback]; omega
  · by_cases hq : q = p
    · subst hq; simp [r]
    · rw [playbackOf_setPlayback_ne _ _ _ _ hq]

/-- A playback's update that keeps what it holds, whatever it was. -/
theorem poolStep_field (p : Fin 8) (f : Playback → Playback) (s : Block)
    (h : ∀ x : Playback, (f x).entries = x.entries ∧ (f x).incoming = x.incoming ∧ (f x).reservation = x.reservation) :
    PoolStep s (modPlayback p f s) := by
  obtain ⟨e, i, r⟩ := h (playbackOf s p)
  refine poolStep_setPlayback (x := f (playbackOf s p)) ?_ r
  simp only [Playback.held, e, i, r, Nat.le_refl]

theorem poolAwaiting_edit (p : Fin 8) (freed : Nat) (s : Block) : poolAwaiting (edit p freed s) ≤ poolAwaiting s + freed := by
  unfold poolAwaiting
  rw [edit_mixer]
  split <;> simp

@[simp] theorem entriesLeft_edit (p q : Fin 8) (freed : Nat) (s : Block) : entriesLeft (edit p freed s) q = entriesLeft s q := by
  rw [edit_eq]; rfl

/-- A playback replaced by an edit that frees what the playback no longer holds (R41). -/
theorem poolStep_edit {p : Fin 8} {x : Playback} {s : Block} {freed : Nat} (h : x.held + freed ≤ (playbackOf s p).held)
    (r : x.reservation = (playbackOf s p).reservation) : PoolStep s (edit p freed (setPlayback p x s)) := by
  have e := poolHeld_setPlayback p x s
  have a := poolAwaiting_edit p freed (setPlayback p x s)
  have k := poolStep_setPlayback (s := s) (x := x) (p := p) (by omega) r
  refine ⟨?_, fun q => ?_⟩
  · simp only [poolUsed, poolHeld, playbackOf_edit] at e a ⊢
    simp only [poolAwaiting_setPlayback] at a
    omega
  · simpa using k.2 q


/-! ### The playbacks (R7, R10, R16, R17, R20 to R24) -/

theorem poolStep_ask (c : Client) (k : TenureKind) (s : Block) : PoolStep s (ask c k s) :=
  .of_same (by simp) (by simp) (by simp)

theorem poolStep_raiseInt (src : IntSource) (s : Block) : PoolStep s (raiseInt src s) := .of_same rfl rfl rfl

theorem poolStep_complete (i : Fin 32) (code : ResultCode) (v1 v2 v3 : Word) (s : Block) : PoolStep s (complete i code v1 v2 v3 s) :=
  .of_same (by simp) (by simp) (by simp)

theorem poolStep_completeOrigin (o : Origin) (code : ResultCode) (v1 v2 : Word) (s : Block) :
    PoolStep s (completeOrigin o code v1 v2 s) := .of_same (by simp) (by simp) (by simp)

/-- Jobs that join or leave the loader queue use no entries. -/
theorem poolStep_queue (q : List LoadJob) (s : Block) : PoolStep s { s with loader := { s.loader with queue := q } } := ⟨Nat.le_refl _, fun _ => ⟨rfl, Nat.le_refl _⟩⟩

/-- A current job whose stage is not ENTRIES has nothing left to read (R55). -/
theorem poolStep_current (c : Option CurrentLoad) (h : ∀ x, c = some x → x.entriesLeft = 0) (q : List LoadJob) (n m : Nat) (s : Block) :
    PoolStep s { s with loader := ⟨q, c, n, m⟩ } := by
  refine ⟨Nat.le_refl _, fun p => ⟨rfl, ?_⟩⟩
  cases c with
  | none => exact Nat.zero_le _
  | some x =>
    simp only [entriesLeft, h x rfl, ite_self]
    exact Nat.zero_le _

theorem poolStep_takeLoadJob (s : Block) : PoolStep s (takeLoadJob s) := by
  unfold takeLoadJob
  split
  · exact .refl s
  · split
    · refine .trans ?_ (poolStep_ask _ _ _)
      refine .trans ?_ (poolStep_field _ _ _ fun x => ⟨rfl, rfl, rfl⟩)
      exact poolStep_current _ (fun x h => by cases h; rfl) _ _ _ s
    · exact .refl s

theorem poolStep_submitLoad (p : Fin 8) (bank : Nat) (search : Search) (s : Block) : PoolStep s (submitLoad p bank search s) := by
  unfold submitLoad
  refine .trans ?_ (poolStep_takeLoadJob _)
  refine .trans ?_ (poolStep_field _ _ _ fun x => ⟨rfl, rfl, rfl⟩)
  exact poolStep_queue _ s

theorem poolStep_followEnd (p : Fin 8) (s : Block) : PoolStep s (followEnd p s) := by
  unfold followEnd
  dsimp only
  split
  · exact poolStep_setPlayback (by simp only [Playback.held, Nat.le_refl]) rfl
  · exact PoolStep.trans (t := setPlayback p { playbackOf s p with follow := none } s)
      (poolStep_setPlayback (by simp only [Playback.held, Nat.le_refl]) rfl) (.of_same rfl rfl rfl)

theorem poolStep_followIfDue (p : Fin 8) (s : Block) : PoolStep s (followIfDue p s) := by
  unfold followIfDue
  split
  · exact poolStep_followEnd p s
  · exact .refl s

theorem settledSet_length (entries : List SetEntry) : (settledSet entries).length ≤ entries.length := by
  simpa [settledSet] using List.length_filter_le _ _

theorem releaseSet_length (tm : FadeTiming) (now : Time) (old : List SetEntry) : (releaseSet tm now old).length = old.length := by
  simp [releaseSet]

theorem poolStep_fadeEnds (p : Fin 8) (s : Block) : PoolStep s (fadeEnds p s) := by
  unfold fadeEnds
  dsimp only
  split
  · refine .trans ?_ (poolStep_followIfDue p _)
    refine .trans ?_ (poolStep_raiseInt _ _)
    refine poolStep_edit ?_ rfl
    have := settledSet_length (playbackOf s p).entries
    simp only [Playback.held, Playback.toHolding]
    omega
  · refine .trans ?_ (poolStep_raiseInt _ _)
    refine poolStep_edit ?_ rfl
    simp only [Playback.held, Playback.toIdle, List.length_nil]
    omega
  · exact .refl s

theorem poolStep_fadeEndIfDue (p : Fin 8) (s : Block) : PoolStep s (fadeEndIfDue p s) := by
  unfold fadeEndIfDue
  split
  · exact poolStep_fadeEnds p s
  · exact .refl s

theorem poolStep_finishHead (p : Fin 8) (code : ResultCode) (v1 v2 : Word) (s : Block) : PoolStep s (finishHead p code v1 v2 s) := by
  unfold finishHead
  split
  · refine .trans ?_ (poolStep_completeOrigin _ _ _ _ _)
    exact poolStep_field _ _ _ fun x => ⟨rfl, rfl, rfl⟩
  · exact .refl s

/-- An edit of a playback that keeps its entries. -/
theorem poolStep_edit_field {p : Fin 8} {x : Playback} {s : Block} (e : x.entries = (playbackOf s p).entries)
    (i : x.incoming = (playbackOf s p).incoming) (r : x.reservation = (playbackOf s p).reservation) :
    PoolStep s (edit p 0 (setPlayback p x s)) :=
  poolStep_edit (by simp only [Playback.held, e, i, r, Nat.add_zero, Nat.le_refl]) r

theorem poolStep_servePause (p : Fin 8) (s : Block) : PoolStep s (servePause p s) := by
  unfold servePause
  dsimp only
  split
  all_goals refine .trans ?_ (poolStep_finishHead _ _ _ _ _)
  all_goals first
    | exact .refl s
    | exact poolStep_edit_field rfl rfl rfl

theorem poolStep_serveResume (p : Fin 8) (s : Block) : PoolStep s (serveResume p s) := by
  unfold serveResume
  dsimp only
  split
  · refine .trans ?_ (poolStep_fadeEndIfDue p _)
    refine .trans ?_ (poolStep_finishHead _ _ _ _ _)
    exact poolStep_edit_field rfl rfl rfl
  · refine .trans ?_ (poolStep_fadeEndIfDue p _)
    refine .trans ?_ (poolStep_finishHead _ _ _ _ _)
    exact poolStep_edit_field rfl rfl rfl
  · refine .trans ?_ (poolStep_followIfDue p _)
    refine .trans ?_ (poolStep_finishHead _ _ _ _ _)
    exact poolStep_edit_field rfl rfl rfl
  · exact poolStep_finishHead _ _ _ _ _

theorem poolStep_serveLoad (p : Fin 8) (choice : Option (Nat × Search)) (s : Block) : PoolStep s (serveLoad p choice s) := by
  have disarmed : PoolStep s (modPlayback p (fun x => { x with follow := none }) s) := poolStep_field _ _ _ fun x => ⟨rfl, rfl, rfl⟩
  unfold serveLoad
  dsimp only
  split
  · exact .trans disarmed (poolStep_finishHead _ _ _ _ _)
  · split
    · exact .trans disarmed (poolStep_submitLoad _ _ _ _)
    · exact .trans disarmed (poolStep_finishHead _ _ _ _ _)

theorem poolStep_serveHead (p : Fin 8) (s : Block) : PoolStep s (serveHead p s) := by
  unfold serveHead
  dsimp only
  split
  · exact .refl s
  · split
    · exact poolStep_serveLoad _ _ s
    · exact poolStep_serveLoad _ _ s
    · exact poolStep_servePause p s
    · exact poolStep_serveResume p s

theorem poolStep_serveUpTo (n : Nat) (p : Fin 8) (s : Block) : PoolStep s (serveUpTo n p s) := by
  induction n generalizing s with
  | zero => exact .refl s
  | succ n ih =>
    unfold serveUpTo
    split
    · exact .trans (poolStep_serveHead p s) (ih _)
    · exact .refl s

theorem poolStep_serve (p : Fin 8) (s : Block) : PoolStep s (serve p s) := poolStep_serveUpTo _ p s

theorem poolStep_arriveQueued (p : Fin 8) (o : Origin) (k : QueuedKind) (s : Block) : PoolStep s (arriveQueued p o k s) := by
  unfold arriveQueued
  split
  · split
    · refine .trans ?_ (poolStep_serve p _)
      exact poolStep_field _ _ _ fun x => ⟨rfl, rfl, rfl⟩
    · unfold queueFull
      split
      · exact poolStep_complete _ _ _ _ _ s
      · exact .of_same rfl rfl rfl
      · exact .refl s
  · exact poolStep_completeOrigin _ _ _ _ s

theorem poolStep_cancelRequests (rs : List QueuedRequest) (s : Block) : PoolStep s (cancelRequests rs s) := by
  unfold cancelRequests
  induction rs generalizing s with
  | nil => exact .refl s
  | cons r rest ih => exact .trans (poolStep_completeOrigin r.origin .cancelled 0 0 s) (ih _)

theorem poolStep_markAbandoned (p : Fin 8) (s : Block) : PoolStep s (markAbandoned p s) := by
  unfold markAbandoned
  split
  · split
    · rename_i c hc _
      refine ⟨Nat.le_refl _, fun q => ⟨rfl, ?_⟩⟩
      simp only [entriesLeft, hc]
      exact Nat.le_refl _
    · exact .refl s
  · exact .refl s

theorem poolStep_abandonLoad (p : Fin 8) (s : Block) : PoolStep s (abandonLoad p s) := by
  unfold abandonLoad
  split
  · exact .refl s
  · refine .trans ?_ (poolStep_finishHead _ _ _ _ _)
    refine .trans ?_ (poolStep_field _ _ _ fun x => ⟨rfl, rfl, rfl⟩)
    exact poolStep_queue _ s
  · exact poolStep_markAbandoned p s

theorem poolStep_cancelAndAbandon (p : Fin 8) (s : Block) : PoolStep s (cancelAndAbandon p s) := by
  unfold cancelAndAbandon
  dsimp only
  refine .trans ?_ (poolStep_abandonLoad p _)
  refine .trans ?_ (poolStep_cancelRequests _ _)
  exact poolStep_setPlayback (by simp only [Playback.held, Nat.le_refl]) rfl

theorem poolStep_releaseBuild (p : Fin 8) (time : Option Nat) (s : Block) : PoolStep s (releaseBuild p time s) := by
  refine poolStep_edit ?_ rfl
  simp only [Playback.held, releaseSet_length, Nat.add_zero, Nat.le_refl]

theorem poolStep_arriveRelease (p : Fin 8) (o : Origin) (time : Option Nat) (s : Block) : PoolStep s (arriveRelease p o time s) := by
  have cleared : PoolStep s (modPlayback p (fun x => { x with follow := none }) (cancelAndAbandon p s)) := by
    refine .trans (poolStep_cancelAndAbandon p s) ?_
    exact poolStep_field _ _ _ fun x => ⟨rfl, rfl, rfl⟩
  unfold arriveRelease
  dsimp only
  split
  · split
    · exact .trans cleared (poolStep_completeOrigin _ _ _ _ _)
    · refine .trans ?_ (poolStep_completeOrigin _ _ _ _ _)
      refine .trans ?_ (poolStep_fadeEndIfDue p _)
      exact .trans cleared (poolStep_releaseBuild p _ _)
  · exact poolStep_completeOrigin _ _ _ _ s

theorem poolStep_arriveSetMaster (p : Fin 8) (slot : Fin 32) (level time : Word) (s : Block) :
    PoolStep s (arriveSetMaster p slot level time s) := by
  unfold arriveSetMaster
  split
  · refine .trans ?_ (poolStep_complete _ _ _ _ _ _)
    exact poolStep_edit_field rfl rfl rfl
  · exact poolStep_complete _ _ _ _ _ s

theorem poolStep_clearPlayback (p : Fin 8) (s : Block) : PoolStep s (clearPlayback p s) := by
  unfold clearPlayback
  dsimp only
  refine .trans (poolStep_cancelAndAbandon p s) (poolStep_edit ?_ rfl)
  simp only [Playback.held, List.length_nil]
  omega

theorem poolStep_clearPlaybacks (s : Block) : PoolStep s (clearPlaybacks s) := by
  unfold clearPlaybacks
  generalize allPlaybacks = ps
  induction ps generalizing s with
  | nil => exact .refl s
  | cons p rest ih => exact .trans (poolStep_clearPlayback p s) (ih _)

theorem putEntry_length (x : SetEntry) (entries : List SetEntry) : (putEntry x entries).length ≤ entries.length + 1 := by
  induction entries with
  | nil => simp [putEntry]
  | cons y ys ih => unfold putEntry; repeat' split
                    all_goals simp_all

/-- A crossfade build takes at most the old entries and the incoming ones into the set (R33). -/
theorem crossfadeSet_length (tm : FadeTiming) (now : Time) (stamp : Nat) (old : List SetEntry) (incoming : List IncomingEntry) :
    (crossfadeSet tm now stamp old incoming).length ≤ old.length + incoming.length := by
  have put : ∀ (f : IncomingEntry → SetEntry) (xs : List IncomingEntry) (acc : List SetEntry),
      (xs.foldl (fun acc x => putEntry (f x) acc) acc).length ≤ acc.length + xs.length := by
    intro f xs
    induction xs with
    | nil => simp
    | cons x rest ih =>
      intro acc
      have := ih (putEntry (f x) acc)
      have := putEntry_length (f x) acc
      simp only [List.foldl_cons, List.length_cons]
      omega
  have := put (fun x => takenEntry (startLevel tm now old x.channel) stamp x) incoming (old.map fun x => leavingEntry (fadeValue tm now x) x)
  rwa [List.length_map] at this

theorem poolStep_loadCompleted (p : Fin 8) (bank : Nat) (h : CueHeader) (s : Block) : PoolStep s (loadCompleted p bank h s) := by
  have stamped : PoolStep s { s with mixer := { s.mixer with takeStamp := nextStamp s.mixer.takeStamp } } := .of_same rfl rfl rfl
  have := crossfadeSet_length (playbackOf s p).timing s.time.clock s.mixer.takeStamp (playbackOf s p).entries (playbackOf s p).incoming
  unfold loadCompleted
  dsimp only
  refine .trans ?_ (poolStep_serve p _)
  refine .trans ?_ (poolStep_fadeEndIfDue p _)
  refine .trans ?_ (poolStep_finishHead _ _ _ _ _)
  refine .trans stamped (poolStep_edit ?_ rfl)
  simp only [Playback.held, Playback.crossfaded, List.length_nil, playbackOf] at this ⊢
  omega

theorem poolStep_loadEnded (p : Fin 8) (code : ResultCode) (s : Block) : PoolStep s (loadEnded p code s) := by
  unfold loadEnded
  refine .trans ?_ (poolStep_serve p _)
  refine .trans ?_ (poolStep_finishHead _ _ _ _ _)
  exact poolStep_field _ _ _ fun x => ⟨rfl, rfl, rfl⟩

theorem poolStep_masterSettles (p : Fin 8) (s : Block) : PoolStep s (masterSettles p s) := poolStep_edit_field rfl rfl rfl

/-! ### The cue loader (R29 to R31, R48 to R60) -/

/-- What the pool does when a playback's list and reservation are given up and the current job has nothing left to read (R31). -/
theorem poolInv_freed {s t : Block} {p : Fin 8} (i : poolUsed s ≤ Config.poolSize) (hp : t.playbacks = (freeLoad p s).playbacks)
    (hh : t.mixer.held = s.mixer.held) (left : ∀ q, entriesLeft t q = 0) : PoolInv t := by
  refine ⟨?_, fun q => by rw [left]; exact Nat.zero_le _⟩
  have e := poolHeld_setPlayback p { playbackOf s p with incoming := [], reservation := 0 } s
  have same : poolHeld t = poolHeld (freeLoad p s) := by simp only [poolHeld, playbackOf, hp]
  simp only [Playback.held, List.length_nil] at e
  simp only [poolUsed, poolAwaiting, hh, same] at i ⊢
  simp only [freeLoad, modPlayback_eq]
  omega

theorem entriesLeft_none {s : Block} (h : s.loader.current = none) (p : Fin 8) : entriesLeft s p = 0 := by simp [entriesLeft, h]

theorem entriesLeft_zero {s : Block} {c : CurrentLoad} (h : s.loader.current = some c) (z : c.entriesLeft = 0) (p : Fin 8) :
    entriesLeft s p = 0 := by simp [entriesLeft, h, z]

theorem poolInv_endUnfinished (c : CurrentLoad) (code : ResultCode) {s : Block} (i : poolUsed s ≤ Config.poolSize) :
    PoolInv (endUnfinished c code (freeLoad c.job.playback s)) := by
  refine ((poolStep_loadEnded _ _ _).trans (poolStep_takeLoadJob _)).inv ?_
  exact poolInv_freed i rfl rfl (entriesLeft_none rfl)

theorem poolInv_failLoad (c : CurrentLoad) (code : ResultCode) {s : Block} (i : poolUsed s ≤ Config.poolSize) : PoolInv (failLoad c code s) := by
  unfold failLoad
  dsimp only
  split
  · refine poolInv_freed (p := c.job.playback) i (by simp [enterUnlock, setCurrent]) (by simp [enterUnlock, setCurrent, freeLoad])
      (entriesLeft_zero (c := { c with failed := some (c.failed.getD code), stage := .unlock }) ?_ rfl)
    simp [enterUnlock, setCurrent]
  · exact poolInv_endUnfinished c code i

/-- A stage with nothing left to read (R55). -/
theorem poolInv_readBank (c : CurrentLoad) (stage : LoadStage) (k words : Nat) {s : Block} (i : PoolInv s)
    (z : ({ c with stage := stage } : CurrentLoad).entriesLeft = 0) : PoolInv (readBank c stage k words s) :=
  ((poolStep_current (some { c with stage := stage }) (fun x h => by cases h; exact z) s.loader.queue s.loader.stuck s.loader.sweeps s).trans
    (poolStep_ask _ _ _)).inv i

theorem poolInv_enterUnlock (c : CurrentLoad) {s : Block} (i : PoolInv s) : PoolInv (enterUnlock c s) :=
  ((poolStep_current (some { c with stage := .unlock }) (fun x h => by cases h; rfl) s.loader.queue s.loader.stuck s.loader.sweeps s).trans
    (poolStep_ask _ _ _)).inv i

theorem poolInv_lockDone (c : CurrentLoad) (value : Word) {s : Block} (i : PoolInv s) : PoolInv (lockDone c value s) := by
  unfold lockDone
  dsimp only
  repeat' split
  · exact poolInv_failLoad _ _ i.1
  · exact poolInv_readBank _ _ _ _ i rfl
  · exact poolInv_failLoad _ _ i.1
  · refine PoolStep.inv ?_ i
    unfold putBack
    dsimp only
    refine .trans ?_ (poolStep_takeLoadJob _)
    refine .trans (t := modPlayback c.job.playback (fun x => { x with load := .waiting }) s) ?_ ?_
    · exact poolStep_field _ _ _ fun x => ⟨rfl, rfl, rfl⟩
    · exact poolStep_current none (fun _ h => nomatch h) _ _ _ _
  · exact poolInv_failLoad _ _ i.1

theorem poolInv_countRead (c : CurrentLoad) (n : Nat) {s : Block} (i : PoolInv s) : PoolInv (countRead c n s) := by
  unfold countRead
  repeat' split
  · exact poolInv_failLoad _ _ i.1
  · exact poolInv_failLoad _ _ i.1
  · exact poolInv_readBank _ _ _ _ i rfl

theorem poolInv_directoryRead (c : CurrentLoad) (count position : Nat) (words : List Word) {s : Block} (i : PoolInv s) :
    PoolInv (directoryRead c count position words s) := by
  unfold directoryRead
  split
  · split
    · split
      · exact poolInv_failLoad _ _ i.1
      · exact poolInv_readBank _ _ _ _ i rfl
    · exact poolInv_failLoad _ _ i.1
  · dsimp only
    split
    · exact poolInv_readBank _ _ _ _ i rfl
    · exact poolInv_failLoad _ _ i.1

/-- A reservation that the free entries can give, for a job that has at most so many entries to read (R30). -/
theorem poolInv_reserve {s : Block} (d : CurrentLoad) (count : Nat) (i : PoolInv s) (fits : count ≤ poolFree s)
    (left : d.entriesLeft ≤ count) :
    PoolInv (setCurrent d (modPlayback d.job.playback (fun x => { x with reservation := count }) s)) := by
  have e := poolHeld_setPlayback d.job.playback { playbackOf s d.job.playback with reservation := count } s
  have used := i.1
  refine ⟨?_, fun q => ?_⟩
  · have held : poolHeld (setCurrent d (modPlayback d.job.playback (fun x => { x with reservation := count }) s))
        = poolHeld (setPlayback d.job.playback { playbackOf s d.job.playback with reservation := count } s) := rfl
    have awaiting : poolAwaiting (setCurrent d (modPlayback d.job.playback (fun x => { x with reservation := count }) s))
        = poolAwaiting s := rfl
    simp only [Playback.held] at e
    simp only [poolUsed, held, awaiting, poolFree] at used fits ⊢
    omega
  · by_cases hq : d.job.playback = q
    · subst hq
      simpa [entriesLeft, setCurrent, playbackOf] using left
    · simp [entriesLeft, setCurrent, hq]

/-- The reservation of a cue's entries comes out of the free entries (R30). -/
theorem poolInv_headerRead (c : CurrentLoad) (number offset : Nat) (words : List Word) {s : Block} (i : PoolInv s) :
    PoolInv (headerRead c number offset words s) := by
  unfold headerRead
  split
  · exact poolInv_failLoad _ _ i.1
  · rename_i h _
    dsimp only
    split
    · rename_i fits
      split
      · exact (poolStep_ask _ _ _).inv (poolInv_reserve { c with header := some h, stage := .unlock } h.count i fits (Nat.zero_le _))
      · exact (poolStep_ask _ _ _).inv
          (poolInv_reserve { c with header := some h, stage := .entries offset 0 } h.count i fits (by simp [CurrentLoad.entriesLeft]))
    · exact poolInv_failLoad _ _ i.1

/-- A list in strictly ascending channel order (R29). -/
def Ascending (xs : List IncomingEntry) : Prop := (xs.map IncomingEntry.channel).Pairwise (· < ·)

theorem mem_putIncoming {e x : IncomingEntry} {xs : List IncomingEntry} (h : x ∈ putIncoming e xs) : x = e ∨ x ∈ xs := by
  induction xs with
  | nil => simpa [putIncoming] using h
  | cons y ys ih =>
    unfold putIncoming at h
    split at h
    · simpa using h
    · split at h
      · rcases List.mem_cons.1 h with h | h
        · exact .inl h
        · exact .inr (List.mem_cons_of_mem _ h)
      · rcases List.mem_cons.1 h with h | h
        · exact .inr (h ▸ List.mem_cons_self)
        · exact (ih h).imp_right (List.mem_cons_of_mem _)

/-- An entry put in its place keeps the order, and lengthens the list only when its channel is new (R29). -/
theorem putIncoming_ascending (e : IncomingEntry) (xs : List IncomingEntry) (h : Ascending xs) :
    Ascending (putIncoming e xs)
      ∧ (putIncoming e xs).length = xs.length + if xs.any (fun y => y.channel == e.channel) then 0 else 1 := by
  induction xs with
  | nil => simp [putIncoming, Ascending]
  | cons y ys ih =>
    simp only [Ascending, List.map_cons, List.pairwise_cons, List.forall_mem_map] at h
    unfold putIncoming
    split
    · rename_i lt
      have none : (y :: ys).any (fun z => z.channel == e.channel) = false := by
        simp only [List.any_cons, Bool.or_eq_false_iff, beq_eq_false_iff_ne, List.any_eq_false, beq_iff_eq]
        exact ⟨ne_of_gt lt, fun z hz => ne_of_gt (lt_trans lt (h.1 z hz))⟩
      refine ⟨?_, by simp [none]⟩
      simp only [Ascending, List.map_cons, List.pairwise_cons, List.forall_mem_map, List.forall_mem_cons]
      exact ⟨⟨lt, fun z hz => lt_trans lt (h.1 z hz)⟩, h.1, h.2⟩
    · split
      · rename_i same
        refine ⟨?_, by simp [same]⟩
        simp only [Ascending, List.map_cons, List.pairwise_cons, List.forall_mem_map, same]
        exact h
      · rename_i ge ne
        have lt : y.channel < e.channel := lt_of_le_of_ne (not_lt.1 ge) (Ne.symm ne)
        have ih := ih h.2
        refine ⟨?_, ?_⟩
        · simp only [Ascending, List.map_cons, List.pairwise_cons, List.forall_mem_map]
          refine ⟨fun z hz => ?_, ih.1⟩
          rcases mem_putIncoming hz with rfl | hz
          · exact lt
          · exact h.1 z hz
        · have : (y.channel == e.channel) = false := by simpa using ne_of_lt lt
          simp only [List.length_cons, List.any_cons, this, Bool.false_or, ih.2]
          omega

/-- One word taken: a new channel turns a reserved entry into an incoming one (R29). -/
theorem insertIncoming_held (x : Playback) (e : IncomingEntry) (h : 1 ≤ x.reservation) (a : Ascending x.incoming) :
    (insertIncoming x e).held = x.held ∧ x.reservation - 1 ≤ (insertIncoming x e).reservation
      ∧ Ascending (insertIncoming x e).incoming := by
  have put := putIncoming_ascending e x.incoming a
  refine ⟨?_, ?_, put.1⟩
  · simp only [insertIncoming, Playback.held, put.2]
    split <;> omega
  · simp only [insertIncoming]
    split <;> omega

/-- Words taken while each has a reserved entry leave as many entries in use, and use at most one reserved entry each (R29, R55). -/
theorem takeEntries_held (words : List Word) (x : Playback) (h : words.length ≤ x.reservation) (a : Ascending x.incoming) :
    (takeEntries x words).1.held = x.held ∧ x.reservation - words.length ≤ (takeEntries x words).1.reservation
      ∧ Ascending (takeEntries x words).1.incoming := by
  induction words generalizing x with
  | nil => exact ⟨rfl, Nat.le_refl _, a⟩
  | cons w rest ih =>
    unfold takeEntries
    simp only [List.length_cons] at h ⊢
    split
    · rename_i e _
      have one := insertIncoming_held x e (by omega) a
      have := ih (insertIncoming x e) (by omega) one.2.2
      exact ⟨by omega, by omega, this.2.2⟩
    · exact ⟨rfl, Nat.sub_le _ _, a⟩

/-- A job goes on with a playback replaced by one that holds no more, and has a reserved entry for each that is left to read. -/
theorem poolInv_goesOn {s : Block} {x : Playback} (d : CurrentLoad) (k : TenureKind) (i : PoolInv s)
    (h : x.held ≤ (playbackOf s d.job.playback).held) (left : d.entriesLeft ≤ x.reservation) :
    PoolInv (ask .loader k (setCurrent d (setPlayback d.job.playback x s))) := by
  have e := poolHeld_setPlayback d.job.playback x s
  have used := i.1
  refine (poolStep_ask _ _ _).inv ⟨?_, fun q => ?_⟩
  · have held : poolHeld (setCurrent d (setPlayback d.job.playback x s)) = poolHeld (setPlayback d.job.playback x s) := rfl
    have awaiting : poolAwaiting (setCurrent d (setPlayback d.job.playback x s)) = poolAwaiting s := rfl
    simp only [poolUsed, held, awaiting] at used ⊢
    omega
  · by_cases hq : d.job.playback = q
    · subst hq
      simpa [entriesLeft, setCurrent, playbackOf] using left
    · simp [entriesLeft, setCurrent, hq]

/-- The entries of a burst keep the pool's bound, and those still to be read keep their reserved entries (R29, R55). -/
theorem poolInv_entriesRead (c : CurrentLoad) (offset position : Nat) (words : List Word) {s : Block} (i : PoolInv s)
    (h : s.loader.current = some c) (stage : c.stage = .entries offset position)
    (a : Ascending (playbackOf s c.job.playback).incoming) : PoolInv (entriesRead c offset position words s) := by
  have left : (c.header.map CueHeader.count).getD 0 - position ≤ (playbackOf s c.job.playback).reservation := by
    have := i.2 c.job.playback
    simpa only [entriesLeft, h, if_true, CurrentLoad.entriesLeft, stage] using this
  have short : (words.take ((c.header.map CueHeader.count).getD 0 - position)).length ≤ (playbackOf s c.job.playback).reservation := by
    rw [List.length_take]; omega
  have taken := takeEntries_held _ _ short a
  rw [List.length_take] at taken
  unfold entriesRead
  dsimp only
  split
  · split
    · rename_i more
      refine poolInv_goesOn { c with stage := .entries offset (position + words.length) } _ i (Nat.le_of_eq taken.1) ?_
      simp only [CurrentLoad.entriesLeft]
      omega
    · exact poolInv_goesOn { c with stage := .unlock } _ i (Nat.le_of_eq taken.1) (Nat.zero_le _)
  · refine poolInv_failLoad _ _ ?_
    have used := i.1
    have e := poolHeld_setPlayback c.job.playback
      (takeEntries (playbackOf s c.job.playback) (words.take ((c.header.map CueHeader.count).getD 0 - position))).1 s
    simp only [poolUsed, poolAwaiting_setPlayback] at used ⊢
    omega

/-- The report of a finished job leaves the pool in order, when the job's reservation is given up. -/
theorem poolInv_unlockDone (c : CurrentLoad) {s : Block} (i : PoolInv s) : PoolInv (unlockDone c s) := by
  unfold unlockDone
  split
  · refine PoolStep.inv (.trans (poolStep_loadCompleted _ _ _ _) (poolStep_takeLoadJob _)) ⟨?_, fun q => by simp [entriesLeft]⟩
    have e := poolHeld_setPlayback c.job.playback { playbackOf s c.job.playback with reservation := 0 } s
    have used := i.1
    simp only [Playback.held] at e
    have held : poolHeld { modPlayback c.job.playback (fun x => { x with reservation := 0 }) s with
          loader := { (modPlayback c.job.playback (fun x => { x with reservation := 0 }) s).loader with current := none } }
        = poolHeld (setPlayback c.job.playback { playbackOf s c.job.playback with reservation := 0 } s) := rfl
    have awaiting : poolAwaiting { modPlayback c.job.playback (fun x => { x with reservation := 0 }) s with
          loader := { (modPlayback c.job.playback (fun x => { x with reservation := 0 }) s).loader with current := none } }
        = poolAwaiting s := rfl
    simp only [poolUsed] at used
    simp only [poolUsed, held, awaiting]
    omega
  · exact poolInv_endUnfinished c _ i.1

theorem poolInv_loaderDone (words : List Word) {s : Block} (i : PoolInv s) (a : ∀ p, Ascending (playbackOf s p).incoming) :
    PoolInv (loaderDone words s) := by
  unfold loaderDone
  split
  · exact i
  · rename_i c h
    split
    · exact poolInv_lockDone c _ i
    · exact poolInv_unlockDone c i
    · split
      · exact poolInv_failLoad c _ i.1
      · exact poolInv_countRead c _ i
    · split
      · exact poolInv_failLoad c _ i.1
      · exact poolInv_directoryRead c _ _ _ i
    · split
      · exact poolInv_failLoad c _ i.1
      · exact poolInv_headerRead c _ _ _ i
    · split
      · exact poolInv_failLoad c _ i.1
      · rename_i offset position stage _
        exact poolInv_entriesRead c offset position words i h stage (a _)

theorem poolInv_loaderFault (read : Bool) {s : Block} (i : PoolInv s) : PoolInv (loaderFault read s) := by
  unfold loaderFault
  split
  · exact i
  · rename_i c h
    have stuck : poolUsed (countStuck s) ≤ Config.poolSize := i.1
    split
    · split
      · exact poolInv_endUnfinished c _ stuck
      · exact poolInv_endUnfinished c _ i.1
    · exact poolInv_endUnfinished c _ stuck
    · exact poolInv_failLoad c _ i.1
    · exact poolInv_failLoad c _ i.1
    · exact poolInv_failLoad c _ i.1
    · exact poolInv_failLoad c _ i.1

theorem poolStep_haltJobs (jobs : List LoadJob) (s : Block) : PoolStep s (haltJobs jobs s) := by
  unfold haltJobs
  induction jobs generalizing s with
  | nil => exact .refl s
  | cons j rest ih => exact .trans (poolStep_loadEnded j.playback .busFault s) (ih _)

theorem poolInv_loaderHalt {s : Block} (i : PoolInv s) : PoolInv (loaderHalt s) := by
  have jobs : PoolInv (haltJobs s.loader.queue { s with loader := { s.loader with queue := [] } }) :=
    PoolStep.inv (.trans (poolStep_queue [] s) (poolStep_haltJobs _ _)) i
  unfold loaderHalt haltCurrent
  split
  · exact jobs
  · rename_i c _
    refine (poolStep_loadEnded _ _ _).inv ?_
    dsimp only
    split
    · exact poolInv_freed (p := c.job.playback) jobs.1 rfl rfl (entriesLeft_none rfl)
    · exact poolInv_freed (p := c.job.playback) jobs.1 rfl rfl (entriesLeft_none rfl)

theorem poolStep_loaderBoundary (s : Block) : PoolStep s (loaderBoundary s) := by
  unfold loaderBoundary
  refine .trans ?_ (poolStep_takeLoadJob _)
  exact poolStep_queue _ s

/-- A mix-complete frees the entries that awaited landing (R41). -/
theorem poolStep_mixCompletes (latch : PassLatch) (s : Block) : PoolStep s (mixCompletes latch s) := by
  have ends : PoolStep s (passEnds latch s) := by
    refine ⟨?_, fun p => ⟨rfl, Nat.le_refl _⟩⟩
    have held : poolHeld (passEnds latch s) = poolHeld s := rfl
    have landed : poolAwaiting (passEnds latch s) = 0 := rfl
    simp only [poolUsed, held, landed]
    omega
  unfold mixCompletes
  generalize passEnds latch s = t at ends
  generalize allLines = ls
  induction ls generalizing t with
  | nil => exact ends
  | cons l rest ih => exact ih (commit l t) (.trans ends (.of_same (by simp) (by simp) (by simp)))

end Sys2Proof.Machine
end

