-- ==== Sys2Proof/Tests/Slice0.lean ====
section
/-! SUPPORT. Own tests: an ill-formed term for each check of WellFormed, a state and operands that meet the hypotheses of each
statement, and one small step for the commands. -/

namespace Sys2Proof.Tests

open Sys2Proof Sys2Proof.Machine

-- One theorem at a time: a `decide +kernel` that waits for the theorem before it would hold a thread.
set_option Elab.async false

/-! ### WellFormed refuses -/

theorem test_wf_resets : (Instr.coldReset 17).wellFormed = false ∧ (Instr.resetPin 17).wellFormed = false
    ∧ (Instr.softReset 0x100 17).wellFormed = false ∧ (Instr.softReset 0x001 0).wellFormed = false
    ∧ (Instr.softReset 0x100 16).wellFormed = true := by decide

theorem test_wf_control : (Instr.runSet 0).wellFormed = false ∧ (Instr.runSet 0x101).wellFormed = false
    ∧ (Instr.runClear ⟨1, 0⟩).wellFormed = false ∧ (Instr.runClear ⟨0x100, 0⟩).wellFormed = false
    ∧ (Instr.runClear ⟨0, 16⟩).wellFormed = false ∧ (Instr.runClear ⟨0, 15⟩).wellFormed = true
    ∧ (Instr.controlBlackout ⟨0x100, 0⟩).wellFormed = false ∧ (Instr.controlHold ⟨0x100, 0⟩).wellFormed = false
    ∧ (Instr.controlWait ⟨0x100, 0⟩).wellFormed = false ∧ (Instr.controlBlackout ⟨0, 16⟩).wellFormed = false
    ∧ (Instr.controlHold ⟨0, 16⟩).wellFormed = false ∧ (Instr.controlWait ⟨0, 16⟩).wellFormed = false ∧ (Instr.runSet 1).wellFormed = true := by decide

theorem test_wf_registers : (Instr.registerWriteOther 0x0C 0).wellFormed = false
    ∧ (Instr.registerWriteOther 0x00 0).wellFormed = true ∧ (Instr.registerWriteOther 0x1C 0).wellFormed = true := by decide

theorem test_wf_boundary : (Instr.frameBoundary []).wellFormed = false
    ∧ (Instr.frameBoundary (BoundaryTaker.mixer :: BoundaryTaker.all.drop 2 ++ [.mixer])).wellFormed = false
    ∧ (Instr.frameBoundary BoundaryTaker.all.reverse).wellFormed = true := by decide

theorem test_wf_port : (Instr.mgntGrant [(2, 0)]).wellFormed = false ∧ (Instr.mgntGrant [(4, 0)]).wellFormed = true
    ∧ (Instr.readyTimeout 16 true).wellFormed = false ∧ (Instr.busError 16 true).wellFormed = false
    ∧ (Instr.tenureEnded 17).wellFormed = false := by decide

/-! ### Small states -/

/-- RUNNING with the clocks ready, a post table of 32 slots at 0x1000, one bank at 0x8000. -/
def running : Block := { Block.reset with
  control := ⟨true, false, false, 3⟩
  engine := ⟨.running, .powerOn, .none, .released, .idle, false⟩
  anchor := ⟨0x1000, 32, 0x4000, 1, 0x8000 :: List.replicate 15 0⟩
  time := ⟨true, 1000, ⟨25000, 1, 40⟩, none, 25000, 7⟩ }

/-- The same with the engine in another state. -/
def inState (e : EngineState) : Block := { running with engine := { running.engine with state := e } }

/-- RUNNING with playback 0 replaced, and the mixer's view of it. -/
def withPlayback (x : Playback) : Block :=
  { running with playbacks := setAt running.playbacks 0 x, mixer := { running.mixer with views := setAt running.mixer.views 0 x.view } }

/-- RUNNING with line 0 replaced. -/
def withLine (x : Line) : Block := { running with lines := setAt running.lines 0 x }

/-- RUNNING with trigger 0 replaced. -/
def withTrigger (g : Trigger) : Block := { running with triggers := setAt running.triggers 0 g }

/-- RUNNING with a tenure in hand. -/
def withTenure (st : PortState) (c : Client) (k : TenureKind) : Block :=
  { running with port := { running.port with state := st, current := some ⟨c, k, 0, none⟩ } }

/-- RUNNING with a pass running. -/
def mixing : Block := { running with mixer := { running.mixer with pass := some ⟨990, 65535, false, [], false⟩ } }

/-- The part with its tenure waiting for its grant. -/
def requested (b : Block) : Block := { b with port := { b.port with state := .requesting } }

/-- The part after a command that goes on. -/
def after (c : Instr) (b : Block) : Block :=
  match exec c ⟨b, []⟩ with
  | .next t => t.block
  | .fault _ => b
  | .refused _ => b

/-- A playback that fades channel 3 from 0 to 60000 over 2,000 ms from show time 0. -/
def fading : Playback := { Playback.reset with
  fade := .fading
  entries := [⟨3, 0, 60000, .up, 1, false⟩]
  timing := ⟨0, 0, 2000, 2000, 2000, none⟩
  lastCue := some ⟨0, 10, .manual, 0, 500, 3000⟩ }

/-- A talkback line. -/
def talking : Line := { Line.reset with config := ⟨.send, .slow, 256, true, 0, 1000, .hold⟩ }

/-- A query of slot 5 in flight at a stage. -/
def flight (st : QueryStage) (taken : List Byte) : InFlight := ⟨⟨5, 0x0102, 7, [], 0x9000⟩, st, 0, taken, false, false⟩

/-- A receiving line. -/
def receivingLine (rx : Receiver) (st : LineStaging) : Line :=
  { Line.reset with config := ⟨.receive, .slow, 256, false, 0, 1000, .hold⟩, rx := rx, staging := st }


/-- A part in which a request can come from a slot: `CanCome` without its quantifier over scanner steps. -/
theorem canCome_of {slot : Fin 32} {b : Block}
    (h : b.engine.phase = .released ∧ b.engine.state = .running ∧ slot.val < b.anchor.slots ∧ slot ∉ b.results.reserved
      ∧ (∀ c ∈ b.results.queue, c.slot ≠ slot) ∧ b.scanner.step = .idle) : CanCome slot b :=
  ⟨h.1, h.2.1, h.2.2.1, h.2.2.2.1, h.2.2.2.2.1, by rw [h.2.2.2.2.2]; intros; simp⟩

/-- The queue of results after a command. -/
def resultsAfter (c : Instr) (b : Block) : List Completion := (after c b).results.queue

theorem test_canCome_at_both_ends : CanCome 0 running ∧ CanCome 31 running
    ∧ CanCome 31 (withPlayback fading) ∧ CanCome 31 (withLine talking) ∧ CanCome 31 mixing :=
  ⟨canCome_of (by decide), canCome_of (by decide), canCome_of (by decide), canCome_of (by decide), canCome_of (by decide)⟩

/-! ### The queue, completions, registers -/

theorem test_step_front_and_idle :
    step ⟨running, [.nudge 0, .clockReady]⟩ = exec (.nudge 0) ⟨running, [.clockReady]⟩
      ∧ step ⟨running, []⟩ = .next ⟨running, []⟩ := ⟨rfl, rfl⟩

/-- A part with a reservation for slot 31, the writer at a step and the engine in a state. -/
def reserved31 (e : EngineState) (w : WriterStep) : Block := { inState e with results := ⟨[], [31], w⟩ }

theorem test_complete_clauses :
    complete 31 .ok 1 2 3 running = running
    ∧ (complete 31 .ok 1 2 3 (reserved31 .halted .idle)).results = ⟨[], [], .idle⟩
    ∧ (complete 31 .ok 1 2 3 (reserved31 .running .idle)).results = ⟨[⟨31, .ok, 1, 2, 3⟩], [], .values⟩
    ∧ (complete 31 .ok 1 2 3 (reserved31 .stopping .idle)).results = ⟨[⟨31, .ok, 1, 2, 3⟩], [], .values⟩
    ∧ (complete 31 .ok 1 2 3 (reserved31 .running .waiting)).results = ⟨[⟨31, .ok, 1, 2, 3⟩], [], .waiting⟩ := by
  refine ⟨rfl, ?_⟩; decide

theorem test_resets :
    running.engine.phase ≠ .cold ∧ running.engine.phase = .released ∧ running.port.state ≠ .transferring
    ∧ (after (.coldReset 0) running).engine.phase = .cold
    ∧ (after (.resetPin 16) running).engine.cause = .pin ∧ (after (.softReset 0x100 16) running).engine.cause = .soft
    ∧ (after (.resetPin 0) running).time.inForce = running.time.inForce := by decide

theorem test_reset_release :
    let b : Block := { running with engine := { running.engine with phase := .warm } }
    b.engine.phase ≠ .released ∧ b.time.ready = true ∧ (after .resetRelease b).engine.phase = .released
    ∧ (let c : Block := { Block.reset with engine := { Block.reset.engine with phase := .cold } }
       c.engine.phase ≠ .released ∧ c.time.ready = false ∧ (after .resetRelease c).time = c.time) := by decide

theorem test_clock_ready :
    let b : Block := { Block.reset with control := ⟨true, false, false, 0⟩ }
    b.engine.phase = .released ∧ b.time.ready = false ∧ b.engine.state = .stopped ∧ b.control.run = true
    ∧ (after .clockReady b).engine.state = .starting
    ∧ Block.reset.control.run = false ∧ (after .clockReady .reset).engine.state = .stopped := by decide

theorem test_control_rows :
    (after (.controlBlackout ⟨3, 0⟩) running).control = ⟨true, true, false, 0⟩
    ∧ (after (.controlHold ⟨5, 0⟩) (inState .starting)).control = ⟨true, false, true, 0⟩
    ∧ (after (.controlWait ⟨0x71, 0⟩) (inState .halted)).control = ⟨true, false, false, 7⟩
    ∧ (after (.controlWait ⟨0x70, 0⟩) (inState .stopping)).control = ⟨false, false, false, 7⟩
    ∧ (after (.controlBlackout ⟨2, 0⟩) (inState .stopped)).control = ⟨false, true, false, 0⟩ := by decide

theorem test_run_set :
    (inState .stopped).time.ready = true ∧ (inState .stopped).port.state = .idle ∧ (inState .stopped).port.nextClient = none
    ∧ (after (.runSet 1) (inState .stopped)).engine.state = .starting
    ∧ (after (.runSet 1) .reset).engine.state = .stopped ∧ (after (.runSet 1) running).engine.state = .running := by decide

theorem test_run_clear_running :
    let b := withPlayback { fading with queue := [⟨.post 3, .pause⟩], load := .waiting }
    b.engine.state = .running ∧ (playbackOf (after (.runClear ⟨0, 0⟩) b) 0).fade = .idle
    ∧ (after (.runClear ⟨0, 0⟩) b).engine.state = .stopping ∧ (after (.runClear ⟨0, 0⟩) b).store.hold = true := by decide +kernel

/-- STARTING with an anchor read requested or under way, no word of it done. -/
def startingPart (p : PortState) (run aborting : Bool) : Block :=
  { inState .starting with
    control := ⟨run, false, false, 0⟩
    engine := ⟨.starting, .powerOn, .none, .released, .anchor [], aborting⟩
    port := { Port.reset with state := p, current := some ⟨.scanner, .read 0x2000 16, 0, none⟩ } }

theorem test_aborted_starts :
    (after (.runClear ⟨0, 0⟩) (startingPart .requesting true false)).engine.state = .stopped
    ∧ (after (.runClear ⟨0, 0⟩) (startingPart .requesting true false)).port.state = .idle
    ∧ (after (.runClear ⟨0, 0⟩) (startingPart .transferring true false)).engine.aborting = true
    ∧ (after (.tenureEnded 1) (startingPart .transferring false true)).engine.state = .stopped
    ∧ (after (.tenureEnded 1) (startingPart .transferring true true)).engine.state = .starting
    ∧ (startingPart .transferring true true).time.ready = true := by decide

theorem test_run_clear_halted :
    (inState .halted).engine.phase = .released ∧ (after (.runClear ⟨0, 0⟩) (inState .halted)).engine.state = .stopped
    ∧ (after (.runClear ⟨0, 0⟩) (inState .halted)).results.queue = [] := by decide +kernel

theorem test_drained :
    let b : Block := { inState .stopping with control := ⟨false, false, false, 0⟩ }
    drained b = true ∧ b.control.run = false ∧ (after .stoppingDrained b).engine.state = .stopped
    ∧ drained (inState .stopping) = true ∧ (after .stoppingDrained (inState .stopping)).engine.state = .starting := by decide

theorem test_register_writes :
    (after (.anchorWrite 0x2000) .reset).anchorReg = 0x2000 ∧ (after (.anchorWrite 0x2000) running).anchorReg = 0
    ∧ (after (.registerWriteOther 0x1C 7) running).control = running.control
    ∧ (after (.intstatusWrite 0x3F) (raiseInt .fault running)).intStatus = 0
    ∧ (after (.intstatusWrite 0x3F) (raiseInt .fault (inState .halted))).intStatus = 0x20
    ∧ irqPin (after (.intmaskWrite 0x20) (raiseInt .fault running)) = true := by decide

theorem test_nudge :
    (after (.nudge 0) running).scanner.step = .row []
    ∧ (after (.nudge 0) { running with scanner := ⟨.row [], false, 1⟩ }).scanner.scanPending = true
    ∧ (after (.nudge 0) (inState .stopping)).scanner.step = .idle := by decide

/-! ### Time, boundaries and passes -/

theorem test_tick :
    clocked running = true ∧ (after .millisecondBaseTick running).time.clock = 1001
    ∧ (after .millisecondBaseTick { running with time := { running.time with clock := 0xFFFFFFFF } }).time.clock = 0
    ∧ clocked Block.reset = false ∧ (after .millisecondBaseTick .reset).time.clock = 0 := by decide

theorem test_boundary_installs :
    let b : Block := { running with time := { running.time with pending := some (⟨50000, 8, 255⟩, 3) } }
    clocked b = true ∧ (after (.frameBoundary BoundaryTaker.all) b).time.inForce = ⟨50000, 8, 255⟩
    ∧ (after (.frameBoundary BoundaryTaker.all) b).time.frames = 8 := by decide +kernel

theorem test_late_mix :
    clocked mixing = true ∧ mixing.mixer.pass.isSome = true
    ∧ (after (.frameBoundary BoundaryTaker.all) mixing).mixer.lateMixes = 1 := by decide +kernel

theorem test_swap_and_pass :
    let b : Block := { running with store := { running.store with complete := true } }
    b.mixer.pass = none ∧ (after (.frameBoundary BoundaryTaker.all) b).store.aPresented = false
    ∧ (after (.frameBoundary BoundaryTaker.all) b).mixer.pass.isSome = true
    ∧ (after (.frameBoundary BoundaryTaker.all) (inState .stopped)).mixer.pass.isSome = false := by decide +kernel

theorem test_mix_complete :
    let b : Block := { mixing with lines := setAt mixing.lines 0 (receivingLine .hunt (.complete [7])) }
    b.engine.phase = .released ∧ (lineOf b 0).staging = .complete [7] ∧ (lineOf b 1).staging = .empty
    ∧ (after .mixComplete b).store.complete = true ∧ (after .mixComplete b).mixer.pass.isSome = false
    ∧ (lineOf (after .mixComplete b) 0).signal = .present ∧ getAt (lineOf (after .mixComplete b) 0).layer 0 = 7 := by
  decide +kernel

/-! ### Timers -/

/-- The fade of `fading` at its end, show time 2000. -/
def ended (x : Playback) : Block := { withPlayback x with time := { running.time with clock := 2000 } }

theorem test_fade_end :
    reached (ended fading).time.clock (playbackOf (ended fading) 0).timing.fadeEnd = true ∧ FollowArmed fading = none
    ∧ (playbackOf (after (.fadeEnd 0) (ended fading)) 0).fade = .holding
    ∧ (playbackOf (after (.fadeEnd 0) (ended fading)) 0).entries = [⟨3, 60000, 60000, .up, 1, false⟩]
    ∧ (let x := { fading with fade := .releasing }
       (playbackOf (after (.fadeEnd 0) (ended x)) 0).fade = .idle ∧ (playbackOf (after (.fadeEnd 0) (ended x)) 0).entries = [])
    ∧ (let x := { fading with lastCue := some ⟨0, 10, .auto, 0, 0, 3000⟩ }
       FollowArmed x = some 2000 ∧ reached 2000 2000 = true ∧ (ended x).engine.state ≠ .halted
       ∧ (playbackOf (after (.fadeEnd 0) (ended x)) 0).queue = [⟨.follow, .goNext none⟩]) := by decide

/-- HOLDING with its follow due at the clock. -/
def followDue : Playback := { fading with fade := .holding, follow := some 1000, lastCue := some ⟨0, 10, .link, 12, 500, 3000⟩ }

theorem test_follow_expiry :
    reached running.time.clock 1000 = true ∧ followDue.fade ≠ .paused
    ∧ (after (.followExpiry 0) (withPlayback { followDue with queue := [⟨.post 3, .pause⟩], load := .waiting })).superseded = 1
    ∧ (playbackOf (after (.followExpiry 0) (withPlayback followDue)) 0).queue = [⟨.follow, .goNext none⟩]
    ∧ (after (.followExpiry 0) (withPlayback followDue)).loader.current.map (·.job.search) = some (.exactly 12)
    ∧ (playbackOf (after (.followExpiry 0)
        { withPlayback followDue with engine := { running.engine with state := .halted } }) 0).queue = [] := by decide

theorem test_settling :
    let m : FadeRecord := ⟨100, 65535, 0, 1000⟩
    let b := withPlayback { fading with master := m }
    (m.duration : Int) ≤ showDiff b.time.clock m.time
    ∧ (playbackOf (after (.masterSettling 0) b) 0).master = ⟨65535, 65535, 0, 0⟩
    ∧ (after (.masterSettling 0) { b with mixer := { b.mixer with pass := mixing.mixer.pass } }).mixer.held.length = 1
    ∧ (after .grandSettling { running with mixer := { running.mixer with grand := m } }).mixer.grand = ⟨65535, 65535, 0, 0⟩ := by
  decide

/-! ### Local outputs and triggers -/

theorem test_pwm_period_end :
    let b : Block := { running with outputs := { running.outputs with load := Vector.replicate 16 true, compare := Vector.replicate 16 9 } }
    (after .pwmPeriodEnd b).outputs.compare = Vector.replicate 16 0 ∧ (after .pwmPeriodEnd b).outputs.load = Vector.replicate 16 false := by
  decide

/-- An output 0 in a mode, comparing against a value. -/
def outputAt (m : OutputMode) (v : Nat) : Block :=
  { running with outputs := { running.outputs with
      config := { running.outputs.config with modes := setAt running.outputs.config.modes 0 m }
      compare := setAt running.outputs.compare 0 v } }

theorem test_output_pin :
    outputPin (outputAt .off 65535) 0 0 = false ∧ outputPin (outputAt .pwm 63) 0 0 = false
    ∧ outputPin (outputAt .pwm 64) 0 0 = true ∧ outputPin (outputAt .pwm 64) 0 1 = false
    ∧ outputPin (outputAt .pwm 65471) 0 1022 = false ∧ outputPin (outputAt .pwm 65472) 0 1023 = true
    ∧ outputPin (outputAt .switch 32767) 0 0 = false ∧ outputPin (outputAt .switch 32768) 0 0 = true := by decide

/-- A trigger that acts on both edges. -/
def edged (debounce : Nat) (a : TriggerAction) : Trigger := { Trigger.reset with record := ⟨.both, debounce, a, 0, 0, 10, none⟩ }

theorem test_trigger_pin_change :
    (triggerOf (after (.triggerPinChange 0 true) (withTrigger (edged 255 .note))) 0).timer = some 1255
    ∧ (triggerOf (after (.triggerPinChange 0 false)
        (withTrigger { edged 255 .note with pin := true, timer := some 1255 })) 0).timer = none
    ∧ (triggerOf (after (.triggerPinChange 0 true) (withTrigger .reset)) 0).settled = true
    ∧ (triggerOf (after (.triggerPinChange 0 true) (withTrigger .reset)) 0).accepted = 0
    ∧ (triggerOf (after (.triggerPinChange 0 true) (withTrigger (edged 0 .note))) 0).accepted = 1 := by decide

/-- A trigger whose pin has been high since its timer started, the timer due now. -/
def debounced (a : TriggerAction) : Block := withTrigger { edged 10 a with pin := true, timer := some 1000 }

theorem test_debounce_expiry :
    reached running.time.clock 1000 = true
    ∧ (triggerOf (after (.debounceExpiry 0) (withTrigger { Trigger.reset with pin := true, timer := some 1000 })) 0).settled = true
    ∧ isRaised .trigger (after (.debounceExpiry 0) (debounced .note)) = true
    ∧ (after (.debounceExpiry 0) (debounced .blackoutToggle)).mixer.blackoutRequest = true
    ∧ (playbackOf (after (.debounceExpiry 0) (debounced .go)) 0).queue = [⟨.trigger 0, .go 0 10 none⟩]
    ∧ (playbackOf (after (.debounceExpiry 0) (debounced .goNext)) 0).queue = [⟨.trigger 0, .goNext (some 0)⟩]
    ∧ isRaised .trigger (after (.debounceExpiry 0) (debounced .pause)) = true
    ∧ isRaised .trigger (after (.debounceExpiry 0) (debounced .resume)) = true
    ∧ isRaised .trigger (after (.debounceExpiry 0) (debounced .release)) = true := by decide

/-! ### Requests -/

/-- The checks of a SET FRAME on three words, each failing alone at a boundary value, and all passing at both ends. -/
theorem test_first_fails : FirstFails [false, false, true] 1 ∧ FirstFails [true, false, true] 2 ∧ FirstFails [true, true, false] 3
    ∧ FirstFails [true, true, true, true, true, true, false] 7 := by
  unfold FirstFails; decide

theorem test_set_frame :
    resultsAfter (.setFrame 31 3999 1 0) running = [⟨31, .badParam, 1, 0, 0⟩]
    ∧ resultsAfter (.setFrame 31 100001 1 0) running = [⟨31, .badParam, 1, 0, 0⟩]
    ∧ resultsAfter (.setFrame 31 4000 0 0) running = [⟨31, .badParam, 2, 0, 0⟩]
    ∧ resultsAfter (.setFrame 31 4000 9 0) running = [⟨31, .badParam, 2, 0, 0⟩]
    ∧ resultsAfter (.setFrame 31 4000 8 256) running = [⟨31, .badParam, 3, 0, 0⟩]
    ∧ (after (.setFrame 31 4000 1 255) running).time.pending = some (⟨4000, 1, 255⟩, 31) := by decide +kernel

theorem test_set_frame_budget_and_supersede :
    resultsAfter (.setFrame 31 4000 1 0) (withLine talking) = [⟨31, .budget, 0, 7378, 0⟩]
    ∧ (after (.setFrame 31 7378 1 0) (withLine talking)).time.pending = some (⟨7378, 1, 0⟩, 31)
    ∧ (let b : Block := { running with time := { running.time with pending := some (⟨5000, 1, 0⟩, 3) }
                                       results := ⟨[], [3], .idle⟩ }
       CanCome 31 b ∧ resultsAfter (.setFrame 31 4000 1 0) b = [⟨3, .cancelled, 0, 0, 0⟩]) :=
  ⟨by decide +kernel, by decide +kernel, canCome_of (by decide), by decide +kernel⟩

theorem test_set_line :
    resultsAfter (.setLine 31 4 1 0 256 1 0 1000 0) running = [⟨31, .badTarget, 0, 0, 0⟩]
    ∧ resultsAfter (.setLine 31 3 4 0 256 1 0 1000 0) running = [⟨31, .badParam, 1, 0, 0⟩]
    ∧ resultsAfter (.setLine 31 3 1 2 256 1 0 1000 0) running = [⟨31, .badParam, 2, 0, 0⟩]
    ∧ resultsAfter (.setLine 31 3 1 0 0 1 0 1000 0) running = [⟨31, .badParam, 3, 0, 0⟩]
    ∧ resultsAfter (.setLine 31 3 1 0 1 2 0 1000 0) running = [⟨31, .badParam, 4, 0, 0⟩]
    ∧ resultsAfter (.setLine 31 3 1 0 1 1 1024 1000 0) running = [⟨31, .badParam, 5, 0, 0⟩]
    ∧ resultsAfter (.setLine 31 3 1 0 1 1 1023 99 0) running = [⟨31, .badParam, 6, 0, 0⟩]
    ∧ resultsAfter (.setLine 31 3 1 0 1 1 1023 5000 2) running = [⟨31, .badParam, 7, 0, 0⟩]
    ∧ (lineOf (after (.setLine 31 3 1 0 256 1 1023 5000 1) running) 3).pending
        = some (⟨.send, .slow, 256, true, 1023, 5000, .clear⟩, 31)
    ∧ (lineOf (after (.setLine 31 0 2 1 1 1 0 100 0) running) 0).pending
        = some (⟨.receive, .fast, 1, false, 0, 100, .hold⟩, 31) := by decide +kernel

theorem test_set_line_budget_and_supersede :
    (let b : Block := { running with time := { running.time with inForce := ⟨4000, 1, 40⟩ } }
     CanCome 31 b ∧ resultsAfter (.setLine 31 0 1 0 256 1 0 1000 0) b = [⟨31, .budget, 7378, 4000, 0⟩])
    ∧ (let b : Block := { withLine { Line.reset with pending := some (.reset, 3) } with results := ⟨[], [3], .idle⟩ }
       CanCome 31 b ∧ resultsAfter (.setLine 31 0 0 0 256 0 0 1000 0) b = [⟨3, .cancelled, 0, 0, 0⟩]) :=
  ⟨⟨canCome_of (by decide), by decide +kernel⟩, canCome_of (by decide), by decide +kernel⟩

theorem test_set_outputs :
    resultsAfter (.setOutputs 31 3 0 0) running = [⟨31, .badParam, 1, 0, 0⟩]
    ∧ resultsAfter (.setOutputs 31 2 0xC0000000 0) running = [⟨31, .badParam, 2, 15, 0⟩]
    ∧ resultsAfter (.setOutputs 31 0 3 0) running = [⟨31, .badParam, 2, 0, 0⟩]
    ∧ resultsAfter (.setOutputs 31 2 0x80000001 0x8000) running = [⟨31, .ok, 0, 0, 0⟩]
    ∧ ((after (.setOutputs 31 2 0x80000001 0x8000) running).outputs.pending.map fun c =>
        (c.clock, getAt c.modes 0, getAt c.modes 15, getAt c.inverts 15)) = some (.high, .pwm, .switch, true) := by decide +kernel

theorem test_set_trigger :
    resultsAfter (.setTrigger 31 8 0 0 0 0 0 0 0) running = [⟨31, .badTarget, 0, 0, 0⟩]
    ∧ resultsAfter (.setTrigger 31 7 4 0 0 0 0 0 0) running = [⟨31, .badParam, 1, 0, 0⟩]
    ∧ resultsAfter (.setTrigger 31 7 3 256 0 0 0 0 0) running = [⟨31, .badParam, 2, 0, 0⟩]
    ∧ resultsAfter (.setTrigger 31 7 3 255 7 0 0 0 0) running = [⟨31, .badParam, 3, 0, 0⟩]
    ∧ resultsAfter (.setTrigger 31 7 3 255 6 8 0 0 0) running = [⟨31, .badParam, 4, 0, 0⟩]
    ∧ resultsAfter (.setTrigger 31 7 3 255 6 7 16 0 0) running = [⟨31, .badParam, 5, 0, 0⟩]
    ∧ resultsAfter (.setTrigger 31 7 3 255 6 7 15 65536 0) running = [⟨31, .badParam, 6, 0, 0⟩]
    ∧ resultsAfter (.setTrigger 31 7 3 255 6 7 15 65535 3600001) running = [⟨31, .badParam, 7, 0, 0⟩]
    ∧ (triggerOf (after (.setTrigger 31 7 3 255 6 7 15 65535 0xFFFFFFFF) running) 7).record
        = ⟨.both, 255, .blackoutToggle, 7, 15, 65535, none⟩ := by decide +kernel

/-- RUNNING with the table loader in a state. -/
def withTables (t : TableLoader) : Block := { running with tables := t }

/-- A table job of slot 3. -/
def tableJob : TableJob := .patch 3 0x3000 1

theorem test_patch :
    resultsAfter (.patch 31 0x3000 0) running = [⟨31, .badParam, 0, 0, 0⟩]
    ∧ resultsAfter (.patch 31 0x3000 1025) running = [⟨31, .badParam, 0, 0, 0⟩]
    ∧ resultsAfter (.patch 31 0x3000 1)
        (withTables ⟨[tableJob, tableJob, tableJob, tableJob], some tableJob, .filling [], Vector.replicate 7 .empty⟩)
        = [⟨31, .queueFull, 0, 0, 0⟩]
    ∧ (after (.patch 31 0x3000 1) (withTables ⟨[], some tableJob, .filling [], Vector.replicate 7 .empty⟩)).tables.queue.length = 1
    ∧ (after (.patch 31 0x3000 1) (withTables ⟨[], none, .ready 3 [], Vector.replicate 7 .empty⟩)).tables.queue.length = 1
    ∧ (after (.patch 31 0x3000 1024) running).tables.reader = some (.patch 31 0x3000 1024) := by decide +kernel

theorem test_load_curve :
    resultsAfter (.loadCurve 31 0 0x3000) running = [⟨31, .badTarget, 0, 0, 0⟩]
    ∧ resultsAfter (.loadCurve 31 8 0x3000) running = [⟨31, .badTarget, 0, 0, 0⟩]
    ∧ resultsAfter (.loadCurve 31 7 0x3000)
        (withTables ⟨[tableJob, tableJob, tableJob, tableJob], some tableJob, .filling [], Vector.replicate 7 .empty⟩)
        = [⟨31, .queueFull, 0, 0, 0⟩]
    ∧ (after (.loadCurve 31 7 0x3000) (withTables ⟨[], some tableJob, .filling [], Vector.replicate 7 .empty⟩)).tables.queue
        = [.curve 31 6 0x3000]
    ∧ (after (.loadCurve 31 1 0x3000) running).tables.reader = some (.curve 31 0 0x3000)
    ∧ resultsAfter (.loadCurve 31 1 0x3000)
        { withTables ⟨[], none, .empty, Vector.replicate 7 (.ready 3 [])⟩ with results := ⟨[], [3], .idle⟩ }
        = [⟨3, .cancelled, 0, 0, 0⟩] := by decide +kernel

theorem test_set_grand_and_blackout :
    resultsAfter (.setGrand 31 65536 0) running = [⟨31, .badParam, 0, 0, 0⟩]
    ∧ resultsAfter (.setGrand 31 65535 3600001) running = [⟨31, .badParam, 0, 0, 0⟩]
    ∧ (after (.setGrand 31 0 3600000) running).mixer.grand = ⟨65535, 0, 1000, 3600000⟩
    ∧ (after (.setGrand 31 0 0) running).mixer.grand.value 1000 = 0
    ∧ resultsAfter (.blackout 31 0) running = [⟨31, .ok, 0, 0, 0⟩] ∧ resultsAfter (.blackout 31 1) running = [⟨31, .ok, 1, 0, 0⟩]
    ∧ resultsAfter (.blackout 31 2) running = [⟨31, .ok, 1, 0, 0⟩] ∧ resultsAfter (.blackout 31 3) running = [⟨31, .badParam, 0, 0, 0⟩] := by
  decide +kernel

theorem test_snapshot_and_clear_line :
    (after (.snapshot 31 0x6000) running).status.snapshot = some ⟨31, 0x6000, .waiting⟩
    ∧ resultsAfter (.snapshot 31 0x6000) { running with status := { running.status with snapshot := some ⟨3, 0, .waiting⟩ } }
        = [⟨31, .busy, 0, 0, 0⟩]
    ∧ resultsAfter (.clearLineStatus 31 4) running = [⟨31, .badTarget, 0, 0, 0⟩]
    ∧ resultsAfter (.clearLineStatus 31 0) (withLine { talking with received := 5, sent := 9, stray := 1 }) = [⟨31, .ok, 5, 9, 0⟩]
    ∧ (lineOf (after (.clearLineStatus 31 0) (withLine { talking with received := 5, sent := 9, stray := 1 })) 0) = talking := by
  decide +kernel

theorem test_query :
    resultsAfter (.query 31 4 0 0 0 0 0 0) (withLine talking) = [⟨31, .badTarget, 0, 0, 0⟩]
    ∧ resultsAfter (.query 31 3 0 0 0 0 0 0) (withLine talking) = [⟨31, .badTarget, 0, 0, 0⟩]
    ∧ resultsAfter (.query 31 0 65536 0 0 0 0 0) (withLine talking) = [⟨31, .badParam, 1, 0, 0⟩]
    ∧ resultsAfter (.query 31 0 65535 256 0 0 0 0) (withLine talking) = [⟨31, .badParam, 2, 0, 0⟩]
    ∧ resultsAfter (.query 31 0 65535 255 9 0 0 0) (withLine talking) = [⟨31, .badParam, 3, 0, 0⟩]
    ∧ resultsAfter (.query 31 0 65535 255 8 0 0 0) (withLine { talking with queries := List.replicate 4 ⟨3, 5, 0, [], 0⟩ })
        = [⟨31, .queueFull, 0, 0, 0⟩]
    ∧ (lineOf (after (.query 31 0 65535 255 8 0x04030201 0x08070605 0x9000) (withLine talking)) 0).queries
        = [⟨31, 65535, 255, [1, 2, 3, 4, 5, 6, 7, 8], 0x9000⟩]
    ∧ (lineOf (after (.query 31 0 0 0 0 0 0 0) (withLine talking)) 0).queries = [⟨31, 0, 0, [], 0⟩] := by decide +kernel

theorem test_go :
    resultsAfter (.go 31 8 0 10 0xFFFFFFFF) running = [⟨31, .badTarget, 0, 0, 0⟩]
    ∧ resultsAfter (.go 31 0 1 10 0xFFFFFFFF) running = [⟨31, .badParam, 0, 0, 0⟩]
    ∧ resultsAfter (.go 31 0 0 0 0xFFFFFFFF) running = [⟨31, .badParam, 0, 0, 0⟩]
    ∧ resultsAfter (.go 31 0 0 65535 3600000) running = [⟨31, .badParam, 0, 0, 0⟩]
    ∧ resultsAfter (.go 31 0 0 65534 3600001) running = [⟨31, .badParam, 0, 0, 0⟩]
    ∧ resultsAfter (.go 31 0 0 1 0) (withPlayback { fading with queue := List.replicate 4 ⟨.post 3, .pause⟩, load := .reading })
        = [⟨31, .queueFull, 0, 0, 0⟩]
    ∧ (playbackOf (after (.go 31 0 0 65534 3600000) (withPlayback { fading with queue := [⟨.post 3, .pause⟩], load := .reading })) 0).queue
        = [⟨.post 3, .pause⟩, ⟨.post 31, .go 0 65534 (some 3600000)⟩]
    ∧ (after (.go 31 7 0 1 0xFFFFFFFF) running).loader.current.map (·.job) = some ⟨7, 0, .exactly 1, 0, false⟩ := by decide +kernel

theorem test_go_next :
    resultsAfter (.goNext 31 8 0) running = [⟨31, .badTarget, 0, 0, 0⟩]
    ∧ resultsAfter (.goNext 31 0 1) running = [⟨31, .badParam, 0, 0, 0⟩]
    ∧ resultsAfter (.goNext 31 0 0xFFFFFFFF) running = [⟨31, .cueMissing, 0, 0, 0⟩]
    ∧ (after (.goNext 31 0 0) running).loader.current.map (·.job.search) = some .first
    ∧ (after (.goNext 31 0 0) (withPlayback fading)).loader.current.map (·.job.search) = some (.above 10)
    ∧ resultsAfter (.goNext 31 0 0) (withPlayback { fading with queue := List.replicate 4 ⟨.post 3, .pause⟩, load := .reading })
        = [⟨31, .queueFull, 0, 0, 0⟩]
    ∧ (playbackOf (submitLoad 0 0 .first { running with loader := ⟨[], some ⟨⟨1, 0, .first, 0, false⟩, .lock, false, false, none, none⟩, 0, 0⟩ }) 0).load
        = .waiting
    ∧ (playbackOf (submitLoad 0 0 .first running) 0).load = .reading := by decide +kernel

/-- PAUSED in a fade or a follow, with a paused value. -/
def pausedAs (r : Remembered) (v : Int) : Playback :=
  { fading with fade := .paused, remembered := some r, timing := { fading.timing with paused := some v } }

theorem test_pause :
    resultsAfter (.pause 31 8) running = [⟨31, .badTarget, 0, 0, 0⟩]
    ∧ resultsAfter (.pause 31 0) (withPlayback { fading with queue := List.replicate 4 ⟨.post 3, .pause⟩, load := .reading })
        = [⟨31, .queueFull, 0, 0, 0⟩]
    ∧ (playbackOf (after (.pause 31 0) (withPlayback { fading with load := .reading })) 0).queue = [⟨.post 31, .pause⟩]
    ∧ (playbackOf (after (.pause 31 0) (withPlayback fading)) 0).timing.paused = some 1000
    ∧ (playbackOf (after (.pause 31 0) (withPlayback { fading with fade := .releasing })) 0).remembered = some .releasing
    ∧ (playbackOf (after (.pause 31 0) (withPlayback { fading with fade := .holding, follow := some 1500 })) 0).timing.paused = some 500
    ∧ resultsAfter (.pause 31 0) (withPlayback { fading with fade := .holding }) = [⟨31, .badState, 0, 0, 0⟩]
    ∧ resultsAfter (.pause 31 0) running = [⟨31, .badState, 0, 0, 0⟩]
    ∧ resultsAfter (.pause 31 0) (withPlayback (pausedAs .fading 0)) = [⟨31, .badState, 0, 0, 0⟩] := by decide +kernel

theorem test_resume :
    resultsAfter (.resume 31 8) running = [⟨31, .badTarget, 0, 0, 0⟩] ∧ resultsAfter (.resume 31 0) running = [⟨31, .badState, 0, 0, 0⟩]
    ∧ (playbackOf (after (.resume 31 0) (withPlayback (pausedAs .fading 1999))) 0).fade = .fading
    ∧ (playbackOf (after (.resume 31 0) (withPlayback (pausedAs .fading 1999))) 0).timing.fadeEnd = 1001
    ∧ (playbackOf (after (.resume 31 0) (withPlayback (pausedAs .releasing 1999))) 0).fade = .releasing
    ∧ (playbackOf (after (.resume 31 0) (withPlayback (pausedAs .holding 1))) 0).follow = some 1001
    ∧ (playbackOf (after (.resume 31 0) (withPlayback (pausedAs .fading 2000))) 0).fade = .holding
    ∧ (playbackOf (after (.resume 31 0) (withPlayback (pausedAs .releasing 2000))) 0).fade = .idle := by decide +kernel

theorem test_release :
    resultsAfter (.release 31 8 0) running = [⟨31, .badTarget, 0, 0, 0⟩]
    ∧ resultsAfter (.release 31 0 3600001) running = [⟨31, .badParam, 0, 0, 0⟩]
    ∧ resultsAfter (.release 31 0 3600000) running = [⟨31, .ok, 0, 0, 0⟩]
    ∧ (playbackOf (after (.release 31 0 1) (withPlayback fading)) 0).entries = [⟨3, 30000, 0, .down, 1, true⟩]
    ∧ (playbackOf (after (.release 31 0 0xFFFFFFFF) (withPlayback fading)) 0).timing = ⟨1000, 0, 2000, 3000, 4000, none⟩
    ∧ (playbackOf (after (.release 31 0 0) (withPlayback fading)) 0).fade = .idle
    ∧ (playbackOf (after (.release 31 0 1) (withPlayback { fading with entries := [] })) 0).fade = .idle
    ∧ (playbackOf (after (.release 31 0 1) (withPlayback { fading with queue := [⟨.post 3, .pause⟩, ⟨.post 4, .pause⟩], load := .reading })) 0).queue
        = [⟨.post 3, .pause⟩] := by decide +kernel

theorem test_set_master :
    resultsAfter (.setMaster 31 8 0 0) running = [⟨31, .badTarget, 0, 0, 0⟩]
    ∧ resultsAfter (.setMaster 31 0 65536 0) running = [⟨31, .badParam, 0, 0, 0⟩]
    ∧ resultsAfter (.setMaster 31 7 65535 3600001) running = [⟨31, .badParam, 0, 0, 0⟩]
    ∧ (playbackOf (after (.setMaster 31 7 0 3600000) running) 7).master = ⟨65535, 0, 1000, 3600000⟩
    ∧ (getAt (after (.setMaster 31 7 0 0) running).mixer.views 7).master = ⟨65535, 0, 1000, 0⟩
    ∧ (after (.setMaster 31 7 0 0) mixing).mixer.held.length = 1 := by decide +kernel

/-! ### The memory port -/

/-- RUNNING with memory, and a tenure of a client at a state of the port. -/
def portAt (st : PortState) (c : Client) (k : TenureKind) (faults : Nat) (m : Memory) : Block :=
  { withTenure st c k with
    port := { (withTenure st c k).port with consecutive := faults }
    mem := m }

theorem test_grant :
    (after (.mgntGrant [(0x1000, 1), (0x1000, 2)]) (portAt .requesting .status (.read 0 1) 0 [])).mem = [(0x1000, 2)]
    ∧ (after (.mgntGrant []) (portAt .requesting .status (.read 0 1) 0 [])).port.state = .transferring
    ∧ (after (.mgntGrant []) (portAt .requesting .status (.read 0 1) 0 [])).port.waits = 3 ∧ Memory.wf [] = true := by decide +kernel

/-- The result writer at a step, writing slot 5's completion. -/
def writing (w : WriterStep) : Block :=
  { portAt .transferring .results (.write 0x1014 [3]) 2 [] with results := ⟨[⟨5, .ok, 1, 0, 0⟩], [], w⟩ }

theorem test_tenure_end :
    (after .tenureEnd (portAt .transferring .status (.read 0x1000 16) 2 [])).port.consecutive = 0
    ∧ (after .tenureEnd (portAt .transferring .status (.modify 0x1000 1 2) 0 [(0x1000, 1)])).mem = [(0x1000, 2)]
    ∧ (after .tenureEnd (portAt .transferring .status (.modify 0x1000 1 2) 0 [(0x1000, 4)])).mem = [(0x1000, 4)]
    ∧ (after .tenureEnd (writing .values)).results.writer = .done
    ∧ isRaised .requestDone (after .tenureEnd (writing .done)) = true ∧ (after .tenureEnd (writing .done)).mem = [(0x1014, 3)]
    ∧ (let b : Block := { portAt .transferring .status (.write 0x4000 [0]) 0 [] with status := ⟨1, 4, some ⟨[], 8⟩, 0, none, [.page]⟩ }
       isRaised .status (after .tenureEnd b) = true ∧ (after .tenureEnd b).status.edition = 6) := by decide +kernel

/-- The scanner claiming slot 31 of the post table, whose state word holds a value. -/
def claiming (w : Word) : Block :=
  { portAt .transferring .scanner (.modify 0x107C 1 2) 0 (Memory.store [] 0x107C w) with scanner := ⟨.claim 31 [] 0, false, 1⟩ }

theorem test_claim :
    (claiming 1).port.nextClient = none ∧ stateWordAddress running.anchor 31 = 0x107C ∧ Memory.wf (claiming 1).mem = true
    ∧ (after .tenureEnd (claiming 1)).mem = [(0x107C, 2)] ∧ (after .tenureEnd (claiming 1)).results.reserved = [31]
    ∧ (after .tenureEnd (claiming 1)).scanner.step = .body 31 [] 1 (List.replicate 11 0)
    ∧ (after .tenureEnd (claiming 3)).mem = [(0x107C, 3)] ∧ (after .tenureEnd (claiming 3)).results.reserved = [] := by decide +kernel

/-- The release write of a GO's load of cue 10 for playback 0, one entry in. -/
def unlocking : Block :=
  { portAt .transferring .loader (.write 0x8000 [0]) 0 [(0x8000, 2)] with
    loader := ⟨[], some ⟨⟨0, 0, .exactly 10, 0, false⟩, .unlock, true, false, none, some ⟨10, .manual, 1, 500, 700, 0, 0, 0⟩⟩, 0, 0⟩
    results := ⟨[], [3], .idle⟩
    playbacks := setAt running.playbacks 0
      { Playback.reset with load := .reading, queue := [⟨.post 3, .go 0 10 none⟩], incoming := [⟨9, 65535, false⟩] } }

theorem test_load_completed :
    reached 1000 1500 = false ∧ (playbackOf unlocking 0).queue = [⟨.post 3, .go 0 10 none⟩]
    ∧ (playbackOf (after .tenureEnd unlocking) 0).entries = [⟨9, 0, 65535, .up, 1, false⟩]
    ∧ (playbackOf (after .tenureEnd unlocking) 0).timing = ⟨1000, 0, 500, 700, 1500, none⟩
    ∧ resultsAfter .tenureEnd unlocking = [⟨3, .ok, 10, 1, 0⟩] ∧ (after .tenureEnd unlocking).mem = [] := by decide +kernel

theorem test_faults_counted :
    (after .grantTimeout (portAt .requesting .status (.read 0 1) 1 [])).port.consecutive = 2
    ∧ (after (.readyTimeout 1 true) (portAt .transferring .status (.write 0x1000 [7, 8, 9]) 0 [])).mem = [(0x1000, 7), (0x1004, 8)]
    ∧ (after (.busError 1 false) (portAt .transferring .status (.write 0x1000 [7, 8, 9]) 0 [])).mem = [(0x1000, 7)]
    ∧ (after (.busError 0 false) (startingPart .transferring false true)).engine.state = .stopped := by decide +kernel

theorem test_third_fault_halts :
    (after .grantTimeout (portAt .requesting .status (.read 0 1) 2 [])).engine.state = .halted
    ∧ isRaised .fault (after (.readyTimeout 0 false) (portAt .transferring .results (.read 0 1) 2 [])) = true
    ∧ (after (.busError 15 true) (portAt .transferring .loader (.read 0 16) 2 [])).port.state = .idle := by decide +kernel

/-- A loader's tenure whose fault is the third: playback 0's job current, playback 1's queued with a GO NEXT behind a PAUSE, the scanner
between a claim and its body, a READY staging and shadow, and a query in flight. -/
def busyAt (stage : LoadStage) (held : Bool) (k : TenureKind) (m : Memory) : Block :=
  let b := portAt .transferring .loader k 2 m
  { b with
    scanner := ⟨.body 31 [] 1 [], true, 1⟩
    loader := ⟨[⟨1, 0, .exactly 11, 0, true⟩], some ⟨⟨0, 0, .exactly 10, 0, false⟩, stage, held, false, none, none⟩, 0, 4⟩
    playbacks := setAt (setAt b.playbacks 0
        { Playback.reset with load := .reading, queue := [⟨.post 3, .go 0 10 none⟩], incoming := [⟨9, 1, false⟩], reservation := 5 }) 1
        { fading with load := .waiting, queue := [⟨.post 4, .go 0 11 none⟩, ⟨.post 5, .pause⟩, ⟨.post 6, .goNext none⟩] }
    tables := ⟨[.patch 7 0x3000 1], none, .ready 8 [], setAt (Vector.replicate 7 .empty) 0 (.ready 9 [])⟩
    lines := setAt b.lines 0 { talking with inFlight := some (flight .awaiting []), queries := [⟨10, 1, 7, [], 0⟩] }
    results := ⟨[⟨11, .ok, 0, 0, 0⟩], [31, 3, 4, 5, 6, 7, 8, 9, 10], .values⟩ }

theorem test_third_fault_ends_all_work :
    let b := busyAt .seekCount true (.read 0x8004 1) []
    let t := after (.readyTimeout 0 false) b
    loadsOk b = true ∧ entriesReserved b = true ∧ (servedQueue true 1000 [⟨.post 5, .pause⟩, ⟨.post 6, .goNext none⟩] fading).late = false
    ∧ t.tables = ⟨[], none, .empty, Vector.replicate 7 .empty⟩ ∧ t.scanner = ⟨.idle, false, 1⟩ ∧ t.loader = ⟨[], none, 1, 4⟩
    ∧ playbackOf t 0 = Playback.reset
    ∧ playbackOf t 1 = { fading with fade := .paused, remembered := some .fading, timing := { fading.timing with paused := some 1000 } }
    ∧ (lineOf t 0).inFlight = some { flight .awaiting [] with halted := true } ∧ (lineOf t 0).queries = [] ∧ t.results = ⟨[], [], .idle⟩
    ∧ t.port.waiting = Vector.replicate 6 none ∧ loadsOk t = true := by decide +kernel

theorem test_locks_stuck_at_a_halt :
    let stuckAfter := fun (c : Instr) (b : Block) => (after c b).loader.stuck
    let acquire := fun m => busyAt .lock false (.modify 0x8000 0 2) m
    stuckAfter (.busError 0 false) (acquire []) = 0 ∧ stuckAfter (.busError 1 false) (acquire []) = 1
    ∧ stuckAfter (.busError 1 false) (acquire [(0x8000, 1)]) = 0 ∧ stuckAfter .grantTimeout (requested (acquire [])) = 0
    ∧ stuckAfter (.busError 0 false) (busyAt .unlock true (.write 0x8000 [0]) []) = 1
    ∧ (let b := busyAt .seekCount true (.read 0x8004 1) []
       stuckAfter (.busError 0 false) { b with port := { b.port with current := some ⟨.status, .write 0x4000 [1], 0, none⟩ } } = 1) := by
  decide +kernel

/-! ### The lighting lines -/

theorem test_level_frame_end_and_trail_end :
    (lineOf (after (.levelFrameEnd 0) (withLine { talking with config := { talking.config with talkback := false }, tx := .characters 258 })) 0).sent = 1
    ∧ (lineOf (after (.levelFrameEnd 0) (withLine { talking with tx := .characters 258 })) 0).tx = .trail
    ∧ (lineOf (after (.levelFrameEnd 0) (withLine { talking with tx := .brk, queries := [⟨5, 1, 7, [], 0⟩] })) 0).inFlight.isSome = true
    ∧ (lineOf (after (.trailEnd 0) (withLine { talking with tx := .trail, inFlight := some (flight .gap []) })) 0).tx = .query (flight .gap []).query
    ∧ (lineOf (after (.trailEnd 0) (withLine { talking with tx := .trail, driver := true })) 0).driver = false := by decide +kernel

/-- A talkback line with a query in flight, its slot reserved. -/
def asking (f : InFlight) (tx : TxState) : Block :=
  { withLine { talking with inFlight := some f, tx := tx } with results := ⟨[], [5], .idle⟩ }

theorem test_query_frame_and_reply_start :
    (lineOf (after (.queryFrameEnd 0) (asking (flight .sending []) (.query (flight .sending []).query))) 0).inFlight = some (flight .turnaround [])
    ∧ resultsAfter (.queryFrameEnd 0) (asking { flight .sending [] with query := ⟨5, 65535, 7, [], 0⟩ } (.query ⟨5, 65535, 7, [], 0⟩))
        = [⟨5, .ok, 0, 0, 0⟩]
    ∧ (lineOf (after (.turnaroundEnd 0) (asking (flight .turnaround []) .turnaround)) 0).inFlight = some (flight .awaiting [])
    ∧ (lineOf (after (.replyStart 0) (asking (flight .awaiting []) .idle)) 0).inFlight = some (flight .receiving [])
    ∧ (lineOf (after (.startOfALow 0) (asking (flight .awaiting []) .idle)) 0).inFlight = some (flight .receiving [])
    ∧ resultsAfter (.replyStartTimeout 0) (asking (flight .awaiting []) .idle) = [⟨5, .noReply, 0, 0, 0⟩] := by decide +kernel

/-- The line after a character of a reply to fixture 0x0102, and the results after it. -/
def takenAfter (flag : Bool) (data : Byte) (before : List Byte) : Option (List Byte) :=
  (lineOf (after (.replyCharacter 0 flag data) (asking (flight .receiving before) .idle)) 0).inFlight.map (·.taken)
def failedAfter (flag : Bool) (data : Byte) (before : List Byte) : List Completion :=
  resultsAfter (.replyCharacter 0 flag data) (asking (flight .receiving before) .idle)

theorem test_reply_characters_taken :
    takenAfter true 0x5B [] = some [0x5B] ∧ takenAfter false 1 [0x5B] = some [0x5B, 1] ∧ takenAfter false 2 [0x5B, 1] = some [0x5B, 1, 2]
    ∧ takenAfter false 9 [0x5B, 1, 2] = some [0x5B, 1, 2, 9] ∧ takenAfter false 32 [0x5B, 1, 2, 9] = some [0x5B, 1, 2, 9, 32]
    ∧ takenAfter false 4 [0x5B, 1, 2, 9, 1] = some [0x5B, 1, 2, 9, 1, 4] := by decide +kernel

theorem test_reply_characters_that_fail :
    failedAfter false 0x5B [] = [⟨5, .badReply, 1, 0, 0⟩] ∧ failedAfter true 1 [0x5B] = [⟨5, .badReply, 2, 1, 0⟩]
    ∧ failedAfter false 0 [0x5B] = [⟨5, .badReply, 3, 1, 0⟩] ∧ failedAfter false 0 [0x5B, 1] = [⟨5, .badReply, 3, 2, 0⟩]
    ∧ failedAfter false 33 [0x5B, 1, 2, 9] = [⟨5, .badReply, 4, 4, 0⟩]
    ∧ failedAfter false 0 [0x5B, 1, 2, 9, 0] = [⟨5, .badReply, 5, 5, 0⟩] := by decide +kernel

theorem test_reply_whole_and_other_ends :
    (lineOf (after (.replyCharacter 0 false 0x99) (asking (flight .receiving [0x5B, 1, 2, 9, 0]) .idle)) 0).reply
      = some ⟨5, 0x0102, 9, [], 0x9000⟩
    ∧ resultsAfter (.replyCollision 0 .framing) (asking (flight .receiving [0x5B]) .idle) = [⟨5, .collision, 1, 1, 0⟩]
    ∧ resultsAfter (.replyCollision 0 .low) (asking (flight .receiving [0x5B]) .idle) = [⟨5, .collision, 2, 1, 0⟩]
    ∧ resultsAfter (.replyGapExpiry 0) (asking (flight .receiving [0x5B]) .idle) = [⟨5, .badReply, 6, 1, 0⟩]
    ∧ resultsAfter (.queryWindowEnd 0) (asking (flight .receiving []) .idle) = [⟨5, .badReply, 7, 0, 0⟩]
    ∧ resultsAfter (.queryWindowEnd 0) (asking { flight .receiving [] with cancelled := true } .idle) = [⟨5, .cancelled, 0, 0, 0⟩] := by
  decide +kernel

/-- Line 0 after a command, receiving at a state with a staging buffer. -/
def received (c : Instr) (rx : Receiver) (st : LineStaging) : Line := lineOf (after c (withLine (receivingLine rx st))) 0

theorem test_receiver_table :
    (received (.rxBreak 0) .hunt .empty).rx.state = .brk
    ∧ (received (.rxBreak 0) ⟨.slots, 4, 1, 9, false, true⟩ (.filling [7])).errors.short.count = 1
    ∧ (received (.rxBreakEnd 0) ⟨.brk, 0, 0, 0, true, false⟩ .empty).rx.state = .mark
    ∧ (received (.startOfALow 0) ⟨.mark, 0, 0, 0, false, true⟩ .empty).rx.state = .header
    ∧ (received (.startOfALow 0) ⟨.slots, 4, 1, 9, false, true⟩ .empty).rx.gap = false
    ∧ (received (.rxLowStop 0) .hunt .empty).rx.low = false
    ∧ (received (.rxLowStop 0) ⟨.header, 0, 0, 0, true, false⟩ .empty).errors.framing.count = 1
    ∧ (received (.rxGapExpiry 0) ⟨.check, 1, 1, 9, false, true⟩ (.filling [7])).staging = .empty := by decide +kernel

theorem test_frame_characters :
    (received (.rxCharacter 0 true 0) .hunt .empty).rx.low = false
    ∧ (received (.rxCharacter 0 true 0x51) ⟨.header, 0, 0, 0, true, false⟩ .empty).rx.state = .count
    ∧ (received (.rxCharacter 0 false 0x51) ⟨.header, 0, 0, 0, true, false⟩ .empty).foreign = 1
    ∧ (received (.rxCharacter 0 true 255) ⟨.count, 0, 0, 0x51, true, false⟩ .empty).errors.unexpected.count = 1
    ∧ (received (.rxCharacter 0 false 255) ⟨.count, 0, 0, 0x51, true, false⟩ .empty).rx.count = 256
    ∧ (received (.rxCharacter 0 false 7) ⟨.slots, 1, 0, 0x51, true, false⟩ (.complete [1])).errors.overrun.count = 1
    ∧ (received (.rxCharacter 0 false 7) ⟨.slots, 2, 0, 0x51, true, false⟩ .empty).rx.state = .slots
    ∧ (received (.rxCharacter 0 false 7) ⟨.slots, 1, 0, 0x51, true, false⟩ .empty).rx.state = .check := by decide +kernel

/-- A receiver that waits for the check of a frame of one slot, the sum of its values so far 0xAF. -/
def atCheck : Receiver := ⟨.check, 1, 1, 0xAF, true, false⟩

theorem test_check_character_and_stray :
    (received (.rxCharacter 0 true 0x51) atCheck (.filling [7])).errors.unexpected.count = 1
    ∧ (received (.rxCharacter 0 false 0x50) atCheck (.filling [7])).errors.check.count = 1
    ∧ (received (.rxCharacter 0 false 0x51) atCheck (.filling [7])).signal = .present
    ∧ getAt (received (.rxCharacter 0 false 0x51) atCheck (.filling [7])).layer 0 = 7
    ∧ (lineOf (after (.rxCharacter 0 false 0x51) { withLine (receivingLine atCheck (.filling [7])) with mixer := mixing.mixer }) 0).staging
        = .complete [7]
    ∧ (lineOf (after (.rxCharacter 0 false 0x51) (withLine talking)) 0).stray = 1 := by decide +kernel

theorem test_signal_loss :
    let x := { receivingLine .hunt .empty with signal := .present, signalTimer := some 1000, layer := Vector.replicate 256 7 }
    (lineOf (after (.signalTimerExpiry 0) (withLine x)) 0).signal = .lost
    ∧ getAt (lineOf (after (.signalTimerExpiry 0) (withLine x)) 0).layer 255 = 7
    ∧ getAt (lineOf (after (.signalTimerExpiry 0) (withLine { x with config := { x.config with lossAction := .clear } })) 0).layer 255 = 0 := by
  decide +kernel

/-! ### Curves and invariants -/

theorem test_curve_zero :
    curveZero.length = 65 ∧ (∀ p ∈ curveZero, p ≤ 65535) ∧ curveValue curveZero 0 = 0 ∧ curveValue curveZero 64511 = 64511
    ∧ curveValue curveZero 64512 = 64512 ∧ curveValue curveZero 65535 = 65534 := by decide +kernel

/-- A set of one entry that stays and one that leaves. -/
def leavingOne : Playback := { fading with entries := [⟨3, 0, 60000, .up, 1, false⟩, ⟨4, 9, 0, .down, 1, true⟩] }

theorem test_invariants_of_small_states :
    Memory.wf running.mem = true ∧ portOk running.port = true ∧ haltedQuiet running = true ∧ viewsOk running = true
    ∧ viewsOk (withPlayback fading) = true ∧ queuesOk running = true ∧ placesOk running = true ∧ placesOk (claiming 1) = true
    ∧ loadsOk running = true ∧ loadsOk unlocking = true ∧ poolOk running = true ∧ poolOk (withPlayback leavingOne) = true
    ∧ entriesReserved running = true ∧ entriesReserved unlocking = true
    ∧ entriesReserved { unlocking with
        loader := { unlocking.loader with current := unlocking.loader.current.map fun c => { c with stage := .entries 3 0 } } } = false
    ∧ loadsOk (withPlayback { fading with load := .waiting }) = false ∧ loadsOk (withPlayback { fading with queue := [⟨.follow, .pause⟩] }) = false
    ∧ listsOk (withPlayback leavingOne) = true ∧ listsOk (withPlayback { leavingOne with incoming := [⟨9, 1, false⟩, ⟨9, 2, false⟩] }) = false := by
  decide +kernel

theorem test_reset_values :
    readRegister 0x00 Block.reset = 0x4842F031 ∧ readRegister 0x08 Block.reset = 0 ∧ readRegister 0x1C Block.reset = 0
    ∧ poolFree Block.reset = 3072 := by decide +kernel

/-! ### States that meet the hypotheses of the longer statements, all together -/

theorem test_hypotheses_of_AnAbortedStartEndsInStopped :
    let b := startingPart .transferring false true
    b.engine.phase = .released ∧ b.engine.state = .starting ∧ b.port.state = .transferring
    ∧ b.port.current = some ⟨.scanner, .read 0x2000 16, 0, none⟩ ∧ b.engine.aborting = true ∧ b.control.run = false := by decide

theorem test_hypotheses_of_boundaries :
    clocked running = true ∧ running.mixer.pass = none ∧ clocked mixing = true
    ∧ mixing.mixer.pass = some ⟨990, 65535, false, [], false⟩ ∧ mixing.engine.phase = .released := by decide

theorem test_hypotheses_of_AFadeEndSettlesThePlayback :
    let b := ended fading
    clocked b = true ∧ reached b.time.clock (playbackOf b 0).timing.fadeEnd = true ∧ (playbackOf b 0).queue = []
    ∧ (playbackOf b 0).load = .none ∧ (playbackOf b 0).fade = .fading ∧ FollowArmed (playbackOf b 0) = none
    ∧ (let c := ended { fading with fade := .releasing, queue := [⟨.post 3, .pause⟩], load := .reading }
       (playbackOf c 0).load ≠ .none ∧ (playbackOf c 0).fade = .releasing) := by decide

theorem test_hypotheses_of_AFollowExpiryAdvancesOrIsSuperseded :
    let b := withPlayback followDue
    let c := withPlayback { followDue with queue := [⟨.post 3, .pause⟩], load := .reading }
    clocked b = true ∧ (playbackOf b 0).fade ≠ .paused ∧ (playbackOf b 0).follow = some 1000
    ∧ reached b.time.clock 1000 = true ∧ (playbackOf b 0).queue = [] ∧ (playbackOf b 0).load = .none
    ∧ (playbackOf b 0).lastCue = some ⟨0, 10, .link, 12, 500, 3000⟩ ∧ b.engine.state ≠ .halted
    ∧ (playbackOf c 0).queue ≠ [] ∧ (playbackOf c 0).load ≠ .none := by decide

theorem test_hypotheses_of_triggers :
    clocked (debounced .go) = true ∧ (triggerOf (debounced .go) 0).timer = some 1000
    ∧ (triggerOf (debounced .go) 0).record.edge.enables (triggerOf (debounced .go) 0).pin = true
    ∧ (debounced .go).engine.state = .running ∧ (triggerOf (debounced .go) 0).record.action = .go
    ∧ true ≠ (triggerOf (withTrigger .reset) 0).pin := by decide

theorem test_hypotheses_of_AReleaseFadesThePlaybackOut :
    let b := withPlayback fading
    CanCome 31 b ∧ (0 : Word).toNat = (0 : Fin 8).val ∧ (playbackOf b 0).queue = [] ∧ (playbackOf b 0).load = .none
    ∧ (playbackOf b 0).fade ≠ .idle ∧ (playbackOf b 0).lastCue.map LastCue.down = some 3000
    ∧ reached 1000 ((1000 : Time) + BitVec.ofNat 32 3000) = false ∧ reached 1000 ((1000 : Time) + BitVec.ofNat 32 0) = true :=
  ⟨canCome_of (by decide), by decide⟩

theorem test_hypotheses_of_ATenureEndsDone :
    let b := writing .done
    let tn : Tenure := ⟨.results, .write 0x1014 [3], 0, none⟩
    b.engine.phase = .released ∧ b.port.state = .transferring ∧ b.engine.aborting = false ∧ b.port.current = some tn
    ∧ tn.client = .results ∧ b.results.queue = [⟨5, .ok, 1, 0, 0⟩] ∧ b.results.writer = .done := by decide

theorem test_hypotheses_of_AClaimTakesAPostedSlot :
    let b := claiming 1
    b.engine.phase = .released ∧ b.engine.state = .running ∧ b.engine.aborting = false ∧ b.port.state = .transferring
    ∧ b.port.current = some ⟨.scanner, .modify (stateWordAddress b.anchor 31) 1 2, 0, none⟩
    ∧ b.scanner.step = .claim 31 [] 0 ∧ Memory.wf b.mem = true
    ∧ b.mem.load (wordAddress (stateWordAddress b.anchor 31)) = 1
    ∧ (claiming 3).mem.load (wordAddress (stateWordAddress b.anchor 31)) ≠ 1 := by decide +kernel

theorem test_hypotheses_of_ACompletedLoadBuildsTheCrossfade :
    let b := unlocking
    let h : CueHeader := ⟨10, .manual, 1, 500, 700, 0, 0, 0⟩
    let c : CurrentLoad := ⟨⟨0, 0, .exactly 10, 0, false⟩, .unlock, true, false, none, some h⟩
    b.engine.phase = .released ∧ b.engine.state = .running ∧ b.engine.aborting = false ∧ b.port.state = .transferring
    ∧ b.port.current = some ⟨.loader, .write 0x8000 [0], 0, none⟩ ∧ b.loader.current = some c ∧ c.stage = .unlock
    ∧ c.abandon = false ∧ c.failed = none ∧ c.header = some h
    ∧ (playbackOf b c.job.playback).queue = [⟨.post 3, .go 0 10 none⟩] ∧ 3 ∈ b.results.reserved ∧ b.loader.queue = []
    ∧ reached b.time.clock (b.time.clock + BitVec.ofNat 32 (0 + max 500 0)) = false := by decide

theorem test_hypotheses_of_faults :
    let b := portAt .transferring .status (.write 0x1000 [7, 8, 9]) 1 []
    let c := portAt .requesting .status (.read 0 1) 2 []
    b.engine.phase = .released ∧ b.port.current = some ⟨.status, .write 0x1000 [7, 8, 9], 0, none⟩ ∧ b.port.consecutive < 2
    ∧ b.engine.state ≠ .halted ∧ b.engine.aborting = false ∧ b.port.state = .transferring
    ∧ c.port.current = some ⟨.status, .read 0 1, 0, none⟩ ∧ c.port.consecutive = 2 ∧ c.port.state = .requesting := by decide

theorem test_hypotheses_of_ALevelFrameEndsAndHandsOver :
    let b := withLine { talking with tx := .characters 258, queries := [⟨5, 1, 7, [], 0⟩] }
    clocked b = true ∧ (lineOf b 0).inFlight = none ∧ (lineOf b 0).config.mode = .send ∧ (lineOf b 0).tx ≠ .idle
    ∧ (lineOf b 0).tx ≠ .trail ∧ (lineOf b 0).config.talkback = true ∧ (lineOf b 0).reply = none
    ∧ (lineOf (asking (flight .gap []) .trail) 0).tx = .trail ∧ (flight .gap []).stage = .gap := by decide

theorem test_hypotheses_of_AReplyGoesOnOrFails :
    let b := asking (flight .receiving [0x5B, 1, 2, 9, 0]) .idle
    let f := flight .receiving [0x5B, 1, 2, 9, 0]
    clocked b = true ∧ (lineOf b 0).inFlight = some f ∧ f.stage = .receiving ∧ (lineOf b 0).config.talkback = true
    ∧ (lineOf b 0).driver = false ∧ f.taken.length = 5 + (f.taken[4]?.getD 0).toNat ∧ f.cancelled = false ∧ f.halted = false
    ∧ ((f.taken.map BitVec.toNat).sum + (0x99 : Byte).toNat) % 256 = 0 := by decide

theorem test_hypotheses_of_the_receiver :
    let b := withLine (receivingLine atCheck (.filling [7]))
    clocked b = true ∧ (lineOf b 0).config.mode = .receive ∧ (lineOf b 0).rx.state = .check
    ∧ (lineOf b 0).staging = .filling [7] ∧ b.mixer.pass = none ∧ (lineOf b 0).signal ≠ .present
    ∧ ((lineOf b 0).rx.sum + (0x51 : Byte).toNat) % 256 = 0 := by decide

/-! ### Characters, frames and the transmitter (R113 to R115, R147) -/

/-- The example of R113: a level frame's header bit by bit; and the state and level of a SEND line of one slot at the edges of its
parts. -/
theorem test_levels_of_a_level_frame :
    (List.range 11).map (characterLevel (true, 0x51)) = [false, true, false, false, false, true, false, true, false, true, true]
    ∧ levelFrame [7] = [(true, 0x51), (false, 0), (false, 7), (false, 0xA8)]
    ∧ (let b := withLine { Line.reset with config := ⟨.send, .slow, 1, false, 0, 1000, .hold⟩, tx := .brk }
       [0, 15, 16, 19, 20, 30, 31, 63, 64].map (txStateAt b 0)
         = [.brk, .brk, .mark, .mark, .characters 0, .characters 0, .characters 1, .characters 3, .idle]
       ∧ [0, 15, 16, 19, 20, 21, 29, 30, 31, 40, 41, 64].map (transmitPin b 0)
         = [false, false, true, true, false, true, true, true, false, false, true, true]) := by decide +kernel

theorem test_levels_of_a_query_frame :
    queryFrame ⟨5, 0x0102, 7, [9], 0⟩
      = [(true, 0x5A), (false, 1), (false, 2), (false, 7), (false, 1), (false, 9), (false, 0x92)]
    ∧ (let b := withLine { talking with tx := .query ⟨5, 0x0102, 7, [], 0⟩ }
       txStateAt b 0 85 = .characters 5 ∧ txStateAt b 0 86 = .turnaround ∧ txStateAt b 0 97 = .idle
         ∧ transmitterLevel b 0 29 = true ∧ transmitterLevel b 0 40 = false) := by decide +kernel

/-! ### Clauses of the control rows and the start -/

theorem test_warm_reset_keeps_the_anchor :
    (after (.softReset 0x100 0) running).anchor = running.anchor ∧ (after (.resetPin 0) running).anchor = running.anchor
    ∧ (after (.coldReset 0) running).anchor.slots = 0 := by decide +kernel

/-- RUNNING with one of everything that the entry into STOPPING ends, each with a slot of its own. -/
def everythingToEnd : Block :=
  { running with
    playbacks := setAt (setAt running.playbacks 0
        { fading with load := .waiting, queue := [⟨.post 1, .go 0 10 none⟩, ⟨.post 2, .pause⟩] }) 1
        { fading with load := .reading, queue := [⟨.post 12, .go 0 10 none⟩, ⟨.post 3, .pause⟩] }
    loader := ⟨[⟨0, 0, .exactly 10, 0, false⟩], some ⟨⟨1, 0, .exactly 10, 0, false⟩, .lock, false, false, none, none⟩, 0, 0⟩
    tables := ⟨[.patch 4 0 1], some (.patch 13 0 1), .ready 5 [], setAt (Vector.replicate 7 .empty) 6 (.ready 6 [])⟩
    lines := setAt running.lines 3 { talking with
      queries := [⟨7, 1, 7, [], 0⟩], inFlight := some (flight .gap []), pending := some (.reset, 9) }
    time := { running.time with pending := some (⟨50000, 8, 255⟩, 8) }
    status := { running.status with snapshot := some ⟨10, 0, .waiting⟩ }
    results := ⟨[], [1, 2, 3, 4, 5, 6, 7, 8, 9, 10, 12, 13], .idle⟩ }

theorem test_entry_into_stopping_completes :
    let t := after (.runClear ⟨0, 0⟩) everythingToEnd
    t.results.queue.map (fun c => (c.slot, c.code))
      = [(2, .cancelled), (1, .abandoned), (3, .cancelled), (4, .cancelled), (5, .cancelled), (6, .cancelled), (7, .cancelled),
         (8, .cancelled), (9, .cancelled), (10, .cancelled)]
    ∧ t.results.reserved = [12, 13] ∧ (lineOf t 3).inFlight = some { flight .gap [] with cancelled := true }
    ∧ t.status.snapshot = none ∧ t.tables.reader = some (.patch 13 0 1)
    ∧ t.loader.queue = [] ∧ t.loader.current.map (·.abandon) = some true
    ∧ (after (.runClear ⟨0, 0⟩) { running with status := { running.status with snapshot := some ⟨10, 0, .writing [] 3⟩ } }).status.snapshot
        = some ⟨10, 0, .writing [] 3⟩ := by decide +kernel

/-- STARTING with a sweep's read-modify-write under way on a lock word that holds a value, some of its words done, and its abort marked
or not. -/
def sweepingAt (aborting : Bool) (done : Nat) (w : Word) : Block :=
  { startingPart .transferring false aborting with
    engine := ⟨.starting, .powerOn, .none, .released, .sweep 0, aborting⟩
    port := { Port.reset with
      state := .transferring, current := some ⟨.loader, .modify 0x8000 2 0, done, if done = 0 then none else some w⟩ }
    mem := Memory.store [] 0x8000 w }

/-- The same with none of its words done. -/
def sweeping (aborting : Bool) (w : Word) : Block := sweepingAt aborting 0 w

theorem test_aborted_tenure_holds_its_progress :
    (after (.runClear ⟨0, 9⟩) (startingPart .transferring true false)).port.current = some ⟨.scanner, .read 0x2000 16, 9, none⟩
    ∧ (after (.controlHold ⟨4, 15⟩) (startingPart .transferring true false)).port.current = some ⟨.scanner, .read 0x2000 16, 15, none⟩
    ∧ (after (.runClear ⟨0, 9⟩) (startingPart .transferring true true)).port.current = some ⟨.scanner, .read 0x2000 16, 0, none⟩
    ∧ (after (.runClear ⟨0, 0⟩) (sweeping false 2)).port.current = some ⟨.loader, .modify 0x8000 2 0, 0, none⟩
    ∧ (after (.controlWait ⟨0x70, 1⟩) (sweeping false 2)).port.current = some ⟨.loader, .modify 0x8000 2 0, 1, some 2⟩
    ∧ (after (.controlBlackout ⟨2, 1⟩) (sweeping false 1)).port.current = some ⟨.loader, .modify 0x8000 2 0, 0, none⟩ := by
  decide +kernel

/-- Held in its read, a sweep's tenure makes no write, whatever the event says; held after it, it makes the write that was in progress. -/
theorem test_aborted_tenure_completes_its_word_only :
    let ends := fun done n => ((after (.tenureEnded n) (sweepingAt true done 2)).mem, (after (.tenureEnded n) (sweepingAt true done 2)).loader.sweeps)
    ends 0 1 = ([(0x8000, 2)], 0) ∧ ends 0 2 = ([(0x8000, 2)], 0) ∧ ends 1 1 = ([(0x8000, 2)], 0) ∧ ends 1 2 = ([], 1)
    ∧ (after (.tenureEnded 2) (sweepingAt true 1 3)).mem = [(0x8000, 3)]
    ∧ (after (.busError 1 true) (sweepingAt true 0 2)).mem = [(0x8000, 2)] ∧ (after (.busError 1 true) (sweepingAt true 1 2)).mem = []
    ∧ (after (.softReset 0x100 1) (sweepingAt true 0 2)).mem = [(0x8000, 2)]
    ∧ (after (.softReset 0x100 1) (sweepingAt true 1 2)).mem = [] := by
  decide +kernel

theorem test_leaving_halted_forgets_queries :
    let b := { withLine { talking with inFlight := some (flight .receiving [0x5B]) } with engine := { running.engine with state := .halted } }
    (lineOf b 0).inFlight.isSome = true ∧ (lineOf (after (.runClear ⟨0, 0⟩) b) 0).inFlight = none := by decide +kernel

theorem test_at_rest_and_not :
    AtRest (inState .stopping)
    ∧ (let b : Block := { inState .stopping with status := { running.status with snapshot := some ⟨10, 0, .writing [] 0⟩ } }
       ¬AtRest b ∧ (after .stoppingDrained b).engine.state = .stopping) := by
  unfold AtRest; decide +kernel

/-! ### Clauses of a frame boundary -/

/-- RUNNING at a boundary at which line 0 turns its talkback off with a query queued, a scan and a status write fall due, a job is
deferred and the result writer waits. -/
def dueAtABoundary : Block :=
  { withLine { talking with pending := some (⟨.send, .fast, 1, false, 0, 1000, .hold⟩, 9), queries := [⟨7, 1, 7, [], 0⟩] } with
    scanner := ⟨.idle, false, 1⟩
    status := { running.status with countdown := 1 }
    loader := ⟨[⟨3, 0, .exactly 10, 1, true⟩], none, 0, 0⟩
    results := ⟨[⟨5, .ok, 1, 0, 0⟩], [7, 9], .waiting⟩ }

theorem test_boundary_clauses :
    let t := after (.frameBoundary BoundaryTaker.all) dueAtABoundary
    (lineOf t 0).config.rate = .fast ∧ (lineOf t 0).tx = .brk ∧ (lineOf t 0).driver = true ∧ (lineOf t 0).queries = []
    ∧ t.scanner = ⟨.row [], false, 1⟩ ∧ t.status.countdown = 40 ∧ t.status.page.isSome = true
    ∧ t.loader.current.map (·.job) = some ⟨3, 0, .exactly 10, 1, false⟩ ∧ (playbackOf t 3).load = .reading
    ∧ t.results.writer = .values
    ∧ t.results.queue = [⟨5, .ok, 1, 0, 0⟩, ⟨7, .cancelled, 0, 0, 0⟩, ⟨9, .ok, 64, 1, 0⟩] := by decide +kernel

theorem test_boundary_clauses_that_change_the_receive_side :
    let x := { receivingLine atCheck (.filling [7]) with signal := .present, signalTimer := some 2000 }
    let with_ := fun f : LineConfig => lineOf (after (.frameBoundary []) (withLine { x with pending := some (f, 9) })) 0
    (with_ ⟨.loop, .slow, 256, false, 0, 1000, .hold⟩).signal = .none ∧ (with_ ⟨.loop, .slow, 256, false, 0, 1000, .hold⟩).driver = false
    ∧ (with_ ⟨.receive, .fast, 256, false, 0, 1000, .hold⟩).rx = .hunt ∧ (with_ ⟨.receive, .fast, 256, false, 0, 1000, .hold⟩).staging = .empty
    ∧ (with_ ⟨.receive, .fast, 256, false, 0, 1000, .hold⟩).signal = .present
    ∧ (with_ ⟨.receive, .slow, 4, false, 0, 1000, .hold⟩).staging = .filling [7] := by decide +kernel

/-- The patch entry of an intensity channel on slots 0 and 1 of line 0 and on output 15. -/
def wideEntry : PatchEntry := ⟨true, .max, 0, [.line 0 0 true, .output 15]⟩

theorem test_tables_are_installed :
    let b := { withTables ⟨[.patch 6 0x3000 1], none, .ready 5 [⟨3, wideEntry⟩], Vector.replicate 7 .empty⟩ with results := ⟨[], [5, 6], .waiting⟩ }
    let t := after (.frameBoundary BoundaryTaker.all) b
    getAt t.mixer.patch 3 = wideEntry ∧ t.mixer.owners.owner (.slot 0 1) = some 3 ∧ t.mixer.owners.owner (.slot 0 2) = none
    ∧ t.results.queue = [⟨5, .ok, 1, 2, 0⟩] ∧ t.tables.reader = some (.patch 6 0x3000 1) ∧ t.tables.staging = .filling []
    ∧ replacing [⟨3, wideEntry⟩] 3 = some wideEntry ∧ occupies wideEntry (.output 15) = true
    ∧ (let c := { withTables ⟨[], none, .empty, setAt (Vector.replicate 7 .empty) 6 (.ready 5 [9])⟩ with results := ⟨[], [5], .waiting⟩ }
       getAt (after (.frameBoundary []) c).mixer.curves 6 = [9]
       ∧ (after (.frameBoundary []) c).results.queue = [⟨5, .ok, 7, 0, 0⟩]) := by decide +kernel

theorem test_swap_copies_a_snapshot :
    let image : Image := { Image.zero with levels := setAt Image.zero.levels 1023 65535 }
    let b : Block := { running with
      store := { running.store with complete := true, b := image }, status := { running.status with snapshot := some ⟨10, 0, .waiting⟩ } }
    getAt b.store.working.levels 1023 = 65535
    ∧ (after (.frameBoundary []) b).status.snapshot.map (fun j => (j.slot, match j.step with | .writing ws n => (ws[511]?, n) | _ => (none, 0)))
      = some (10, some 0xFFFF0000, 0) := by decide +kernel

/-- A pass with channel 3 patched wide, held by a fade half way to 60000 with its master at full. -/
def imaging : Block :=
  let b := withPlayback fading
  { b with mixer := { b.mixer with
    pass := some ⟨1000, 32768, false, [⟨3, Vector.replicate 256 1⟩], false⟩
    patch := setAt b.mixer.patch 3 wideEntry
    owners := (b.mixer.owners.put (some 3) (.slot 0 0)).put (some 3) (.slot 0 1) |>.put (some 3) (.output 15) } }

/-- 30000 at half the grand master is level 15000, 0x3A98. -/
theorem test_image_of_a_held_channel :
    let x := (after .mixComplete imaging).store.working
    getAt x.levels 3 = 15000 ∧ getAt x.levels 4 = 257 * 32768 / 65535 ∧ getAt x.levels 0 = 0
    ∧ getAt (getAt x.slots 0) 0 = 0x3A ∧ getAt (getAt x.slots 0) 1 = 0x98 ∧ getAt (getAt x.slots 0) 2 = 0
    ∧ getAt x.outputs 15 = 15000 ∧ getAt x.outputs 0 = 0 := by decide +kernel

/-! ### Clauses of timers, outputs and triggers -/

theorem test_fade_end_with_a_follow_due :
    let x := { fading with lastCue := some ⟨0, 10, .auto, 0, 0, 3000⟩ }
    let loading := ended { x with load := .reading, queue := [⟨.post 3, .pause⟩] }
    let halted : Block := { ended x with engine := { running.engine with state := .halted } }
    FollowArmed x = some 2000 ∧ reached 2000 2000 = true ∧ (after (.fadeEnd 0) loading).superseded = 1
    ∧ (playbackOf (after (.fadeEnd 0) loading) 0).fade = .holding ∧ (playbackOf (after (.fadeEnd 0) halted) 0).queue = []
    ∧ (playbackOf (after (.fadeEnd 0) halted) 0).fade = .holding := by decide +kernel

/-- The same output inverted. -/
def invertedAt (m : OutputMode) (v : Nat) : Block :=
  let b := outputAt m v
  { b with outputs := { b.outputs with config := { b.outputs.config with inverts := setAt b.outputs.config.inverts 0 true } } }

theorem test_output_pin_inverted :
    outputPin (invertedAt .off 65535) 0 0 = true ∧ outputPin (invertedAt .pwm 63) 0 0 = true
    ∧ outputPin (invertedAt .pwm 30080) 0 469 = false ∧ outputPin (invertedAt .pwm 30080) 0 470 = true
    ∧ outputPin (invertedAt .pwm 65472) 0 1023 = false ∧ outputPin (invertedAt .switch 32767) 0 0 = true
    ∧ outputPin (invertedAt .switch 32768) 0 0 = false
    ∧ (let b := { outputAt .off 9 with outputs := { (outputAt .off 9).outputs with pending := some (outputAt .switch 9).outputs.config } }
       getAt (after .pwmPeriodEnd b).outputs.compare 0 = 9 ∧ getAt (after .pwmPeriodEnd b).outputs.config.modes 0 = .switch) := by
  decide +kernel

theorem test_edges_that_act :
    (after (.triggerPinChange 0 true) (withTrigger (edged 0 .blackoutToggle))).mixer.blackoutRequest = true
    ∧ (playbackOf (after (.triggerPinChange 0 true) (withTrigger (edged 0 .goNext))) 0).queue = [⟨.trigger 0, .goNext (some 0)⟩]
    ∧ (let g := { edged 10 .go with pin := true, timer := some 1000 }
       let crowded := { fading with load := .reading, queue := List.replicate 4 ⟨.post 3, .pause⟩ }
       let full := { withTrigger g with playbacks := setAt running.playbacks 0 crowded }
       (triggerOf (after (.debounceExpiry 0) full) 0).dropped = 1 ∧ (triggerOf (after (.debounceExpiry 0) full) 0).accepted = 1)
    ∧ (let g := { edged 10 .go with pin := true, timer := some 1000, record := ⟨.both, 10, .go, 0, 1, 10, none⟩ }
       (playbackOf (after (.debounceExpiry 0) (withTrigger g)) 0).queue = []) := by decide +kernel

/-! ### Clauses of RESUME and RELEASE -/

theorem test_resume_to_a_follow_already_reached :
    let b := withPlayback { pausedAs .holding 0 with queue := [] }
    CanCome 31 b ∧ reached 1000 ((1000 : Time) + BitVec.ofInt 32 0) = true ∧ (playbackOf b 0).lastCue.isSome = true
    ∧ (playbackOf (after (.resume 31 0) b) 0).queue = [⟨.follow, .goNext none⟩]
    ∧ (playbackOf (after (.resume 31 0) b) 0).load = .reading ∧ resultsAfter (.resume 31 0) b = [⟨31, .ok, 0, 0, 0⟩] :=
  ⟨canCome_of (by decide), by decide +kernel⟩

theorem test_release_of_a_load :
    let queue : List QueuedRequest := [⟨.post 3, .go 0 10 none⟩, ⟨.trigger 0, .pause⟩, ⟨.post 4, .pause⟩]
    let waits := { withPlayback { fading with load := .waiting, queue := queue } with
      loader := ⟨[⟨0, 0, .exactly 10, 0, false⟩, ⟨1, 0, .first, 0, false⟩], none, 0, 0⟩, results := ⟨[], [3, 4], .idle⟩ }
    let reads := { withPlayback { fading with load := .reading, queue := queue } with
      loader := ⟨[], some ⟨⟨0, 0, .exactly 10, 0, false⟩, .seekCount, true, false, none, none⟩, 0, 0⟩, results := ⟨[], [3, 4], .idle⟩ }
    CanCome 31 waits ∧ CanCome 31 reads
    ∧ resultsAfter (.release 31 0 1) waits = [⟨4, .cancelled, 0, 0, 0⟩, ⟨3, .abandoned, 0, 0, 0⟩, ⟨31, .ok, 1, 0, 0⟩]
    ∧ (after (.release 31 0 1) waits).loader.queue = [⟨1, 0, .first, 0, false⟩]
    ∧ resultsAfter (.release 31 0 1) reads = [⟨4, .cancelled, 0, 0, 0⟩, ⟨31, .ok, 1, 0, 0⟩]
    ∧ (after (.release 31 0 1) reads).loader.current.map (·.abandon) = some true :=
  ⟨canCome_of (by decide), canCome_of (by decide), by decide +kernel⟩

/-! ### Clauses of a tenure's end -/

/-- STARTING with an anchor read of a number of words under way, at 0x2000. -/
def anchoring (before : List Word) (n : Nat) (m : Memory) : Block :=
  { startingPart .transferring true false with
    anchorReg := 0x2000
    engine := ⟨.starting, .powerOn, .none, .released, .anchor before, false⟩
    port := { Port.reset with state := .transferring, current := some ⟨.scanner, .read 0x2040 n, 0, none⟩ }
    mem := m }

/-- The first 16 words of an anchor block of one bank, `slots` slots and a bank at 0x8000. -/
def anchorStart (slots : Word) : List Word := [0x46513341, 0x1000, slots, 0x4000, 1, 0x8000] ++ List.replicate 10 0

theorem test_start_tenures :
    (after .tenureEnd (anchoring [] 16 [])).port.current = some ⟨.scanner, .read 0x2040 5, 0, none⟩
    ∧ (after .tenureEnd (anchoring (anchorStart 4) 5 [])).anchor.slots = 4
    ∧ (after .tenureEnd (anchoring (anchorStart 4) 5 [])).port.current = some ⟨.loader, .modify 0x8000 2 0, 0, none⟩
    ∧ (after .tenureEnd (anchoring (anchorStart 33) 5 [])).engine.fault = .anchorBad
    ∧ (after .tenureEnd (sweeping false 2)).loader.sweeps = 1 ∧ (after .tenureEnd (sweeping false 1)).loader.sweeps = 0
    ∧ (after .tenureEnd (sweeping false 1)).engine.state = .running
    ∧ (after .tenureEnd { sweeping false 1 with anchor := { running.anchor with bankCount := 2 } }).engine.start = .sweep 1 := by
  decide +kernel

/-- RUNNING with the reader at the last burst of a PATCH list of slot 5, read from 0x3000. -/
def patching (ws : List Word) (count n : Nat) (m : Memory) : Block :=
  { portAt .transferring .tables (.read 0x3000 n) 0 m with
    tables := ⟨[], some (.patch 5 0x3000 count), .filling ws, Vector.replicate 7 .empty⟩
    results := ⟨[], [5], .waiting⟩ }

/-- A record of channel 3 on slots 254 and 255 of line 0, and one of channel 4 on slot 255. -/
def recordOf3 : List (Nat × Word) := [(0x3000, 0x01000003), (0x3004, 0x48FE)]
def recordOf4 : List (Nat × Word) := [(0x300C, 0x01000004), (0x3010, 0x40FF)]

theorem test_patch_tenures :
    RecordInRange 0x01000003 0x48FE 0 ∧ ¬RecordInRange 0x01000003 0x48FF 0 ∧ DestinationInRange 0x48FE
    ∧ (after .tenureEnd (patching [] 6 16 [])).port.current = some ⟨.tables, .read 0x3040 2, 0, none⟩
    ∧ (after .tenureEnd (patching [] 1 3 recordOf3)).tables.staging
        = .ready 5 [⟨3, ⟨false, .max, 0, [.line 0 254 true]⟩⟩]
    ∧ (after .tenureEnd (patching [] 2 6 (recordOf3 ++ recordOf4))).results.queue = [⟨5, .slotTaken, 1, 3, 0⟩]
    ∧ (after .tenureEnd (patching [] 1 3 [(0x3000, 0x01000400)])).results.queue = [⟨5, .badParam, 0, 0, 0⟩] := by
  unfold RecordInRange DestinationInRange; decide +kernel

/-- RUNNING with the reader at a burst of curve 7. -/
def curving (ps : List Nat) (n : Nat) (m : Memory) : Block :=
  { portAt .transferring .tables (.read 0x3000 n) 0 m with
    tables := ⟨[], some (.curve 5 6 0x3000), .empty, setAt (Vector.replicate 7 .empty) 6 (.filling ps)⟩
    results := ⟨[], [5], .waiting⟩ }

theorem test_curve_tenures :
    (after .tenureEnd (curving [] 16 [])).port.current = some ⟨.tables, .read 0x3040 16, 0, none⟩
    ∧ (after .tenureEnd (curving (List.replicate 64 65535) 1 [(0x3000, 7)])).tables.reader = none
    ∧ (after .tenureEnd (curving (List.replicate 64 65535) 1 [(0x3000, 7)])).tables.shadows[6]
        = .ready 5 (List.replicate 64 65535 ++ [7])
    ∧ (after .tenureEnd (curving (List.replicate 16 0) 16 [(0x3008, 65536)])).results.queue = [⟨5, .badParam, 18, 0, 0⟩] := by
  decide +kernel

/-- A reply of five data bytes, and a TALKBACK write of it under way with another behind it. -/
def replyOf5 : Reply := ⟨5, 0x0102, 9, [1, 2, 3, 4, 5], 0x9000⟩
def replying : Block :=
  { portAt .transferring .talkback (.write 0x9000 []) 0 [] with
    talkback := [0, 3]
    lines := setAt (setAt running.lines 0 { talking with reply := some replyOf5 }) 3 { talking with reply := some replyOf5 }
    results := ⟨[], [5], .waiting⟩ }

theorem test_reply_write_ends :
    replyWords replyOf5 = [0x05090102, 0x04030201, 0x00000005]
    ∧ resultsAfter .tenureEnd replying = [⟨5, .ok, 9, 5, 0⟩] ∧ (lineOf (after .tenureEnd replying) 0).reply = none
    ∧ (after .tenureEnd replying).port.current = some ⟨.talkback, .write 0x9000 [0x05090102, 0x04030201, 5], 0, none⟩ := by
  decide +kernel

/-- RUNNING with the STATUS client's first job at a burst. -/
def statusAt (w : StatusWriter) : Block :=
  { portAt .transferring .status (.write 0x4000 [0]) 0 [] with status := w, results := ⟨[], [5], .waiting⟩ }

theorem test_status_bursts :
    let body := List.replicate 103 (7 : Word)
    let words := List.replicate 512 (9 : Word)
    let next := fun w => (after .tenureEnd (statusAt w)).port.current.map Tenure.kind
    next ⟨1, 4, some ⟨body, 0⟩, 0, none, [.page]⟩ = some (.write 0x4004 (List.replicate 16 7))
    ∧ next ⟨1, 4, some ⟨body, 6⟩, 0, none, [.page]⟩ = some (.write 0x4184 (List.replicate 7 7))
    ∧ next ⟨1, 4, some ⟨body, 7⟩, 0, none, [.page]⟩ = some (.write 0x4000 [6])
    ∧ next ⟨1, 4, some ⟨body, 8⟩, 0, some ⟨5, 0x6000, .writing words 0⟩, [.page, .snapshot]⟩
        = some (.write 0x6000 (List.replicate 16 9))
    ∧ next ⟨1, 4, none, 0, some ⟨5, 0x6000, .writing words 30⟩, [.snapshot]⟩ = some (.write 0x67C0 (List.replicate 16 9))
    ∧ next ⟨1, 4, some ⟨body, 0⟩, 0, some ⟨5, 0x6000, .writing words 31⟩, [.snapshot, .page]⟩ = some (.write 0x4000 [5])
    ∧ resultsAfter .tenureEnd (statusAt ⟨1, 4, none, 0, some ⟨5, 0x6000, .writing words 31⟩, [.snapshot]⟩) = [⟨5, .ok, 0, 0, 0⟩] := by
  decide +kernel

/-! ### Clauses of the scanner -/

/-- The scanner at the state row's last burst, slots 3 and 31 POSTED. -/
def rowAt (e : EngineState) (again : Bool) (reserved : List (Fin 32)) : Block :=
  { portAt .transferring .scanner (.read 0x1040 16) 0 [(0x107C, 1)] with
    engine := { running.engine with state := e }
    scanner := ⟨.row [0, 0, 0, 1, 0, 0, 0, 0, 0, 0, 0, 0, 0, 0, 0, 0], again, 1⟩
    results := ⟨[], reserved, .waiting⟩ }

theorem test_state_row_tenures :
    (after .tenureEnd { rowAt .running false [] with scanner := ⟨.row [], false, 1⟩ }).port.current
      = some ⟨.scanner, .read 0x1040 16, 0, none⟩
    ∧ (after .tenureEnd (rowAt .running false [])).scanner.step = .claim 3 [31] 0
    ∧ (after .tenureEnd (rowAt .running false [3])).scanner.step = .claim 31 [] 0
    ∧ (after .tenureEnd (rowAt .running false [3, 31])).scanner.step = .idle
    ∧ (after .tenureEnd (rowAt .running true [3, 31])).scanner = ⟨.row [], false, 1⟩
    ∧ (after .tenureEnd (rowAt .stopping true [])).scanner = ⟨.idle, false, 1⟩
    ∧ (let many := { rowAt .running false [] with results := ⟨List.replicate 56 ⟨30, .ok, 0, 0, 0⟩, [], .waiting⟩ }
       (after .tenureEnd many).scanner.step = .idle) := by decide +kernel

/-- The words of a request of a kind, its other words 0. -/
def requestWith (kind : Word) : List Word := kind :: List.replicate 10 0

/-- The body read of slot 31 with a request of a kind, and the part before its slot was taken. -/
def bodyBefore (kind : Word) : Block :=
  { running with
    scanner := ⟨.body 31 [] 1 (requestWith kind), false, 1⟩, mem := Memory.store [] 0x17C4 kind, results := ⟨[], [], .waiting⟩ }
def bodyRead (kind : Word) : Block :=
  { reservePlace 31 (bodyBefore kind) with
    port := { running.port with state := .transferring, current := some ⟨.scanner, .read 0x17C4 11, 0, none⟩ } }

theorem test_body_is_dispatched :
    CanCome 31 (bodyBefore 8) ∧ { (bodyRead 8).port.release with consecutive := 0 } = (bodyBefore 8).port
    ∧ rowOfWords 31 (requestWith 8) = some (.blackout 31 0) ∧ rowOfWords 31 (requestWith 18) = none
    ∧ resultsAfter .tenureEnd (bodyRead 8) = resultsAfter (.blackout 31 0) (bodyBefore 8)
    ∧ resultsAfter .tenureEnd (bodyRead 18) = [⟨31, .badKind, 0, 0, 0⟩] ∧ (after .tenureEnd (bodyRead 8)).scanner.step = .idle :=
  ⟨⟨by decide, by decide, by decide, by decide, by decide, fun _ _ => by simp [bodyBefore]⟩, by decide +kernel⟩

/-- A claim latches the request; what the host then stores to its words does not reach it, and what the part stores to them does. -/
theorem test_changes_after_a_claim :
    let claimed := after .tenureEnd { claiming 1 with mem := [(0x107C, 1), (0x17C4, 8), (0x17D0, 1)] }
    let changed := after (.mgntGrant [(0x17C4, 18), (0x17D0, 0)]) claimed
    let own := fun k : TenureKind =>
      { changed with port := { changed.port with state := .transferring, current := some ⟨.status, k, 0, none⟩ } }
    bodyWordAddress running.anchor 31 1 = 0x17C4 ∧ claimed.scanner.step = .body 31 [] 1 [8, 0, 0, 1, 0, 0, 0, 0, 0, 0, 0]
    ∧ changed.mem = [(0x107C, 2), (0x17C4, 18)] ∧ changed.scanner = claimed.scanner
    ∧ (after .tenureEnd changed).mixer.blackoutRequest = true
    ∧ (after .tenureEnd (own (.write 0x17D0 [0, 7]))).scanner.step = .body 31 [] 1 [8, 0, 0, 0, 7, 0, 0, 0, 0, 0, 0]
    ∧ (after .tenureEnd (own (.write 0x17F0 [5]))).scanner = claimed.scanner
    ∧ (after .tenureEnd (own (.modify 0x17CC 1 6))).scanner = claimed.scanner
    ∧ (after (.busError 1 false) (own (.write 0x17D0 [0, 7]))).scanner.step = .body 31 [] 1 [8, 0, 0, 0, 0, 0, 0, 0, 0, 0, 0] := by
  decide +kernel

theorem test_slots_taken_in_stopping :
    resultsAfter .tenureEnd { bodyRead 8 with engine := { running.engine with state := .stopping } } = [⟨31, .cancelled, 0, 0, 0⟩]
    ∧ resultsAfter .tenureEnd { claiming 1 with engine := { running.engine with state := .stopping }, results := ⟨[], [], .waiting⟩ }
        = [⟨31, .cancelled, 0, 0, 0⟩] := by decide +kernel

/-! ### Clauses of the cue loader -/

/-- The loader's job for cue 10 of bank 0, playback 0 and slot 3 at a stage, with a tenure under way. -/
def loadingAt (stage : LoadStage) (held abandon : Bool) (attempts : Nat) (k : TenureKind) (m : Memory) : Block :=
  { portAt .transferring .loader k 0 m with
    loader := ⟨[], some ⟨⟨0, 0, .exactly 10, attempts, false⟩, stage, held, abandon, none, some ⟨10, .manual, 17, 500, 700, 0, 0, 0⟩⟩, 0, 0⟩
    results := ⟨[], [3], .waiting⟩
    playbacks := setAt running.playbacks 0 { Playback.reset with load := .reading, queue := [⟨.post 3, .go 0 10 none⟩] } }

/-- What the loader's job goes on to, with the code fixed at a failure. -/
def goesOnTo (b : Block) : Option (LoadStage × Option ResultCode) :=
  (after .tenureEnd b).loader.current.map fun c => (c.stage, c.failed)

theorem test_loader_lock :
    let lock := fun abandon attempts m => loadingAt .lock false abandon attempts (.modify 0x8000 0 2) m
    goesOnTo (lock false 0 []) = some (.seekCount, none) ∧ goesOnTo (lock true 0 []) = some (.unlock, some .abandoned)
    ∧ (after .tenureEnd (lock false 6 [(0x8000, 1)])).loader.queue = [⟨0, 0, .exactly 10, 7, true⟩]
    ∧ resultsAfter .tenureEnd (lock false 7 [(0x8000, 1)]) = [⟨3, .bankBusy, 0, 0, 0⟩]
    ∧ resultsAfter .tenureEnd (lock true 7 [(0x8000, 1)]) = [⟨3, .abandoned, 0, 0, 0⟩] := by decide +kernel

theorem test_loader_seek :
    let count := fun m => goesOnTo (loadingAt .seekCount true false 0 (.read 0x8004 1) m)
    let seek := fun c p n w => goesOnTo (loadingAt (.seekDirectory c p) true false 0 (.read 0x8008 n) [(0x8008, w)])
    count [] = some (.unlock, some .cueMissing) ∧ count [(0x8004, 4097)] = some (.unlock, some .badCue)
    ∧ count [(0x8004, 4096)] = some (.seekDirectory 4096 0, none)
    ∧ seek 1 0 1 0x3000A = some (.header 10 3 1, none) ∧ seek 1 0 1 0x2000A = some (.unlock, some .badCue)
    ∧ seek 1 0 1 0x3000B = some (.unlock, some .cueMissing) ∧ seek 1 0 1 0x30009 = some (.unlock, some .cueMissing)
    ∧ seek 17 0 16 9 = some (.seekDirectory 17 16, none)
    ∧ goesOnTo (loadingAt .seekCount true true 0 (.read 0x8004 1) []) = some (.unlock, some .abandoned) := by decide +kernel

theorem test_loader_header_and_entries :
    let header := fun m => loadingAt (.header 10 3 1) true false 0 (.read 0x800C 8) m
    let entries := fun p n m => loadingAt (.entries 3 p) true false 0 (.read 0x802C n) m
    let full := setAt (header [(0x800C, 10), (0x8010, 1)]).playbacks 1 { Playback.reset with reservation := 3072 }
    goesOnTo (header [(0x800C, 10), (0x8010, 1024)]) = some (.entries 3 0, none) ∧ goesOnTo (header [(0x800C, 10)]) = some (.unlock, none)
    ∧ goesOnTo (header [(0x800C, 11)]) = some (.unlock, some .badCue)
    ∧ goesOnTo { header [(0x800C, 10), (0x8010, 1)] with playbacks := full } = some (.unlock, some .noRoom)
    ∧ goesOnTo (entries 0 16 [(0x802C, 0x3FF0007)]) = some (.entries 3 16, none)
    ∧ goesOnTo (entries 16 1 [(0x802C, 0x83FF0007)]) = some (.unlock, none)
    ∧ (playbackOf (after .tenureEnd (entries 16 1 [(0x802C, 0x83FF0007)])) 0).incoming = [⟨1023, 7, true⟩]
    ∧ goesOnTo (entries 16 1 [(0x802C, 0x4000000)]) = some (.unlock, some .badCue) := by decide +kernel

/-- The header that the eight words 10, 1, 0 … make. -/
theorem test_header_is : HeaderIs 10 [10, 1, 0, 0, 0, 0, 0, 0] ⟨10, .manual, 1, 0, 0, 0, 0, 0⟩
    ∧ MeetsSearch (.exactly 10) 10 ∧ ¬MeetsSearch (.above 10) 10 ∧ MeetsSearch .first 10 := by
  unfold HeaderIs MeetsSearch; decide

theorem test_load_ends_unfinished :
    let b := fun abandon failed => { unlocking with loader := ⟨[], some ⟨⟨0, 0, .exactly 10, 0, false⟩, .unlock, true, abandon, failed, none⟩, 0, 0⟩ }
    resultsAfter .tenureEnd (b true none) = [⟨3, .abandoned, 0, 0, 0⟩]
    ∧ resultsAfter .tenureEnd (b false (some .noRoom)) = [⟨3, .noRoom, 0, 0, 0⟩]
    ∧ (playbackOf (after .tenureEnd (b true none)) 0).load = .none := by decide +kernel

/-! ### A faulted read-modify-write, a broadcast at a halt, and a LOOP line -/

theorem test_faulted_modify :
    let b := fun w => portAt .transferring .status (.modify 0x1000 1 2) 0 (Memory.store [] 0x1000 w)
    (after (.busError 0 true) (b 1)).mem = [(0x1000, 1)] ∧ (after (.busError 1 false) (b 1)).mem = [(0x1000, 1)]
    ∧ (after (.readyTimeout 1 true) (b 1)).mem = [(0x1000, 2)] ∧ (after (.readyTimeout 1 true) (b 3)).mem = [(0x1000, 3)] := by
  decide +kernel

theorem test_broadcast_at_a_halt :
    let f : InFlight := { flight .sending [] with query := ⟨5, 65535, 7, [], 0⟩, halted := true }
    resultsAfter (.queryFrameEnd 0) (asking f (.query f.query)) = [⟨5, .busFault, 0, 0, 0⟩]
    ∧ resultsAfter (.queryFrameEnd 0) (asking { f with cancelled := true } (.query f.query)) = [⟨5, .cancelled, 0, 0, 0⟩] := by
  decide +kernel

/-- Line 0 after a command, looping a frame of one slot whose presented byte is 0, at a place of its receiver. -/
def loopingLine (tx : TxState) (rx : Receiver) (st : LineStaging) : Line :=
  { Line.reset with config := ⟨.loop, .slow, 1, false, 0, 1000, .hold⟩, tx := tx, rx := rx, staging := st }
def looped (c : Instr) (x : Line) : Line := lineOf (after c (withLine x)) 0

theorem test_loop_receiver :
    (looped (.rxBreak 0) (loopingLine .brk .hunt .empty)).rx.state = .brk
    ∧ (looped (.rxBreak 0) (loopingLine .idle .hunt .empty)).rx.state = .hunt
    ∧ (looped (.rxBreakEnd 0) (loopingLine .brk ⟨.brk, 0, 0, 0, true, false⟩ .empty)).tx = .mark
    ∧ (looped (.startOfALow 0) (loopingLine .mark ⟨.mark, 0, 0, 0, false, true⟩ .empty)).tx = .characters 0
    ∧ (looped (.rxCharacter 0 false 0) (loopingLine (.characters 0) ⟨.header, 0, 0, 0, true, false⟩ .empty)).rx.state = .count
    ∧ (looped (.rxCharacter 0 true 9) (loopingLine (.characters 1) ⟨.count, 0, 0, 0x51, true, false⟩ .empty)).tx = .characters 2
    ∧ (looped (.rxCharacter 0 true 9) (loopingLine (.characters 2) ⟨.slots, 1, 0, 0x51, true, false⟩ .empty)).staging = .filling [0]
    ∧ (looped (.rxCharacter 0 true 9) (loopingLine (.characters 3) ⟨.check, 1, 1, 0x51, true, false⟩ (.filling [0]))).received = 1 := by
  decide +kernel

/-- What the transmitter of that line gives at its check: the value that makes the sum a multiple of 256. -/
theorem test_loop_gives :
    LoopGives 0 (withLine (loopingLine (.characters 3) ⟨.check, 1, 1, 0x51, true, false⟩ (.filling [0]))) false 0xAF := by
  unfold LoopGives; decide +kernel

/-! ### Clauses of the pool, of a boundary's page and inputs, of the arbiter and of faults -/

theorem test_control_rows_that_move_run :
    (after (.controlHold ⟨4, 0⟩) running).engine.state = .stopping
    ∧ (after (.controlWait ⟨0, 0⟩) (inState .halted)).engine.state = .stopped
    ∧ (after (.controlBlackout ⟨3, 0⟩) (inState .stopped)).engine.state = .starting
    ∧ (after (.controlBlackout ⟨2, 0⟩) (startingPart .requesting true false)).engine.state = .stopped := by decide +kernel

/-- The same part with a pass running. -/
def passing (b : Block) : Block := { b with mixer := { b.mixer with pass := mixing.mixer.pass } }

theorem test_entries_await_landing :
    let during := after (.fadeEnd 0) (passing (ended leavingOne))
    poolInUse during = 1 ∧ awaitingLanding during = 1 ∧ poolFree during = 3070 ∧ poolFree (after .mixComplete during) = 3071
    ∧ poolFree (after (.fadeEnd 0) (ended leavingOne)) = 3071
    ∧ awaitingLanding (after (.fadeEnd 0) (passing (ended { leavingOne with fade := .releasing }))) = 2
    ∧ awaitingLanding (after (.runClear ⟨0, 0⟩) (passing (withPlayback leavingOne))) = 2
    ∧ (after (.runClear ⟨0, 0⟩) (passing (withPlayback leavingOne))).mixer.held.map (fun e => (e.playback, e.freed))
        = [(0, 2), (1, 0), (2, 0), (3, 0), (4, 0), (5, 0), (6, 0), (7, 0)]
    ∧ awaitingLanding (after (.runClear ⟨0, 0⟩) (passing { withPlayback leavingOne with engine := { running.engine with state := .halted } })) = 2
    ∧ awaitingLanding (after (.release 31 0 0) (passing (withPlayback fading))) = 1 := by decide +kernel

/-- A load's build in a pass: the two lists' entries less the set's are spare and await landing. -/
theorem test_a_build_frees_its_spare_entries :
    let b := { unlocking with playbacks := modAt unlocking.playbacks 0 fun x => { x with entries := [⟨9, 5, 5, .up, 1, false⟩] } }
    (playbackOf (after .tenureEnd (passing b)) 0).entries = [⟨9, 5, 65535, .up, 1, false⟩]
    ∧ awaitingLanding (after .tenureEnd (passing b)) = 1 ∧ awaitingLanding (after .tenureEnd b) = 0 := by decide +kernel

/-- The page's body latched at a boundary, and whether its first burst is the tenure in hand. -/
def pageAt (order : List BoundaryTaker) (b : Block) : List Word :=
  ((after (.frameBoundary order) b).status.page.map PageJob.body).getD []

theorem test_a_page_is_latched_and_begun :
    let due := { running with status := { running.status with countdown := 1, edition := 6 } }
    let late := passing { due with loader := ⟨[⟨3, 0, .exactly 10, 1, true⟩], none, 5, 4⟩, superseded := 9 }
    (pageAt [] due).length = 103 ∧ (pageAt [] due)[0]? = some 2 ∧ (pageAt [] due)[1]? = some 1000 ∧ (pageAt [] due)[2]? = some 8
    ∧ (after (.frameBoundary []) due).port.current = some ⟨.status, .write 0x4000 [7], 0, none⟩
    ∧ (after (.frameBoundary []) due).status.order = [.page]
    ∧ (pageAt [.mixer, .status] late)[3]? = some 1 ∧ (pageAt [.status, .mixer] late)[3]? = some 0
    ∧ (pageAt [] late)[6]? = some 4 ∧ (pageAt [] late)[7]? = some 5 ∧ (pageAt [] late)[8]? = some 9 ∧ (pageAt [] late)[9]? = some 3072
    ∧ (pageAt [.loader, .status] late)[22]? = some 0x200 ∧ (pageAt [.status, .loader] late)[22]? = some 0
    ∧ (after (.frameBoundary []) { due with status := { due.status with page := some ⟨[], 3⟩ } }).status.skipped = 1 := by decide +kernel

/-- The words of a fading playback and of a line with errors. -/
theorem test_page_words :
    playbackWords 1000 { fading with load := .reading, queue := [⟨.follow, .goNext none⟩] } = [0x10201, 0xA0000, 0xFFFF01F4, 1]
    ∧ (playbackWords 0 .reset)[1]? = some 0xFFFFFFFF
    ∧ (lineWords { talking with errors := { talking.errors with overrun := ⟨7, true⟩ }, signal := .lost, lastFrame := .error .overrun }).take 2
        = [0x60201, 16] := by decide +kernel

theorem test_a_pass_latches_its_inputs :
    let x := { receivingLine .hunt .empty with layer := Vector.replicate 256 7, pending := some (⟨.send, .slow, 1, false, 0, 1000, .hold⟩, 9) }
    let y := { Line.reset with pending := some (⟨.loop, .slow, 1, false, 44, 1000, .hold⟩, 10) }
    let b := { running with lines := setAt (setAt running.lines 0 x) 3 y }
    let inputs := fun order => (after (.frameBoundary order) b).mixer.pass.map PassLatch.inputs
    inputs [.mixer] = some [⟨0, Vector.replicate 256 7⟩] ∧ inputs [.line 0, .mixer] = some []
    ∧ inputs [.line 3, .line 0, .mixer, .line 3] = some [⟨44, Vector.replicate 256 0⟩] := by decide +kernel

/-- The port at the last burst of a page with requests waiting and the pointer at a client. -/
def arbitrating (waiting : List Client) (pointer : Client) : Block :=
  { statusAt ⟨1, 4, some ⟨[], 8⟩, 0, none, [.page]⟩ with
    port := { (statusAt ⟨1, 4, some ⟨[], 8⟩, 0, none, [.page]⟩).port with
      waiting := waiting.foldl (fun w c => setAt w c.index (some (.read 0x100 1))) (Vector.replicate 6 none), pointer := pointer } }

theorem test_the_arbiter_serves_in_order :
    let served := fun waiting pointer => ((after .tenureEnd (arbitrating waiting pointer)).port.current.map Tenure.client,
      (after .tenureEnd (arbitrating waiting pointer)).port.pointer)
    served [.loader, .results] .scanner = (some .results, .results) ∧ served [.loader, .results] .results = (some .loader, .loader)
    ∧ served [.scanner, .results] .status = (some .scanner, .scanner) ∧ served [.scanner, .talkback] .tables = (some .talkback, .talkback)
    ∧ served [.results] .results = (some .results, .results) ∧ served [] .tables = (none, .tables)
    ∧ turnsAfter .status .scanner = 0 ∧ turnsAfter .status .status = 5 ∧ turnsAfter .loader .scanner = 3 := by decide +kernel

/-- A claim that finds its slot DONE: the next POSTED slot that holds no place is claimed, or the scan ends. -/
theorem test_the_scan_goes_on :
    let missed := fun (rest : List (Fin 32)) (taken : Nat) (r : Results) =>
      (after .tenureEnd { claiming 3 with scanner := ⟨.claim 31 rest taken, false, 1⟩, results := r }).scanner.step
    missed [4, 5, 6] 7 ⟨[], [4], .waiting⟩ = .claim 5 [6] 7 ∧ missed [4, 5, 6] 8 ⟨[], [], .waiting⟩ = .idle
    ∧ missed [4] 0 ⟨[], [4], .waiting⟩ = .idle ∧ missed [4] 0 ⟨List.replicate 56 ⟨30, .ok, 0, 0, 0⟩, [], .waiting⟩ = .idle
    ∧ missed [4] 0 ⟨List.replicate 55 ⟨30, .ok, 0, 0, 0⟩, [], .waiting⟩ = .claim 4 [] 0
    ∧ (after .tenureEnd { bodyRead 8 with scanner := ⟨.body 31 [4, 5] 7 (requestWith 8), false, 1⟩ }).scanner.step = .claim 4 [5] 7
    ∧ (after .tenureEnd { bodyRead 8 with scanner := ⟨.body 31 [4, 5] 8 (requestWith 8), true, 1⟩ }).scanner = ⟨.row [], false, 1⟩ := by decide +kernel

theorem test_faults_reach_the_start_the_scan_and_the_results :
    (after (.busError 4 false) (anchoring [] 16 [])).engine.fault = .anchorBad
    ∧ (after (.busError 1 true) (sweeping false 2)).engine.state = .running ∧ (after (.busError 1 true) (sweeping false 2)).loader.sweeps = 0
    ∧ (after .grantTimeout (requested { sweeping false 2 with anchor := { running.anchor with bankCount := 2 } })).engine.start = .sweep 1
    ∧ (after (.readyTimeout 3 true) (rowAt .running true [])).scanner = ⟨.row [], false, 1⟩
    ∧ (after (.busError 1 true) (claiming 1)).scanner.step = .idle ∧ (after (.busError 1 true) (claiming 1)).results.reserved = []
    ∧ resultsAfter (.busError 10 false) (bodyRead 8) = [⟨31, .busFault, 0, 0, 0⟩]
    ∧ resultsAfter .grantTimeout (requested { bodyRead 8 with engine := { running.engine with state := .stopping } }) = [⟨31, .cancelled, 0, 0, 0⟩]
    ∧ (after (.busError 0 false) { writing .done with port := { (writing .done).port with consecutive := 1 } }).results
        = ⟨[⟨5, .ok, 1, 0, 0⟩], [], .waiting⟩
    ∧ resultsAfter (.readyTimeout 0 false) replying = [⟨5, .busFault, 0, 0, 0⟩]
    ∧ (after (.readyTimeout 0 false) replying).talkback = [3] := by decide +kernel

theorem test_faults_reach_the_table_loader_and_the_status_writer :
    (after (.busError 2 false) (patching [] 1 3 [])).tables.staging = .empty
    ∧ resultsAfter (.busError 2 false) (patching [] 1 3 []) = [⟨5, .busFault, 0, 0, 0⟩]
    ∧ resultsAfter (.busError 0 false) { curving [] 16 [] with engine := { running.engine with state := .stopping } } = [⟨5, .abandoned, 0, 0, 0⟩]
    ∧ (let b := patching [] 1 3 []
       (after .grantTimeout (requested { b with tables := { b.tables with queue := [.patch 6 0x3000 1] } })).tables.reader = some (.patch 6 0x3000 1))
    ∧ (let b := statusAt ⟨1, 4, some ⟨[], 0⟩, 0, some ⟨5, 0x6000, .writing (List.replicate 512 9) 0⟩, [.page, .snapshot]⟩
       (after (.busError 0 true) b).status = { b.status with page := none, edition := 6, order := [.snapshot] }
         ∧ isRaised .status (after (.busError 0 true) b) = false
         ∧ (after (.busError 0 true) b).port.current = some ⟨.status, .write 0x6000 (List.replicate 16 9), 0, none⟩)
    ∧ resultsAfter (.busError 0 true) (statusAt ⟨1, 4, none, 0, some ⟨5, 0x6000, .writing [] 31⟩, [.snapshot]⟩) = [⟨5, .busFault, 0, 0, 0⟩] := by
  decide +kernel

theorem test_faults_reach_the_cue_loader :
    let lock := fun m => loadingAt .lock false false 0 (.modify 0x8000 0 2) m
    let stuck := fun (c : Instr) (b : Block) => ((after c b).loader.stuck, (after c b).loader.current.isSome, resultsAfter c b)
    stuck (.busError 0 false) (lock []) = (0, false, [⟨3, .busFault, 0, 0, 0⟩])
    ∧ stuck (.busError 1 false) (lock []) = (1, false, [⟨3, .busFault, 0, 0, 0⟩])
    ∧ stuck (.busError 1 false) (lock [(0x8000, 1)]) = (0, false, [⟨3, .busFault, 0, 0, 0⟩])
    ∧ stuck .grantTimeout (requested (lock [])) = (0, false, [⟨3, .busFault, 0, 0, 0⟩])
    ∧ stuck (.readyTimeout 0 true) unlocking = (1, false, [⟨3, .busFault, 0, 0, 0⟩])
    ∧ stuck (.readyTimeout 0 true) (loadingAt .unlock true true 0 (.write 0x8000 [0]) []) = (1, false, [⟨3, .abandoned, 0, 0, 0⟩])
    ∧ (let b := loadingAt .seekCount true false 0 (.read 0x8004 1) []
       (after (.busError 0 false) b).loader.current.map (fun c => (c.stage, c.failed)) = some (.unlock, some .busFault)
         ∧ (after (.busError 0 false) b).port.current = some ⟨.loader, .write 0x8000 [0], 0, none⟩) := by decide +kernel

/-- `CanFault` without its quantifier over the words done. -/
theorem canFault_of {c : Client} {k : TenureKind} {b : Block}
    (h : b.engine.phase = .released ∧ b.engine.aborting = false ∧ b.port.consecutive < 2 ∧ b.port.current = some ⟨c, k, 0, none⟩) :
    CanFault c k b := ⟨h.1, h.2.1, h.2.2.1, 0, none, h.2.2.2⟩

theorem test_hypotheses_of_faults_of_each_client :
    CanFault .scanner (.read 0x2040 16) (anchoring [] 16 []) ∧ CanFault .loader (.modify 0x8000 2 0) (sweeping false 2)
    ∧ CanFault .scanner (.read 0x1040 16) (rowAt .running true []) ∧ CanFault .scanner (.modify 0x107C 1 2) (claiming 1)
    ∧ CanFault .scanner (.read 0x17C4 11) (bodyRead 8) ∧ CanFault .talkback (.write 0x9000 []) replying
    ∧ CanFault .results (.write 0x1014 [3]) { writing .done with port := { (writing .done).port with consecutive := 1 } }
    ∧ CanFault .tables (.read 0x3000 3) (patching [] 1 3 []) ∧ CanFault .tables (.read 0x3000 16) (curving [] 16 [])
    ∧ CanFault .status (.write 0x4000 [0]) (statusAt ⟨1, 4, none, 0, some ⟨5, 0x6000, .writing [] 31⟩, [.snapshot]⟩)
    ∧ CanFault .loader (.modify 0x8000 0 2) (loadingAt .lock false false 0 (.modify 0x8000 0 2) [])
    ∧ CanFault .loader (.read 0x8004 1) (loadingAt .seekCount true false 0 (.read 0x8004 1) [])
    ∧ CanFault .loader (.write 0x8000 [0]) unlocking
    ∧ (loadingAt .lock false false 0 (.modify 0x8000 0 2) []).loader.queue = [] :=
  ⟨canFault_of (by decide), canFault_of (by decide), canFault_of (by decide), canFault_of (by decide +kernel), canFault_of (by decide +kernel),
    canFault_of (by decide), canFault_of (by decide), canFault_of (by decide), canFault_of (by decide), canFault_of (by decide),
    canFault_of (by decide), canFault_of (by decide), canFault_of (by decide), by decide⟩

theorem test_hypotheses_of_the_arbiter :
    let b := arbitrating [.loader, .results] .scanner
    let tn : Tenure := ⟨.status, .write 0x4000 [0], 0, none⟩
    b.port.current = some tn ∧ b.port.waitingOf .results = some (.read 0x100 1) ∧ AtWork .results b ∧ EndsAllItsWork tn b
    ∧ turnsAfter .scanner .results = 0 ∧ (∀ c : Client, turnsAfter .scanner c < 0 → b.port.waitingOf c = none) :=
  ⟨by decide, by decide, by unfold AtWork; decide, .inl ⟨rfl, rfl, ⟨[], 8⟩, rfl, by decide⟩, by decide, fun _ h => absurd h (by omega)⟩

/-! ### Clauses of cuts, clearings, register reads, budgets and the queue behind a load -/

/-- A reset that cuts a write, a read-modify-write and a read, at the words landed. -/
theorem test_a_reset_cuts_the_tenure :
    let left := fun n k m => (after (.resetPin n) (portAt .transferring .status k 0 m)).mem
    left 0 (.write 0x1000 [7, 8, 9]) [] = [] ∧ left 2 (.write 0x1000 [7, 8, 9]) [] = [(0x1000, 7), (0x1004, 8)]
    ∧ left 16 (.write 0x1000 [7, 8, 9]) [] = [(0x1000, 7), (0x1004, 8), (0x1008, 9)]
    ∧ left 0 (.modify 0x8000 2 5) [(0x8000, 2)] = [(0x8000, 2)] ∧ left 1 (.modify 0x8000 2 5) [(0x8000, 2)] = [(0x8000, 5)]
    ∧ left 1 (.modify 0x8000 2 5) [(0x8000, 1)] = [(0x8000, 1)] ∧ left 1 (.read 0x8000 1) [(0x8000, 1)] = [(0x8000, 1)]
    ∧ (after (.coldReset 1) (portAt .transferring .status (.write 0x1000 [7]) 0 [])).mem = [(0x1000, 7)]
    ∧ (after (.coldReset 1) (portAt .requesting .status (.write 0x1000 [7]) 0 [])).mem = []
    ∧ (after (.coldReset 1) unlocking).mem = [(0x8000, 2)] ∧ (after (.resetPin 1) unlocking).mem = [(0x8000, 2)] := by decide +kernel

/-- Entry into STOPPING empties the queues but for the request whose load is being read, and what is READY; what is FILLING stays. -/
theorem test_entry_into_stopping_clears :
    let t := after (.runClear ⟨0x76, 0⟩) everythingToEnd
    let filling := { everythingToEnd with tables := ⟨[], some (.curve 13 1 0), .empty, setAt (Vector.replicate 7 .empty) 1 (.filling [7])⟩ }
    t.control = ⟨false, true, true, 7⟩
    ∧ (playbackOf t 0).queue = [] ∧ (playbackOf t 0).load = .none
    ∧ (playbackOf t 1).queue = [⟨.post 12, .go 0 10 none⟩] ∧ (playbackOf t 1).load = .reading
    ∧ t.tables.staging = .empty ∧ getAt t.tables.shadows 6 = .empty
    ∧ getAt (after (.runClear ⟨0, 0⟩) filling).tables.shadows 1 = .filling [7]
    ∧ (after (.runClear ⟨0, 0⟩) { filling with tables := ⟨[], some (.patch 13 0 1), .filling [1], Vector.replicate 7 .empty⟩ }).tables.staging
        = .filling [1] := by decide +kernel

theorem test_slots_ended_by_stopping :
    CancelledByStopping everythingToEnd 2 ∧ AbandonedByStopping everythingToEnd 1 ∧ CancelledByStopping everythingToEnd 10 :=
  ⟨.inl ⟨0, ⟨.post 2, .pause⟩, by decide +kernel, rfl⟩, ⟨0, ⟨.post 1, .go 0 10 none⟩, [⟨.post 2, .pause⟩], by decide +kernel⟩,
    .inr (.inr (.inr (.inr (.inr (.inr (.inr ⟨0, by decide +kernel⟩))))))⟩

/-- HALTED with a fade that runs on playback 0, a follow armed on 1 and a pause on 2. -/
def haltedAtWork : Block :=
  let paused := { fading with fade := .paused, remembered := some .fading, timing := { fading.timing with paused := some 1000 } }
  { inState .halted with playbacks := setAt (setAt (setAt running.playbacks 0 fading) 1 followDue) 2 paused }

theorem test_leaving_halted_clears :
    let t := after (.runClear ⟨0, 0⟩) haltedAtWork
    let cleared := { Playback.reset with master := fading.master }
    haltedAtWork.engine.phase = .released ∧ (playbackOf haltedAtWork 1).follow = some 1000
    ∧ playbackOf t 0 = cleared ∧ playbackOf t 1 = cleared ∧ playbackOf t 2 = cleared
    ∧ t.lines = haltedAtWork.lines ∧ t.loader = haltedAtWork.loader := by decide +kernel

theorem test_registers_read :
    let b := { inState .halted with
      control := ⟨true, true, true, 7⟩, engine := ⟨.halted, .soft, .busHalt, .released, .idle, false⟩, anchorReg := 0xFFFFFFFF
      intStatus := 0x3F, intMask := 0x20 }
    readRegister 0x04 b = 0x77 ∧ readRegister 0x08 b = 0x2214 ∧ readRegister 0x0C b = 0xFFFFFFFF ∧ readRegister 0x10 b = 0
    ∧ readRegister 0x14 b = 0x3F ∧ readRegister 0x18 b = 0x20 ∧ readRegister 0x1C b = 0 ∧ readRegister 0x04 .reset = 0
    ∧ readRegister 0x08 running = 0x12 := by decide +kernel

theorem test_bus_pins :
    mreqPin (withTenure .requesting .loader (.modify 0x8000 0 2)).port = true
    ∧ mlockPin (withTenure .requesting .loader (.modify 0x8000 0 2)).port = false
    ∧ mlockPin (withTenure .transferring .loader (.modify 0x8000 0 2)).port = true
    ∧ mlockPin (withTenure .transferring .loader (.read 0x8000 1)).port = false ∧ mreqPin running.port = false := by decide

/-- LINE at mix-complete: raised where the signal was not PRESENT, and not where it was. -/
theorem test_line_at_mix_complete :
    let waiting := fun (st : SignalState) => passing (withLine { receivingLine Receiver.hunt (.complete [7]) with signal := st })
    isRaised .line (after .mixComplete (waiting .none)) = true ∧ isRaised .line (after .mixComplete (waiting .lost)) = true
    ∧ isRaised .line (after .mixComplete (waiting .present)) = false
    ∧ (lineOf (after .mixComplete (waiting .lost)) 0).signal = .present := by decide +kernel

/-- A SET FRAME is checked against the pending configuration of a line, not the one in force. -/
theorem test_set_frame_takes_the_pending_configuration :
    let b := withLine { talking with pending := some ({ talking.config with talkback := false }, 3) }
    let c := withLine { Line.reset with pending := some (talking.config, 3) }
    CanCome 31 b ∧ (after (.setFrame 31 5938 1 0) b).time.pending = some (⟨5938, 1, 0⟩, 31)
    ∧ resultsAfter (.setFrame 31 5937 1 0) b = [⟨31, .budget, 0, 5938, 0⟩]
    ∧ resultsAfter (.setFrame 31 5938 1 0) c = [⟨31, .budget, 0, 7378, 0⟩] := ⟨canCome_of (by decide), by decide +kernel⟩

/-- A job that arrives behind a PATCH which a READY staging keeps at the head. -/
theorem test_table_jobs_wait_behind_a_patch :
    let b := withTables ⟨[tableJob], none, .ready 5 [], Vector.replicate 7 .empty⟩
    CanCome 31 b ∧ (after (.patch 31 0x777 2) b).tables.queue = [tableJob, .patch 31 0x777 2]
    ∧ (after (.loadCurve 31 7 0x777) b).tables.queue = [tableJob, .curve 31 6 0x777]
    ∧ (after (.loadCurve 31 7 0x777) b).tables.reader = none := ⟨canCome_of (by decide), by decide +kernel⟩

/-- A RESUME to a fade end already reached: RELEASING ends IDLE; FADING ends HOLDING, with its follow armed, or expired at once. -/
theorem test_resume_to_a_fade_end_already_reached :
    let paused := fun (st : Remembered) (hold : Nat) => withPlayback { pausedAs st 1000 with
      queue := [], timing := ⟨0, 0, 1000, 1000, 1000, some 1000⟩, lastCue := some ⟨0, 10, .auto, 0, hold, 3000⟩ }
    let t := fun st hold => after (.resume 31 0) (paused st hold)
    CanCome 31 (paused .fading 0) ∧ (playbackOf (t .releasing 0) 0).fade = .idle
    ∧ (t .releasing 0).results.queue = [⟨31, .ok, 0, 0, 0⟩] ∧ (playbackOf (t .fading 1) 0).follow = some 1001
    ∧ (playbackOf (t .fading 1) 0).queue = [] ∧ (playbackOf (t .fading 0) 0).queue = [⟨.follow, .goNext none⟩]
    ∧ (t .fading 0).results.queue = [⟨31, .ok, 0, 0, 0⟩] ∧ (t .fading 0).superseded = 0 := ⟨canCome_of (by decide), by decide +kernel⟩

/-- The release write of a load whose request has an origin and others behind it, the loaded cue's times and follow given. -/
def unlockingFor (o : Origin) (rest : List QueuedRequest) (times : Nat) (follow : FollowMode) : Block :=
  { unlocking with
    playbacks := setAt unlocking.playbacks 0
      { playbackOf unlocking 0 with queue := ⟨o, .go 0 10 none⟩ :: rest, lastCue := some ⟨0, 9, .manual, 0, 0, 0⟩ }
    results := ⟨[], [3, 4], .idle⟩
    loader := { unlocking.loader with current := unlocking.loader.current.map fun c =>
      { c with header := some ⟨10, follow, 1, times, times, 0, 0, 12⟩ } } }

/-- A build's queue goes on: a PAUSE and a RESUME behind it are served, a GO takes the loader; a fade end already reached is taken first,
and its follow expires at once, alone or superseded. -/
theorem test_a_build_lets_the_queue_go_on :
    let t := fun o rest times follow => after .tenureEnd (unlockingFor o rest times follow)
    QueueIsReserved 0 (unlockingFor (.post 3) [⟨.post 4, .pause⟩] 0 .auto)
    ∧ (t (.trigger 2) [] 500 .manual).results.queue = []
    ∧ (t (.post 3) [⟨.post 4, .pause⟩] 500 .manual).results.queue = [⟨3, .ok, 10, 1, 0⟩, ⟨4, .ok, 0, 0, 0⟩]
    ∧ (playbackOf (t (.post 3) [⟨.post 4, .pause⟩] 500 .manual) 0).remembered = some .fading
    ∧ (t .follow [⟨.post 4, .resume⟩] 500 .manual).results.queue = [⟨4, .badState, 0, 0, 0⟩]
    ∧ (t (.post 3) [⟨.post 4, .goNext none⟩] 500 .manual).loader.current.map (·.job) = some ⟨0, 0, .above 10, 0, false⟩
    ∧ (playbackOf (t (.post 3) [] 0 .manual) 0).fade = .holding ∧ isRaised .playback (t (.post 3) [] 0 .manual) = true
    ∧ (t (.post 3) [] 0 .link).loader.current.map (·.job) = some ⟨0, 0, .exactly 12, 0, false⟩
    ∧ (t (.post 3) [⟨.post 4, .pause⟩] 0 .auto).superseded = 1
    ∧ (t (.post 3) [⟨.post 4, .pause⟩] 0 .auto).results.queue = [⟨3, .ok, 10, 1, 0⟩, ⟨4, .badState, 0, 0, 0⟩] := by
  unfold QueueIsReserved; decide +kernel

/-- A failure's queue goes on, the set and the last cue as they were. -/
theorem test_a_failure_lets_the_queue_go_on :
    let failing := fun o rest => { unlockingFor o rest 0 .manual with
      loader := { unlocking.loader with current := unlocking.loader.current.map fun c => { c with failed := some .badCue } } }
    let t := fun o rest => after .tenureEnd (failing o rest)
    (t (.post 3) [⟨.post 4, .pause⟩]).results.queue = [⟨3, .badCue, 0, 0, 0⟩, ⟨4, .badState, 0, 0, 0⟩]
    ∧ (t .follow []).results.queue = [] ∧ (playbackOf (t .follow []) 0).load = .none
    ∧ (t (.trigger 1) [⟨.post 4, .goNext none⟩]).loader.current.map (·.job) = some ⟨0, 0, .above 9, 0, false⟩
    ∧ (servedQueue false 1000 [⟨.post 4, .pause⟩, ⟨.trigger 0, .resume⟩] fading).late = false
    ∧ (servedQueue false 1000 [⟨.post 4, .goNext none⟩] .reset).ended = [⟨4, .cueMissing, 0, 0, 0⟩] := by decide +kernel

/-- A whole reply of a query marked cancelled, and of one in flight at a halt, places none. -/
theorem test_a_whole_reply_with_no_place :
    let t := fun cancelled halted => after (.replyCharacter 0 false 0x99)
      (asking { flight .receiving [0x5B, 1, 2, 9, 0] with cancelled := cancelled, halted := halted } .idle)
    (t true false).results.queue = [⟨5, .cancelled, 0, 0, 0⟩] ∧ (t false true).results.queue = [⟨5, .busFault, 0, 0, 0⟩]
    ∧ (t true true).results.queue = [⟨5, .cancelled, 0, 0, 0⟩] ∧ (lineOf (t true false) 0).reply = none ∧ (t false true).talkback = [] := by
  decide +kernel

/-! ### Clauses of a LOOP line's source, of the reader's next head and of a start -/

/-- On a LOOP line a low stop and a gap never come, and the rest only within the transmitter's own frame. -/
theorem test_loop_source :
    let hears := fun (c : Instr) (x : Line) => looped c x != x
    let slots : Receiver := ⟨.slots, 1, 0, 0x51, true, true⟩
    let check := loopingLine .idle ⟨.check, 1, 1, 0x51, true, false⟩ (.filling [0])
    hears (.rxLowStop 0) (loopingLine (.characters 2) slots .empty) = false
    ∧ hears (.rxGapExpiry 0) (loopingLine (.characters 2) slots .empty) = false
    ∧ hears (.startOfALow 0) (loopingLine .idle ⟨.mark, 0, 0, 0, false, true⟩ .empty) = false
    ∧ hears (.rxBreakEnd 0) (loopingLine .idle ⟨.brk, 0, 0, 0, true, false⟩ .empty) = false
    ∧ hears (.rxCharacter 0 false 0) (loopingLine .idle slots .empty) = false
    ∧ hears (.startOfALow 0) (loopingLine .brk .hunt .empty) = true ∧ (looped (.rxCharacter 0 false 0) check).received = 1 := by
  decide +kernel

/-- The reader goes on with the next head that can start: behind a curve handed over the next curve, whose READY shadow it supersedes;
behind a list handed over a curve but no list; and behind a failed list the next list. -/
theorem test_the_reader_takes_the_next_head :
    let queued := fun (jobs : List TableJob) (b : Block) => { b with tables := { b.tables with queue := jobs } }
    let whole := curving (List.replicate 64 65535) 1 []
    let again := after .tenureEnd (queued [.curve 9 6 0x700] whole)
    let listed := fun jobs => after .tenureEnd (queued jobs (patching [] 1 3 recordOf3))
    again.tables.reader = some (.curve 9 6 0x700) ∧ getAt again.tables.shadows 6 = .filling []
    ∧ again.results.queue = [⟨5, .cancelled, 0, 0, 0⟩] ∧ again.port.current = some ⟨.tables, .read 0x700 16, 0, none⟩
    ∧ (after .tenureEnd (queued [.curve 9 5 0x700] whole)).results.queue = []
    ∧ (listed [.curve 9 6 0x700]).tables.reader = some (.curve 9 6 0x700)
    ∧ (listed [tableJob]).tables.reader = none ∧ (listed [tableJob]).tables.queue = [tableJob]
    ∧ (after .tenureEnd (queued [tableJob] (patching [] 1 3 [(0x3000, 0x01000400)]))).tables.reader = some tableJob := by decide +kernel

/-- In STOPPING the job's last tenure, ending Done, ends it ABANDONED. -/
theorem test_the_last_tenure_of_an_abandoned_table_job :
    let stopping := fun (b : Block) => after .tenureEnd { b with engine := { b.engine with state := .stopping } }
    let listed := stopping (patching [] 1 3 recordOf3)
    let curved := stopping (curving (List.replicate 64 65535) 1 [])
    listed.results.queue = [⟨5, .abandoned, 0, 0, 0⟩] ∧ listed.tables.reader = none ∧ listed.tables.staging = .empty
    ∧ curved.results.queue = [⟨5, .abandoned, 0, 0, 0⟩] ∧ getAt curved.tables.shadows 6 = .empty := by decide +kernel

/-- A start during a pass marks its latch, so that its image is not complete, and leaves the mixer's tables and edits. -/
theorem test_a_start_marks_a_running_pass :
    let b := { passing (inState .stopped) with mixer := { mixing.mixer with takeStamp := 7, grand := ⟨1, 2, 3, 4⟩ } }
    let t := after (.runSet 1) b
    t.engine.state = .starting ∧ t.mixer.pass.map (·.restarted) = some true ∧ t.mixer.takeStamp = 1 ∧ t.mixer.grand = ⟨1, 2, 3, 4⟩
    ∧ (after .mixComplete t).store.complete = false ∧ (after .mixComplete mixing).store.complete = true := by decide +kernel

/-- Entries read: a new channel takes a reserved entry and a channel read again takes none. -/
theorem test_entries_take_the_reservation :
    let b := loadingAt (.entries 3 15) true false 0 (.read 0x802C 2) [(0x802C, 0x30007), (0x8030, 0x40007)]
    let before := setPlayback 0 { playbackOf b 0 with incoming := [⟨3, 1, false⟩], reservation := 5 } b
    let t := after .tenureEnd before
    (playbackOf t 0).incoming = [⟨3, 7, false⟩, ⟨4, 7, false⟩] ∧ (playbackOf t 0).reservation = 4 ∧ poolInUse t = poolInUse before := by
  decide +kernel

/-! ### Clauses of the result writer, of a copied snapshot, of a reply's write and of a broadcast's end -/

/-- After DONE the writer begins the next completion, and is IDLE with none behind. -/
theorem test_the_writer_goes_on :
    let b := writing .done
    let two := { b with results := ⟨b.results.queue ++ [⟨6, .busy, 7, 8, 9⟩], [], .done⟩ }
    (after .tenureEnd two).results = ⟨[⟨6, .busy, 7, 8, 9⟩], [], .values⟩
    ∧ (after .tenureEnd two).port.current
        = some ⟨.results, .write (bodyWordAddress b.anchor 6 12) [BitVec.ofNat 32 ResultCode.busy.code, 7, 8, 9], 0, none⟩
    ∧ (after .tenureEnd b).results.writer = .idle := by decide +kernel

/-- A copied snapshot asks for its first burst, stands behind a page job there, and before or behind one that falls due with it. -/
theorem test_a_copied_snapshot_joins_the_order :
    let waiting := fun (page : Option PageJob) (countdown : Nat) (order : List StatusJob) => { running with
      store := { running.store with complete := true }
      status := { running.status with page := page, countdown := countdown, order := order, snapshot := some ⟨10, 0x6000, .waiting⟩ } }
    let t := fun takers page countdown order => after (.frameBoundary takers) (waiting page countdown order)
    (t [] none 5 []).status.order = [.snapshot]
    ∧ (t [] none 5 []).port.current = some ⟨.status, .write 0x6000 (List.replicate 16 0), 0, none⟩
    ∧ (t [] (some ⟨[], 2⟩) 5 [.page]).status.order = [.page, .snapshot]
    ∧ (t [] (some ⟨[], 2⟩) 1 [.page]).status.order = [.page, .snapshot]
    ∧ (t [.mixer, .status] none 1 []).status.order = [.snapshot, .page]
    ∧ (t [.status, .mixer] none 1 []).status.order = [.page, .snapshot] := by decide +kernel

/-- A whole reply asks for its write when no other line's reply is there, and waits behind one that is. -/
theorem test_a_whole_reply_asks_for_its_write :
    let b := asking (flight .receiving [0x5B, 1, 2, 9, 0]) .idle
    let t := fun others => after (.replyCharacter 0 false 0x99) { b with talkback := others }
    (t []).talkback = [0] ∧ (t []).port.current = some ⟨.talkback, .write 0x9000 [0x00090102], 0, none⟩
    ∧ (t [2]).talkback = [2, 0] ∧ (t [2]).port.current = none := by decide +kernel

/-- After a broadcast the driver is released with no query in flight. -/
theorem test_the_turnaround_of_a_broadcast_ends :
    let b := withLine { talking with tx := .turnaround, driver := true, inFlight := none }
    clocked b = true ∧ (lineOf (after (.turnaroundEnd 0) b) 0).tx = .idle ∧ (lineOf (after (.turnaroundEnd 0) b) 0).driver = false := by
  decide +kernel

end Sys2Proof.Tests
end

section
/-! SUPPORT. What a group of operations changes, said once for the group: a completion or a request at the port, the playbacks with the cue
loader, the table loader, the lines with talkback, the status writer.  No operation but a claim gives a slot a place of the result queue. -/

namespace Sys2Proof.Machine

/-! ### Places of the result queue (R175) -/

/-- No slot gains a place of the result queue (R175). -/
def NoPlaceGained (s t : Block) : Prop := (heldPlaces t).Subperm (heldPlaces s)

theorem NoPlaceGained.of_results {s t : Block} (h : t.results = s.results) : NoPlaceGained s t := by
  rw [NoPlaceGained, heldPlaces, heldPlaces, h]

theorem NoPlaceGained.trans {s t u : Block} (h : NoPlaceGained s t) (k : NoPlaceGained t u) : NoPlaceGained s u := List.Subperm.trans k h

/-- A completion turns a reserved place into a place of its queue, or gives it up (R175, R176). -/
theorem complete_places (i : Fin 32) (code : ResultCode) (v1 v2 v3 : Word) (s : Block) :
    NoPlaceGained s (complete i code v1 v2 v3 s) := by
  rw [NoPlaceGained, heldPlaces, complete_results]
  split
  · rename_i reserved
    rw [List.contains_iff_mem] at reserved
    split
    · exact ((List.Sublist.refl _).append List.erase_sublist).subperm
    · refine List.Perm.subperm ?_
      simp only [heldPlaces, List.map_append, List.map_cons, List.map_nil, List.append_assoc, List.singleton_append]
      exact (List.perm_cons_erase reserved).symm.append_left _
  · exact List.Subperm.refl _

/-! ### Completions and requests at the port -/

/-- `s` with the results and the port of `t`. -/
def withPosts (s t : Block) : Block := { s with results := t.results, port := t.port }

/-- Nothing but the results and the port changes. -/
structure Posts (s t : Block) : Prop where
  rest : t = withPosts s t
  places : NoPlaceGained s t

namespace Posts

theorem refl (s : Block) : Posts s s := ⟨rfl, .of_results rfl⟩

theorem trans {s t u : Block} (h : Posts s t) (k : Posts t u) : Posts s u :=
  have kept : withPosts t u = withPosts (withPosts s t) u := congrArg (withPosts · u) h.rest
  ⟨k.rest.trans kept, h.places.trans k.places⟩

theorem ask (c : Client) (k : TenureKind) (s : Block) : Posts s (ask c k s) :=
  ⟨by rw [withPosts, ask_results]; exact ask_eq c k s, .of_results (ask_results s c k)⟩

theorem startWriter (s : Block) : Posts s (startWriter s) := by
  have queue : (Machine.startWriter s).results = { s.results with writer := (Machine.startWriter s).results.writer } := by
    rw [startWriter_eq]
  refine ⟨?_, ?_⟩
  · rw [withPosts, queue]; exact startWriter_eq s
  · rw [NoPlaceGained, heldPlaces, queue]; exact List.Subperm.refl _

theorem complete (i : Fin 32) (code : ResultCode) (v1 v2 v3 : Word) (s : Block) : Posts s (complete i code v1 v2 v3 s) :=
  ⟨complete_eq i code v1 v2 v3 s, complete_places i code v1 v2 v3 s⟩

theorem completePlain (i : Fin 32) (code : ResultCode) (s : Block) : Posts s (completePlain i code s) := complete i code 0 0 0 s

theorem completeOrigin (o : Origin) (code : ResultCode) (v1 v2 : Word) (s : Block) : Posts s (completeOrigin o code v1 v2 s) := by
  cases o with
  | post i => exact complete i code v1 v2 0 s
  | trigger t => exact refl s
  | follow => exact refl s

/-- A list of changes one after another, each of which only posts. -/
theorem foldl {α : Type} {f : Block → α → Block} (h : ∀ t x, Posts t (f t x)) (xs : List α) (s : Block) : Posts s (xs.foldl f s) := by
  induction xs generalizing s with
  | nil => exact refl s
  | cons x rest ih => exact (h s x).trans (ih (f s x))

theorem cancelRequests (rs : List QueuedRequest) (s : Block) : Posts s (cancelRequests rs s) := by
  unfold Machine.cancelRequests
  exact foldl (fun _ _ => completeOrigin ..) rs s

theorem endQueries (code : ResultCode) (qs : List Query) (s : Block) : Posts s (endQueries code qs s) := by
  unfold Machine.endQueries
  exact foldl (fun _ _ => completePlain ..) qs s

theorem endShadow (x : Shadow) (code : ResultCode) (s : Block) : Posts s (endShadow x code s) := by
  cases x with
  | ready owner points => exact completePlain owner code s
  | filling points => exact refl s
  | empty => exact refl s

theorem endStaging (x : Staging) (code : ResultCode) (s : Block) : Posts s (endStaging x code s) := by
  cases x with
  | ready owner list => exact completePlain owner code s
  | filling words => exact refl s
  | empty => exact refl s

end Posts

/-! ### A playback's queue and lists (R5, R28, R29) -/

/-- A set in strictly ascending channel order (R28). -/
def SetAscending (xs : List SetEntry) : Prop := (xs.map SetEntry.channel).Pairwise (· < ·)

theorem mem_putEntry {x y : SetEntry} {xs : List SetEntry} (h : y ∈ putEntry x xs) : y = x ∨ y ∈ xs := by
  induction xs with
  | nil => simpa [putEntry] using h
  | cons z zs ih =>
    unfold putEntry at h
    split at h
    · simpa using h
    · split at h
      · rcases List.mem_cons.1 h with h | h
        · exact .inl h
        · exact .inr (List.mem_cons_of_mem _ h)
      · rcases List.mem_cons.1 h with h | h
        · exact .inr (h ▸ List.mem_cons_self)
        · exact (ih h).imp_right (List.mem_cons_of_mem _)

theorem setAscending_cons (x : SetEntry) (xs : List SetEntry) :
    SetAscending (x :: xs) ↔ (∀ y ∈ xs, x.channel < y.channel) ∧ SetAscending xs := by
  simp only [SetAscending, List.map_cons, List.pairwise_cons, List.forall_mem_map]

/-- An entry put in its channel's place keeps the order (R28). -/
theorem putEntry_ascending (x : SetEntry) {xs : List SetEntry} (h : SetAscending xs) : SetAscending (putEntry x xs) := by
  induction xs with
  | nil => simp [putEntry, SetAscending]
  | cons y ys ih =>
    obtain ⟨first, rest⟩ := (setAscending_cons y ys).1 h
    unfold putEntry
    split
    · rename_i below
      refine (setAscending_cons _ _).2 ⟨fun z hz => ?_, h⟩
      rcases List.mem_cons.1 hz with rfl | hz
      · exact below
      · exact lt_trans below (first z hz)
    · split
      · rename_i same
        exact (setAscending_cons _ _).2 ⟨fun z hz => same ▸ first z hz, rest⟩
      · rename_i notBelow other
        refine (setAscending_cons _ _).2 ⟨fun z hz => ?_, ih rest⟩
        rcases mem_putEntry hz with rfl | hz
        · exact lt_of_le_of_ne (not_lt.1 notBelow) (Ne.symm other)
        · exact first z hz

/-- A set whose entries change, but not their channels. -/
theorem SetAscending.map {f : SetEntry → SetEntry} {xs : List SetEntry} (h : SetAscending xs) (k : ∀ x, (f x).channel = x.channel) :
    SetAscending (xs.map f) := by
  have channels : (xs.map f).map SetEntry.channel = xs.map SetEntry.channel := by
    rw [List.map_map]
    exact List.map_congr_left fun x _ => k x
  rw [SetAscending, channels]
  exact h

theorem crossfadeSet_ascending (tm : FadeTiming) (now : Time) (stamp : Nat) {old : List SetEntry} (incoming : List IncomingEntry)
    (h : SetAscending old) : SetAscending (crossfadeSet tm now stamp old incoming) := by
  unfold crossfadeSet
  generalize leaving : (old.map fun x => leavingEntry (fadeValue tm now x) x) = acc
  have ordered : SetAscending acc := leaving ▸ h.map fun _ => rfl
  clear leaving
  induction incoming generalizing acc with
  | nil => exact ordered
  | cons x rest ih => exact ih _ (putEntry_ascending _ ordered)

theorem settledSet_ascending {xs : List SetEntry} (h : SetAscending xs) : SetAscending (settledSet xs) := by
  refine SetAscending.map ?_ fun _ => rfl
  exact List.Pairwise.sublist (List.filter_sublist.map _) h

theorem releaseSet_ascending (tm : FadeTiming) (now : Time) {xs : List SetEntry} (h : SetAscending xs) : SetAscending (releaseSet tm now xs) :=
  h.map fun _ => rfl

theorem takeEntries_ascending (words : List Word) (x : Playback) (h : Ascending x.incoming) : Ascending (takeEntries x words).1.incoming := by
  induction words generalizing x with
  | nil => exact h
  | cons w rest ih =>
    unfold takeEntries
    split
    · exact ih _ (putIncoming_ascending _ _ h).1
    · exact h

theorem takeEntries_entries (words : List Word) (x : Playback) : (takeEntries x words).1.entries = x.entries := by
  induction words generalizing x with
  | nil => rfl
  | cons w rest ih =>
    unfold takeEntries
    split
    · exact ih _
    · rfl

/-- A playback whose queue keeps within its entries, and whose set and incoming list keep their order (R5, R28, R29). -/
structure Orderly (x y : Playback) : Prop where
  queue : x.queue.length ≤ Config.queuePlaces → y.queue.length ≤ Config.queuePlaces
  entries : SetAscending x.entries → SetAscending y.entries
  incoming : Ascending x.incoming → Ascending y.incoming

namespace Orderly

theorem refl (x : Playback) : Orderly x x := ⟨id, id, id⟩

theorem trans {x y z : Playback} (h : Orderly x y) (k : Orderly y z) : Orderly x z :=
  ⟨k.queue ∘ h.queue, k.entries ∘ h.entries, k.incoming ∘ h.incoming⟩

theorem of_same {x y : Playback} (queue : y.queue = x.queue) (entries : y.entries = x.entries) (incoming : y.incoming = x.incoming) :
    Orderly x y := by
  refine ⟨?_, ?_, ?_⟩
  · rw [queue]; exact id
  · rw [entries]; exact id
  · rw [incoming]; exact id

/-- A playback whose list is emptied (R31). -/
theorem of_emptied {x y : Playback} (queue : y.queue = x.queue) (entries : y.entries = x.entries) (incoming : y.incoming = []) :
    Orderly x y := by
  refine ⟨?_, ?_, fun _ => ?_⟩
  · rw [queue]; exact id
  · rw [entries]; exact id
  · rw [incoming]; exact List.Pairwise.nil

/-- A playback whose queue is changed alone, and lengthened only while there is room. -/
theorem of_queue {x y : Playback} (queue : y.queue.length ≤ max x.queue.length Config.queuePlaces) (entries : y.entries = x.entries)
    (incoming : y.incoming = x.incoming) : Orderly x y := by
  refine ⟨fun h => ?_, ?_, ?_⟩
  · rwa [max_eq_right h] at queue
  · rw [entries]; exact id
  · rw [incoming]; exact id

theorem toHolding (x : Playback) : Orderly x x.toHolding := ⟨id, settledSet_ascending, id⟩

theorem toIdle (x : Playback) : Orderly x x.toIdle := ⟨id, fun _ => List.Pairwise.nil, id⟩

theorem crossfaded (x : Playback) (now : Time) (stamp bank : Nat) (h : CueHeader) : Orderly x (x.crossfaded now stamp bank h) :=
  ⟨id, crossfadeSet_ascending _ _ _ _, fun _ => List.Pairwise.nil⟩

theorem takeEntries (words : List Word) (x : Playback) : Orderly x (takeEntries x words).1 :=
  ⟨by rw [(takeEntries_keeps words x).2]; exact id, by rw [takeEntries_entries]; exact id, takeEntries_ascending words x⟩

/-- Steps 1 of R16 and of R24 leave the queue its request in service. -/
theorem inService (x : Playback) : Orderly x { x with queue := inService x } := by
  refine .of_queue ?_ rfl rfl
  unfold Machine.inService
  dsimp only
  split
  · exact Nat.zero_le _
  · refine le_max_of_le_left ?_
    rw [List.length_take]
    exact Nat.min_le_right ..

end Orderly

/-- One playback replaced by one in order. -/
theorem orderly_setPlayback {p : Fin 8} {x : Playback} {s : Block} (h : Orderly (playbackOf s p) x) (q : Fin 8) :
    Orderly (playbackOf s q) (playbackOf (setPlayback p x s) q) := by
  by_cases e : q = p
  · subst e
    rwa [playbackOf_setPlayback]
  · rw [playbackOf_setPlayback_ne _ _ _ _ e]
    exact .refl _

/-! ### The playbacks and the cue loader -/

/-- `s` with the playbacks, the loads, the edits, the results and the port of `t`. -/
def withPlays (s t : Block) : Block :=
  { s with
    playbacks := t.playbacks, superseded := t.superseded, loader := { t.loader with sweeps := s.loader.sweeps }
    mixer := { s.mixer with views := t.mixer.views, held := t.mixer.held, takeStamp := t.mixer.takeStamp }
    results := t.results, port := t.port, intStatus := t.intStatus }

/-- What an operation of the playbacks and the cue loader changes: of the loader all but the sweeps counted, and of the mixer its views of
the playbacks, the held edits and the take stamp; each playback stays in order. -/
structure Plays (s t : Block) : Prop where
  rest : t = withPlays s t
  places : NoPlaceGained s t
  orderly : ∀ p, Orderly (playbackOf s p) (playbackOf t p)

theorem Posts.plays {s t : Block} (h : Posts s t) : Plays s t := by
  have same : ∀ p, playbackOf t p = playbackOf s p := fun p => by rw [h.rest]; rfl
  refine ⟨?_, h.places, fun p => same p ▸ .refl _⟩
  rw [h.rest]
  rfl

namespace Plays

theorem refl (s : Block) : Plays s s := ⟨rfl, .of_results rfl, fun _ => .refl _⟩

theorem trans {s t u : Block} (h : Plays s t) (k : Plays t u) : Plays s u :=
  have kept : withPlays t u = withPlays (withPlays s t) u := congrArg (withPlays · u) h.rest
  ⟨k.rest.trans kept, h.places.trans k.places, fun p => (h.orderly p).trans (k.orderly p)⟩

/-- A change of nothing but what the loader owns, with the views and the raised sources. -/
theorem of_owned {s t : Block} (h : t = withPlays s t) (results : t.results = s.results) (playbacks : t.playbacks = s.playbacks) : Plays s t :=
  ⟨h, .of_results results, fun p => by rw [playbackOf, playbackOf, playbacks]; exact .refl _⟩

theorem foldl {α : Type} {f : Block → α → Block} (h : ∀ t x, Plays t (f t x)) (xs : List α) (s : Block) : Plays s (xs.foldl f s) := by
  induction xs generalizing s with
  | nil => exact refl s
  | cons x rest ih => exact (h s x).trans (ih (f s x))

theorem setPlayback {p : Fin 8} {x : Playback} {s : Block} (h : Orderly (playbackOf s p) x) : Plays s (setPlayback p x s) :=
  ⟨rfl, .of_results rfl, orderly_setPlayback h⟩

theorem modPlayback {p : Fin 8} {f : Playback → Playback} {s : Block} (h : Orderly (playbackOf s p) (f (playbackOf s p))) :
    Plays s (modPlayback p f s) := setPlayback h

/-- A playback changed but for its queue and its lists. -/
theorem modPlayback_field {p : Fin 8} {f : Playback → Playback} {s : Block}
    (h : ∀ x : Playback, (f x).queue = x.queue ∧ (f x).entries = x.entries ∧ (f x).incoming = x.incoming) :
    Plays s (Machine.modPlayback p f s) := by
  obtain ⟨queue, entries, incoming⟩ := h (playbackOf s p)
  exact modPlayback (.of_same queue entries incoming)

theorem raiseInt (src : IntSource) (s : Block) : Plays s (raiseInt src s) := of_owned rfl rfl rfl

theorem setCurrent (c : CurrentLoad) (s : Block) : Plays s (setCurrent c s) := of_owned rfl rfl rfl

theorem edit (p : Fin 8) (freed : Nat) (s : Block) : Plays s (edit p freed s) := by
  unfold Machine.edit
  dsimp only
  split <;> exact of_owned rfl rfl rfl

theorem takeLoadJob (s : Block) : Plays s (takeLoadJob s) := by
  unfold Machine.takeLoadJob
  split
  · exact refl s
  · split
    · refine .trans ?_ (Posts.ask _ _ _).plays
      refine .trans ?_ (modPlayback_field fun _ => ⟨rfl, rfl, rfl⟩)
      exact of_owned rfl rfl rfl
    · exact refl s

theorem submitLoad (p : Fin 8) (bank : Nat) (search : Search) (s : Block) : Plays s (submitLoad p bank search s) := by
  refine .trans ?_ (takeLoadJob _)
  refine .trans ?_ (modPlayback_field fun _ => ⟨rfl, rfl, rfl⟩)
  exact of_owned rfl rfl rfl

theorem followEnd (p : Fin 8) (s : Block) : Plays s (followEnd p s) := by
  unfold Machine.followEnd
  dsimp only
  split
  · exact setPlayback (.of_queue (le_max_of_le_right (Nat.succ_le_succ (Nat.zero_le 3))) rfl rfl)
  · exact .trans (t := Machine.setPlayback p { playbackOf s p with follow := none } s) (setPlayback (.of_same rfl rfl rfl))
      (of_owned rfl rfl rfl)

theorem followIfDue (p : Fin 8) (s : Block) : Plays s (followIfDue p s) := by
  unfold Machine.followIfDue
  split
  · exact followEnd p s
  · exact refl s

/-- A playback replaced and the edit of it. -/
theorem edited {p : Fin 8} {x : Playback} {freed : Nat} {s : Block} (h : Orderly (playbackOf s p) x) :
    Plays s (Machine.edit p freed (Machine.setPlayback p x s)) := .trans (setPlayback h) (edit p freed _)

/-- A playback changed but for its queue and its lists, and the edit of it. -/
theorem edited_field {p : Fin 8} {x : Playback} {freed : Nat} {s : Block} (queue : x.queue = (playbackOf s p).queue)
    (entries : x.entries = (playbackOf s p).entries) (incoming : x.incoming = (playbackOf s p).incoming) :
    Plays s (Machine.edit p freed (Machine.setPlayback p x s)) := edited (.of_same queue entries incoming)

theorem fadeEnds (p : Fin 8) (s : Block) : Plays s (fadeEnds p s) := by
  unfold Machine.fadeEnds
  dsimp only
  split
  · refine .trans (.trans ?_ (raiseInt _ _)) (followIfDue p _)
    exact edited (.toHolding _)
  · refine .trans ?_ (raiseInt _ _)
    exact edited (.toIdle _)
  · exact refl s

theorem fadeEndIfDue (p : Fin 8) (s : Block) : Plays s (fadeEndIfDue p s) := by
  unfold Machine.fadeEndIfDue
  split
  · exact fadeEnds p s
  · exact refl s

theorem finishHead (p : Fin 8) (code : ResultCode) (v1 v2 : Word) (s : Block) : Plays s (finishHead p code v1 v2 s) := by
  unfold Machine.finishHead
  split
  · rename_i r rest queue
    refine .trans (modPlayback (f := fun x => { x with queue := rest }) (.of_queue ?_ rfl rfl)) (Posts.completeOrigin _ _ _ _ _).plays
    rw [queue]
    exact le_max_of_le_left (Nat.le_succ _)
  · exact refl s

theorem servePause (p : Fin 8) (s : Block) : Plays s (servePause p s) := by
  unfold Machine.servePause
  dsimp only
  split
  · refine .trans ?_ (finishHead ..)
    exact edited_field rfl rfl rfl
  · refine .trans ?_ (finishHead ..)
    exact edited_field rfl rfl rfl
  · refine .trans ?_ (finishHead ..)
    exact edited_field rfl rfl rfl
  · exact finishHead ..

theorem serveResume (p : Fin 8) (s : Block) : Plays s (serveResume p s) := by
  unfold Machine.serveResume
  dsimp only
  split
  · refine .trans (.trans ?_ (finishHead ..)) (fadeEndIfDue p _)
    exact edited_field rfl rfl rfl
  · refine .trans (.trans ?_ (finishHead ..)) (fadeEndIfDue p _)
    exact edited_field rfl rfl rfl
  · refine .trans (.trans ?_ (finishHead ..)) (followIfDue p _)
    exact edited_field rfl rfl rfl
  · exact finishHead ..

theorem serveLoad (p : Fin 8) (choice : Option (Nat × Search)) (s : Block) : Plays s (serveLoad p choice s) := by
  unfold Machine.serveLoad
  dsimp only
  refine .trans (modPlayback_field (f := fun x => { x with follow := none }) (p := p) fun _ => ⟨rfl, rfl, rfl⟩) ?_
  split
  · exact finishHead ..
  · split
    · exact submitLoad ..
    · exact finishHead ..

theorem serveHead (p : Fin 8) (s : Block) : Plays s (serveHead p s) := by
  unfold Machine.serveHead
  dsimp only
  split
  · exact refl s
  · split
    · exact serveLoad ..
    · exact serveLoad ..
    · exact servePause p s
    · exact serveResume p s

theorem serveUpTo (n : Nat) (p : Fin 8) (s : Block) : Plays s (serveUpTo n p s) := by
  induction n generalizing s with
  | zero => exact refl s
  | succ n ih =>
    unfold Machine.serveUpTo
    split
    · exact .trans (serveHead p s) (ih _)
    · exact refl s

theorem serve (p : Fin 8) (s : Block) : Plays s (serve p s) := serveUpTo _ p s

theorem markAbandoned (p : Fin 8) (s : Block) : Plays s (markAbandoned p s) := by
  unfold Machine.markAbandoned
  split
  · split
    · exact of_owned rfl rfl rfl
    · exact refl s
  · exact refl s

theorem abandonLoad (p : Fin 8) (s : Block) : Plays s (abandonLoad p s) := by
  unfold Machine.abandonLoad
  split
  · exact refl s
  · refine .trans ?_ (finishHead ..)
    refine .trans ?_ (modPlayback_field fun _ => ⟨rfl, rfl, rfl⟩)
    exact of_owned rfl rfl rfl
  · exact markAbandoned p s

theorem cancelAndAbandon (p : Fin 8) (s : Block) : Plays s (cancelAndAbandon p s) :=
  .trans (.trans (setPlayback (.inService _)) (Posts.cancelRequests _ _).plays) (abandonLoad p _)

theorem releaseBuild (p : Fin 8) (time : Option Nat) (s : Block) : Plays s (releaseBuild p time s) :=
  edited ⟨id, releaseSet_ascending _ _, id⟩

theorem arriveRelease (p : Fin 8) (o : Origin) (time : Option Nat) (s : Block) : Plays s (arriveRelease p o time s) := by
  unfold Machine.arriveRelease
  dsimp only
  split
  · refine .trans (.trans (cancelAndAbandon p s)
      (modPlayback_field (f := fun x => { x with follow := none }) (p := p) fun _ => ⟨rfl, rfl, rfl⟩)) ?_
    split
    · exact (Posts.completeOrigin ..).plays
    · exact .trans (.trans (releaseBuild ..) (fadeEndIfDue p _)) (Posts.completeOrigin ..).plays
  · exact (Posts.completeOrigin ..).plays

theorem arriveSetMaster (p : Fin 8) (slot : Fin 32) (level time : Word) (s : Block) : Plays s (arriveSetMaster p slot level time s) := by
  unfold Machine.arriveSetMaster
  split
  · refine .trans ?_ (Posts.complete ..).plays
    exact edited_field rfl rfl rfl
  · exact (Posts.completePlain ..).plays

theorem masterSettles (p : Fin 8) (s : Block) : Plays s (masterSettles p s) := edited_field rfl rfl rfl

theorem clearPlayback (p : Fin 8) (s : Block) : Plays s (clearPlayback p s) := by
  refine .trans (cancelAndAbandon p s) ?_
  exact edited ⟨id, fun _ => List.Pairwise.nil, id⟩

theorem clearPlaybacks (s : Block) : Plays s (clearPlaybacks s) := by
  unfold Machine.clearPlaybacks
  exact foldl (fun _ _ => clearPlayback ..) allPlaybacks s

theorem loadCompleted (p : Fin 8) (bank : Nat) (h : CueHeader) (s : Block) : Plays s (loadCompleted p bank h s) := by
  unfold Machine.loadCompleted
  dsimp only
  refine .trans (.trans (.trans ?_ (finishHead ..)) (fadeEndIfDue p _)) (serve p _)
  refine .trans ?_ (edited (.crossfaded ..))
  exact of_owned rfl rfl rfl

theorem loadEnded (p : Fin 8) (code : ResultCode) (s : Block) : Plays s (loadEnded p code s) := by
  refine .trans (.trans ?_ (finishHead ..)) (serve p _)
  exact modPlayback_field fun _ => ⟨rfl, rfl, rfl⟩

theorem freeLoad (p : Fin 8) (s : Block) : Plays s (freeLoad p s) :=
  modPlayback (.of_emptied rfl rfl rfl)

theorem countStuck (s : Block) : Plays s (countStuck s) := of_owned rfl rfl rfl

theorem endJob {report : Block → Block} (h : ∀ t, Plays t (report t)) (s : Block) : Plays s (endJob report s) := by
  refine .trans ?_ (takeLoadJob _)
  refine .trans ?_ (h _)
  exact of_owned rfl rfl rfl

theorem endUnfinished (c : CurrentLoad) (code : ResultCode) (s : Block) : Plays s (endUnfinished c code s) :=
  endJob (fun t => loadEnded _ _ t) s

theorem enterUnlock (c : CurrentLoad) (s : Block) : Plays s (enterUnlock c s) := .trans (setCurrent _ s) (Posts.ask ..).plays

theorem failLoad (c : CurrentLoad) (code : ResultCode) (s : Block) : Plays s (failLoad c code s) := by
  unfold Machine.failLoad
  dsimp only
  split
  · exact .trans (freeLoad _ s) (enterUnlock ..)
  · exact .trans (freeLoad _ s) (endUnfinished ..)

theorem readBank (c : CurrentLoad) (stage : LoadStage) (k words : Nat) (s : Block) : Plays s (readBank c stage k words s) :=
  .trans (setCurrent _ s) (Posts.ask ..).plays

theorem putBack (c : CurrentLoad) (s : Block) : Plays s (putBack c s) := by
  refine .trans ?_ (takeLoadJob _)
  exact .trans (t := Machine.modPlayback c.job.playback (fun x => { x with load := .waiting }) s)
    (modPlayback_field fun _ => ⟨rfl, rfl, rfl⟩) (of_owned rfl rfl rfl)

theorem lockDone (c : CurrentLoad) (value : Word) (s : Block) : Plays s (lockDone c value s) := by
  unfold Machine.lockDone
  dsimp only
  split
  · split
    · exact failLoad ..
    · exact readBank ..
  · split
    · exact failLoad ..
    · split
      · exact putBack c s
      · exact failLoad ..

theorem countRead (c : CurrentLoad) (n : Nat) (s : Block) : Plays s (countRead c n s) := by
  unfold Machine.countRead
  split
  · exact failLoad ..
  · split
    · exact failLoad ..
    · exact readBank ..

theorem directoryRead (c : CurrentLoad) (count position : Nat) (words : List Word) (s : Block) :
    Plays s (directoryRead c count position words s) := by
  unfold Machine.directoryRead
  dsimp only
  split
  · split
    · split
      · exact failLoad ..
      · exact readBank ..
    · exact failLoad ..
  · split
    · exact readBank ..
    · exact failLoad ..

theorem headerRead (c : CurrentLoad) (number offset : Nat) (words : List Word) (s : Block) :
    Plays s (headerRead c number offset words s) := by
  unfold Machine.headerRead
  split
  · exact failLoad ..
  · dsimp only
    split
    · split
      · refine .trans ?_ (enterUnlock ..)
        exact modPlayback_field fun _ => ⟨rfl, rfl, rfl⟩
      · refine .trans ?_ (readBank ..)
        exact modPlayback_field fun _ => ⟨rfl, rfl, rfl⟩
    · exact failLoad ..

theorem entriesRead (c : CurrentLoad) (offset position : Nat) (words : List Word) (s : Block) :
    Plays s (entriesRead c offset position words s) := by
  unfold Machine.entriesRead
  dsimp only
  split
  · split
    · refine .trans ?_ (readBank ..)
      exact setPlayback (.takeEntries ..)
    · refine .trans ?_ (enterUnlock ..)
      exact setPlayback (.takeEntries ..)
  · refine .trans ?_ (failLoad ..)
    exact setPlayback (.takeEntries ..)

theorem unlockDone (c : CurrentLoad) (s : Block) : Plays s (unlockDone c s) := by
  unfold Machine.unlockDone
  split
  · refine .trans ?_ (endJob (fun t => loadCompleted _ _ _ t) _)
    exact modPlayback_field fun _ => ⟨rfl, rfl, rfl⟩
  · exact .trans (freeLoad _ s) (endUnfinished ..)

theorem loaderDone (words : List Word) (s : Block) : Plays s (loaderDone words s) := by
  unfold Machine.loaderDone
  split
  · exact refl s
  · split
    · exact lockDone ..
    · exact unlockDone ..
    · split
      · exact failLoad ..
      · exact countRead ..
    · split
      · exact failLoad ..
      · exact directoryRead ..
    · split
      · exact failLoad ..
      · exact headerRead ..
    · split
      · exact failLoad ..
      · exact entriesRead ..

theorem loaderFault (read : Bool) (s : Block) : Plays s (loaderFault read s) := by
  unfold Machine.loaderFault
  split
  · exact refl s
  · split
    · refine .trans (.trans ?_ (freeLoad _ _)) (endUnfinished ..)
      split
      · exact countStuck s
      · exact refl s
    · exact .trans (.trans (countStuck s) (freeLoad _ _)) (endUnfinished ..)
    · exact failLoad ..
    · exact failLoad ..
    · exact failLoad ..
    · exact failLoad ..

theorem haltJobs (jobs : List LoadJob) (s : Block) : Plays s (haltJobs jobs s) := by
  unfold Machine.haltJobs
  exact foldl (fun _ _ => loadEnded ..) jobs s

theorem haltCurrent (s : Block) : Plays s (haltCurrent s) := by
  unfold Machine.haltCurrent
  split
  · exact refl s
  · dsimp only
    refine .trans ?_ (loadEnded _ _ _)
    refine .trans ?_ (freeLoad _ _)
    split <;> exact of_owned rfl rfl rfl

theorem loaderHalt (s : Block) : Plays s (loaderHalt s) := by
  refine .trans ?_ (haltCurrent _)
  refine .trans ?_ (haltJobs _ _)
  exact of_owned rfl rfl rfl

theorem loaderBoundary (s : Block) : Plays s (loaderBoundary s) := by
  refine .trans ?_ (takeLoadJob _)
  exact of_owned rfl rfl rfl

end Plays

end Sys2Proof.Machine
end

section
/-! SUPPORT. What the operations of the table loader, the lines with talkback, the status writer and the result writer change, and that
their queues stay within their entries (R84, R144). -/

namespace Sys2Proof.Machine

/-! ### The table loader -/

/-- `s` with the tables, the patch and the curves, the results and the port of `t`. -/
def withTables (s t : Block) : Block :=
  { s with
    tables := t.tables, results := t.results, port := t.port
    mixer := { s.mixer with patch := t.mixer.patch, owners := t.mixer.owners, curves := t.mixer.curves } }

/-- What an operation of the table loader changes; its queue stays within its entries. -/
structure Tabulates (s t : Block) : Prop where
  rest : t = withTables s t
  places : NoPlaceGained s t
  bounded : s.tables.queue.length ≤ Config.queuePlaces → t.tables.queue.length ≤ Config.queuePlaces

theorem Posts.tabulates {s t : Block} (h : Posts s t) : Tabulates s t := by
  have tables : t.tables = s.tables := by rw [h.rest]; rfl
  refine ⟨?_, h.places, fun b => by rwa [tables]⟩
  rw [h.rest]
  rfl

namespace Tabulates

theorem refl (s : Block) : Tabulates s s := ⟨rfl, .of_results rfl, id⟩

theorem trans {s t u : Block} (h : Tabulates s t) (k : Tabulates t u) : Tabulates s u :=
  have kept : withTables t u = withTables (withTables s t) u := congrArg (withTables · u) h.rest
  ⟨k.rest.trans kept, h.places.trans k.places, fun b => k.bounded (h.bounded b)⟩

theorem of_owned {s t : Block} (h : t = withTables s t) (results : t.results = s.results)
    (queue : t.tables.queue.length ≤ s.tables.queue.length) : Tabulates s t := ⟨h, .of_results results, queue.trans⟩

theorem foldl {α : Type} {f : Block → α → Block} (h : ∀ t x, Tabulates t (f t x)) (xs : List α) (s : Block) :
    Tabulates s (xs.foldl f s) := by
  induction xs generalizing s with
  | nil => exact refl s
  | cons x rest ih => exact (h s x).trans (ih (f s x))

theorem setStaging (x : Staging) (s : Block) : Tabulates s (setStaging x s) := of_owned rfl rfl (Nat.le_refl _)

theorem setShadow (k : Fin 7) (x : Shadow) (s : Block) : Tabulates s (setShadow k x s) := of_owned rfl rfl (Nat.le_refl _)

theorem beginTable (j : TableJob) (s : Block) : Tabulates s (beginTable j s) := by
  cases j with
  | patch slot address count => exact .trans (setStaging _ s) (Posts.ask ..).tabulates
  | curve slot k address =>
    exact .trans (.trans (Posts.endShadow _ _ s).tabulates (setShadow ..)) (Posts.ask ..).tabulates

theorem takeTableJob (s : Block) : Tabulates s (takeTableJob s) := by
  unfold Machine.takeTableJob
  split
  · exact refl s
  · split
    · rename_i queue
      split
      · refine .trans ?_ (beginTable _ _)
        exact of_owned rfl rfl (by simp [queue])
      · exact refl s
    · exact refl s

theorem submitTable (slot : Fin 32) (j : TableJob) (s : Block) : Tabulates s (submitTable slot j s) := by
  unfold Machine.submitTable
  split
  · rename_i room
    refine .trans ⟨?_, .of_results ?_, fun _ => ?_⟩ (takeTableJob _)
    · rfl
    · rfl
    · simpa using room
  · exact (Posts.completePlain ..).tabulates

theorem arrivePatch (slot : Fin 32) (address count : Word) (s : Block) : Tabulates s (arrivePatch slot address count s) := by
  unfold Machine.arrivePatch
  split
  · exact submitTable ..
  · exact (Posts.completePlain ..).tabulates

theorem arriveCurve (slot : Fin 32) (curve address : Word) (s : Block) : Tabulates s (arriveCurve slot curve address s) := by
  unfold Machine.arriveCurve
  split
  · exact submitTable ..
  · exact (Posts.completePlain ..).tabulates

theorem readerIdle (s : Block) : Tabulates s (readerIdle s) := by
  refine .trans ?_ (takeTableJob _)
  exact of_owned rfl rfl (Nat.le_refl _)

theorem emptyFilling (j : TableJob) (s : Block) : Tabulates s (emptyFilling j s) := by
  cases j with
  | patch slot address count => exact setStaging ..
  | curve slot k address => exact setShadow ..

theorem failTable (j : TableJob) (code : ResultCode) (v1 v2 : Word) (s : Block) : Tabulates s (failTable j code v1 v2 s) :=
  .trans (.trans (emptyFilling j s) (Posts.complete ..).tabulates) (readerIdle _)

theorem validatePatch (slot : Fin 32) (j : TableJob) (words : List Word) (s : Block) : Tabulates s (validatePatch slot j words s) := by
  unfold Machine.validatePatch
  dsimp only
  split
  · exact failTable ..
  · split
    · exact failTable ..
    · exact .trans (setStaging _ s) (readerIdle _)

/-- However much of the list was read before. -/
theorem patchRead (j : TableJob) (slot : Fin 32) (address : Word) (count : Nat) (words : List Word) (s : Block) :
    Tabulates s (patchRead j slot address count words s) := by
  unfold Machine.patchRead
  dsimp only
  split
  all_goals
    split
    · exact .trans (setStaging _ s) (Posts.ask .tables _ _).tabulates
    · exact validatePatch ..

theorem curveRead (j : TableJob) (slot : Fin 32) (k : Fin 7) (address : Word) (words : List Word) (s : Block) :
    Tabulates s (curveRead j slot k address words s) := by
  unfold Machine.curveRead
  dsimp only
  split
  · exact failTable ..
  · split
    all_goals
      split
      · exact .trans (setShadow _ _ s) (Posts.ask .tables _ _).tabulates
      · exact .trans (setShadow _ _ s) (readerIdle _)

theorem tablesDone (words : List Word) (s : Block) : Tabulates s (tablesDone words s) := by
  unfold Machine.tablesDone
  split
  · exact refl s
  · split
    · exact failTable ..
    · split
      · exact patchRead ..
      · exact curveRead ..

theorem tablesFault (s : Block) : Tabulates s (tablesFault s) := by
  unfold Machine.tablesFault
  split
  · exact refl s
  · exact failTable ..

theorem endTables (code : ResultCode) (s : Block) : Tabulates s (endTables code s) := by
  unfold Machine.endTables
  dsimp only
  refine .trans (.trans ?_ (setStaging ..)) (foldl (fun t k => ?_) allShadows _)
  · refine .trans (.trans ?_ (Posts.foldl (fun t j => Posts.completePlain (TableJob.slot j) code t) _ _).tabulates)
      (Posts.endStaging ..).tabulates
    exact of_owned rfl rfl (Nat.zero_le _)
  · exact .trans (Posts.endShadow ..).tabulates (setShadow ..)

theorem tablesStop (s : Block) : Tabulates s (tablesStop s) := endTables .cancelled s

theorem tablesHalt (s : Block) : Tabulates s (tablesHalt s) := by
  unfold Machine.tablesHalt
  dsimp only
  split
  · refine .trans (endTables .busFault s) ?_
    exact of_owned rfl rfl (Nat.zero_le _)
  · rename_i j _
    refine .trans (.trans (endTables .busFault s) (Posts.completePlain j.slot .busFault _).tabulates) ?_
    exact of_owned rfl rfl (Nat.zero_le _)

theorem installPatch (s : Block) : Tabulates s (installPatch s) := by
  unfold Machine.installPatch
  split
  · refine .trans (.trans ?_ (setStaging ..)) (Posts.complete ..).tabulates
    exact of_owned rfl rfl (Nat.le_refl _)
  · exact refl s

theorem installCurve (k : Fin 7) (s : Block) : Tabulates s (installCurve k s) := by
  unfold Machine.installCurve
  split
  · refine .trans (.trans ?_ (setShadow ..)) (Posts.complete ..).tabulates
    exact of_owned rfl rfl (Nat.le_refl _)
  · exact refl s

theorem installTables (s : Block) : Tabulates s (installTables s) :=
  .trans (.trans (installPatch s) (foldl (fun _ k => installCurve k _) allShadows _)) (takeTableJob _)

end Tabulates

/-! ### The lines and talkback -/

/-- `s` with the lines, the TALKBACK client's order, the results, the port and the raised sources of `t`. -/
def withLines (s t : Block) : Block :=
  { s with lines := t.lines, talkback := t.talkback, results := t.results, port := t.port, intStatus := t.intStatus }

/-- The query queues within their entries (R144). -/
def QueriesBounded (s : Block) : Prop := ∀ l, (lineOf s l).queries.length ≤ Config.queuePlaces

theorem QueriesBounded.of_lines {s t : Block} (h : t.lines = s.lines) (b : QueriesBounded s) : QueriesBounded t := fun l => by
  rw [lineOf, h]
  exact b l

/-- What an operation of the lines changes; their query queues stay within their entries. -/
structure Lights (s t : Block) : Prop where
  rest : t = withLines s t
  places : NoPlaceGained s t
  bounded : QueriesBounded s → QueriesBounded t

theorem Posts.lights {s t : Block} (h : Posts s t) : Lights s t := by
  refine ⟨?_, h.places, .of_lines (by rw [h.rest]; rfl)⟩
  rw [h.rest]
  rfl

namespace Lights

theorem refl (s : Block) : Lights s s := ⟨rfl, .of_results rfl, id⟩

theorem trans {s t u : Block} (h : Lights s t) (k : Lights t u) : Lights s u :=
  have kept : withLines t u = withLines (withLines s t) u := congrArg (withLines · u) h.rest
  ⟨k.rest.trans kept, h.places.trans k.places, fun b => k.bounded (h.bounded b)⟩

theorem foldl {α : Type} {f : Block → α → Block} (h : ∀ t x, Lights t (f t x)) (xs : List α) (s : Block) : Lights s (xs.foldl f s) := by
  induction xs generalizing s with
  | nil => exact refl s
  | cons x rest ih => exact (h s x).trans (ih (f s x))

theorem raiseInt (src : IntSource) (s : Block) : Lights s (raiseInt src s) := ⟨rfl, .of_results rfl, id⟩

/-- A line changed, its queries as many or fewer. -/
theorem modLine {l : Fin 4} {f : Line → Line} {s : Block} (h : (f (lineOf s l)).queries.length ≤ (lineOf s l).queries.length) :
    Lights s (modLine l f s) := by
  refine ⟨rfl, .of_results rfl, fun b m => ?_⟩
  simp only [lineOf, modLine_lines, modAt_eq, getAt_setAt_ite]
  split
  · exact h.trans (b l)
  · exact b m

theorem modLine_same {l : Fin 4} {f : Line → Line} {s : Block} (h : ∀ x, (f x).queries = x.queries) : Lights s (Machine.modLine l f s) :=
  modLine (by rw [h])

/-- The order of the TALKBACK client changed, and a line with its queries as they were. -/
theorem reordered {l : Fin 4} {f : Line → Line} {order : List (Fin 4)} {s : Block} (h : ∀ x, (f x).queries = x.queries) :
    Lights s (Machine.modLine l f { s with talkback := order }) :=
  .trans (t := { s with talkback := order }) ⟨rfl, .of_results rfl, id⟩ (modLine_same h)

theorem placeLine (l : Fin 4) (slot : Fin 32) (c : LineConfig) (s : Block) : Lights s (placeLine l slot c s) := by
  unfold Machine.placeLine
  dsimp only
  split
  · exact .trans (Posts.completePlain ..).lights (modLine_same fun _ => rfl)
  · exact modLine_same fun _ => rfl

theorem arriveSetLine (l : Fin 4) (slot : Fin 32) (mode rate count talkback base timeout action : Word) (s : Block) :
    Lights s (arriveSetLine l slot mode rate count talkback base timeout action s) := by
  unfold Machine.arriveSetLine
  split
  · exact (Posts.complete ..).lights
  · split
    · exact placeLine ..
    · exact (Posts.complete ..).lights

theorem installedLine_queries (c : LineConfig) (x : Line) : (installedLine c x).queries = if c.talkback then x.queries else [] := rfl

theorem installLine (l : Fin 4) (s : Block) : Lights s (installLine l s) := by
  unfold Machine.installLine
  dsimp only
  split
  · exact refl s
  · refine .trans (.trans ?_ (modLine ?_)) (Posts.complete ..).lights
    · split
      · exact refl s
      · exact (Posts.endQueries ..).lights
    · rw [installedLine_queries]
      split
      · exact Nat.le_refl _
      · exact Nat.zero_le _

theorem startFrame (l : Fin 4) (s : Block) : Lights s (startFrame l s) := by
  unfold Machine.startFrame
  split
  · exact modLine_same fun _ => rfl
  · exact refl s

theorem lineBoundary (l : Fin 4) (s : Block) : Lights s (lineBoundary l s) := .trans (installLine l s) (startFrame l _)

theorem commit (l : Fin 4) (s : Block) : Lights s (commit l s) := by
  unfold Machine.commit
  dsimp only
  split
  · split
    · exact modLine_same fun _ => rfl
    · refine .trans ?_ (raiseInt ..)
      exact modLine_same fun _ => rfl
  · exact refl s

theorem signalExpires (l : Fin 4) (s : Block) : Lights s (signalExpires l s) := by
  unfold Machine.signalExpires
  split
  · refine .trans ?_ (raiseInt ..)
    exact modLine_same fun _ => rfl
  · exact modLine_same fun _ => rfl

theorem arriveClearLine (l : Fin 4) (slot : Fin 32) (s : Block) : Lights s (arriveClearLine l slot s) :=
  .trans (modLine_same (f := clearedLine) (l := l) fun _ => rfl) (Posts.complete ..).lights

theorem dropPendingLine (l : Fin 4) (s : Block) : Lights s (dropPendingLine l s) := by
  unfold Machine.dropPendingLine
  split
  · refine .trans ?_ (Posts.completePlain ..).lights
    exact modLine_same fun _ => rfl
  · exact refl s

theorem dropPendingLines (s : Block) : Lights s (dropPendingLines s) := by
  unfold Machine.dropPendingLines
  exact foldl (fun _ _ => dropPendingLine ..) allLines s

/-! #### The receiver -/

theorem frameError_queries (k : ErrorKind) (next : Receiver) (x : Line) : (frameError k next x).queries = x.queries := rfl

theorem lineBreak_queries (x : Line) : (lineBreak x).queries = x.queries := by
  unfold lineBreak
  split <;> rfl

theorem lineBreakEnd_queries (x : Line) : (lineBreakEnd x).queries = x.queries := by
  unfold lineBreakEnd
  split <;> rfl

theorem lineFall_queries (x : Line) : (lineFall x).queries = x.queries := by
  unfold lineFall
  split <;> rfl

theorem lineLowStop_queries (x : Line) : (lineLowStop x).queries = x.queries := by
  unfold lineLowStop
  split <;> rfl

theorem lineGap_queries (x : Line) : (lineGap x).queries = x.queries := by
  unfold lineGap
  split <;> rfl

theorem lineSlot_queries (flag : Bool) (data : Byte) (x : Line) : (lineSlot flag data x).queries = x.queries := by
  unfold lineSlot
  split
  · rfl
  · split <;> rfl

theorem lineCheck_queries (flag : Bool) (data : Byte) (x : Line) : (lineCheck flag data x).queries = x.queries := by
  unfold lineCheck
  split
  · rfl
  · split <;> rfl

theorem lineCharacter_queries (flag : Bool) (data : Byte) (x : Line) : (lineCharacter flag data x).queries = x.queries := by
  unfold lineCharacter
  split
  · rfl
  · rfl
  · rfl
  · unfold lineHeader
    split <;> rfl
  · unfold lineCount
    split <;> rfl
  · exact lineSlot_queries ..
  · exact lineCheck_queries ..

theorem receiveCharacter (l : Fin 4) (flag : Bool) (data : Byte) (s : Block) : Lights s (receiveCharacter l flag data s) := by
  unfold Machine.receiveCharacter
  dsimp only
  split
  · refine .trans (modLine_same fun x => ?_) (commit l _)
    exact lineCharacter_queries _ _ x
  · exact modLine_same fun x => lineCharacter_queries _ _ x

/-! #### Talkback -/

theorem arriveQuery (l : Fin 4) (slot : Fin 32) (address code count bytes0 bytes4 reply : Word) (s : Block) :
    Lights s (arriveQuery l slot address code count bytes0 bytes4 reply s) := by
  unfold Machine.arriveQuery
  dsimp only
  split
  · split
    · exact (Posts.complete ..).lights
    · split
      · rename_i room
        refine ⟨rfl, .of_results rfl, fun b m => ?_⟩
        simp only [lineOf, modLine_lines, modAt_eq, getAt_setAt_ite]
        split
        · rw [List.length_append]
          exact room
        · exact b m
      · exact (Posts.completePlain ..).lights
  · exact (Posts.completePlain ..).lights

theorem startQuery_queries (now : Time) (x : Line) : (startQuery now x).queries.length ≤ x.queries.length := by
  unfold startQuery
  split
  · rename_i queries _ _
    simp [queries]
  · exact Nat.le_refl _

theorem levelFrameEnded (l : Fin 4) (now : Time) (s : Block) : Lights s (Machine.modLine l (levelFrameEnded now) s) := by
  refine modLine ?_
  unfold Machine.levelFrameEnded
  dsimp only
  split
  · exact startQuery_queries now _
  · exact Nat.le_refl _

theorem trailEnded (l : Fin 4) (s : Block) : Lights s (Machine.modLine l trailEnded s) := by
  refine modLine_same fun x => ?_
  unfold Machine.trailEnded
  split <;> rfl

theorem turnaroundEnded (l : Fin 4) (s : Block) : Lights s (Machine.modLine l turnaroundEnded s) := by
  refine modLine_same fun x => ?_
  unfold Machine.turnaroundEnded
  dsimp only
  split <;> rfl

theorem endQuery (l : Fin 4) (code : ResultCode) (v1 v2 : Word) (s : Block) : Lights s (endQuery l code v1 v2 s) := by
  unfold Machine.endQuery
  split
  · exact refl s
  · dsimp only
    refine .trans (modLine_same (f := fun x => { x with inFlight := none }) (l := l) fun _ => rfl) ?_
    split
    · exact (Posts.completePlain ..).lights
    · split
      · exact (Posts.completePlain ..).lights
      · exact (Posts.complete ..).lights

theorem queryFrameEnded (l : Fin 4) (s : Block) : Lights s (queryFrameEnded l s) := by
  unfold Machine.queryFrameEnded
  dsimp only
  refine .trans (modLine_same (f := fun x => { x with tx := .turnaround }) (l := l) fun _ => rfl) ?_
  split
  · exact refl _
  · split
    · exact endQuery ..
    · exact modLine_same fun _ => rfl

theorem askTalkback (s : Block) : Lights s (askTalkback s) := by
  unfold Machine.askTalkback
  split
  · split
    · exact (Posts.ask ..).lights
    · exact refl s
  · exact refl s

theorem placeReply (l : Fin 4) (r : Reply) (s : Block) : Lights s (placeReply l r s) := by
  unfold Machine.placeReply
  dsimp only
  split
  · refine .trans ?_ (askTalkback _)
    exact reordered fun _ => rfl
  · exact reordered fun _ => rfl

theorem replyWhole (l : Fin 4) (f : InFlight) (s : Block) : Lights s (replyWhole l f s) := by
  unfold Machine.replyWhole
  split
  · exact endQuery ..
  · exact placeReply ..

theorem failReply (l : Fin 4) (f : InFlight) (code : ResultCode) (reason : Nat) (s : Block) : Lights s (failReply l f code reason s) :=
  endQuery ..

theorem replyCharacter (l : Fin 4) (f : InFlight) (flag : Bool) (data : Byte) (s : Block) : Lights s (replyCharacter l f flag data s) := by
  unfold Machine.replyCharacter
  split
  · exact modLine_same fun _ => rfl
  · exact replyWhole ..
  · exact failReply ..

theorem talkbackCharacter (l : Fin 4) (flag : Bool) (data : Byte) (s : Block) : Lights s (talkbackCharacter l flag data s) := by
  unfold Machine.talkbackCharacter
  dsimp only
  split
  · split
    · exact replyCharacter ..
    · exact refl s
    · exact modLine_same fun _ => rfl
  · exact refl s

theorem replyStarts (l : Fin 4) (s : Block) : Lights s (replyStarts l s) := by
  unfold Machine.replyStarts
  split
  · exact modLine_same fun _ => rfl
  · exact refl s

theorem replyTimesOut (l : Fin 4) (s : Block) : Lights s (replyTimesOut l s) := by
  unfold Machine.replyTimesOut
  split
  · exact endQuery ..
  · exact refl s

theorem replyCollides (l : Fin 4) (kind : CollisionKind) (s : Block) : Lights s (replyCollides l kind s) := by
  unfold Machine.replyCollides
  split
  · exact failReply ..
  · exact refl s

theorem replyGap (l : Fin 4) (s : Block) : Lights s (replyGap l s) := by
  unfold Machine.replyGap
  split
  · split
    · exact refl s
    · exact failReply ..
  · exact refl s

theorem windowEnds (l : Fin 4) (s : Block) : Lights s (windowEnds l s) := by
  unfold Machine.windowEnds
  split
  · exact failReply ..
  · exact refl s

theorem endReply (code : ResultCode) (s : Block) : Lights s (endReply code s) := by
  unfold Machine.endReply
  split
  · exact refl s
  · rename_i l rest _
    dsimp only
    have emptied : Lights s (Machine.modLine l (fun x => { x with reply := none }) { s with talkback := rest }) :=
      reordered fun _ => rfl
    split
    · exact .trans emptied (askTalkback _)
    · refine .trans (.trans emptied ?_) (askTalkback _)
      split
      · exact (Posts.complete ..).lights
      · exact (Posts.completePlain ..).lights

theorem stopQueries (l : Fin 4) (s : Block) : Lights s (stopQueries l s) :=
  .trans (Posts.endQueries ..).lights (modLine (Nat.zero_le _))

theorem haltQueries (l : Fin 4) (s : Block) : Lights s (haltQueries l s) := by
  unfold Machine.haltQueries
  dsimp only
  refine .trans (.trans (Posts.endQueries .busFault (lineOf s l).queries s).lights ?_) (modLine (Nat.zero_le _))
  split
  · exact (Posts.completePlain ..).lights
  · exact refl _

theorem talkbackStop (s : Block) : Lights s (talkbackStop s) := by
  unfold Machine.talkbackStop
  exact foldl (fun _ _ => stopQueries ..) allLines s

theorem clearOrder (s : Block) : Lights s { s with talkback := [] } := ⟨rfl, .of_results rfl, id⟩

theorem talkbackHalt (s : Block) : Lights s (talkbackHalt s) := by
  unfold Machine.talkbackHalt
  dsimp only
  refine .trans ?_ (clearOrder _)
  exact foldl (fun t l => haltQueries l t) allLines s

theorem forgetQueries (s : Block) : Lights s (forgetQueries s) :=
  ⟨rfl, .of_results rfl, fun b l => by rw [forgetQueries_lineOf]; exact b l⟩

/-- An event of the receiver (R128). -/
theorem receiverEvent {l : Fin 4} {frame : Line → Line} {reply : Block → Block} {s : Block} (h : ∀ x, (frame x).queries = x.queries)
    (k : Lights s (reply s)) : Lights s (receiverEvent l frame reply s) := by
  unfold Machine.receiverEvent
  dsimp only
  split
  · exact modLine_same h
  · split
    · exact k
    · exact refl s

end Lights

/-! ### The status writer and the result writer -/

/-- `s` with the status writer, the results, the port and the raised sources of `t`. -/
def withReports (s t : Block) : Block := { s with status := t.status, results := t.results, port := t.port, intStatus := t.intStatus }

/-- What an operation of the status writer or the result writer changes. -/
structure Reports (s t : Block) : Prop where
  rest : t = withReports s t
  places : NoPlaceGained s t

theorem Posts.reports {s t : Block} (h : Posts s t) : Reports s t := by
  refine ⟨?_, h.places⟩
  rw [h.rest]
  rfl

namespace Reports

theorem refl (s : Block) : Reports s s := ⟨rfl, .of_results rfl⟩

theorem trans {s t u : Block} (h : Reports s t) (k : Reports t u) : Reports s u :=
  have kept : withReports t u = withReports (withReports s t) u := congrArg (withReports · u) h.rest
  ⟨k.rest.trans kept, h.places.trans k.places⟩

theorem modStatus (f : StatusWriter → StatusWriter) (s : Block) : Reports s (modStatus f s) := ⟨rfl, .of_results rfl⟩

theorem raiseInt (src : IntSource) (s : Block) : Reports s (raiseInt src s) := ⟨rfl, .of_results rfl⟩

theorem askStatus (s : Block) : Reports s (askStatus s) := by
  unfold Machine.askStatus
  split
  · exact (Posts.ask ..).reports
  · exact refl s

theorem joinStatus (j : StatusJob) (s : Block) : Reports s (joinStatus j s) := by
  unfold Machine.joinStatus
  dsimp only
  split
  · exact .trans (modStatus _ s) (askStatus _)
  · exact modStatus _ s

theorem leaveStatus (s : Block) : Reports s (leaveStatus s) := .trans (modStatus _ s) (askStatus _)

theorem beginPage (s : Block) : Reports s (beginPage s) := .trans (modStatus _ s) (joinStatus ..)

theorem statusDue (s : Block) : Reports s (statusDue s) := by
  unfold Machine.statusDue
  split
  · exact refl s
  · split
    · exact modStatus ..
    · exact beginPage s

theorem endPage (s : Block) : Reports s (endPage s) := modStatus ..

theorem endSnapshot (code : ResultCode) (s : Block) : Reports s (endSnapshot code s) := by
  unfold Machine.endSnapshot
  split
  · exact .trans (modStatus _ s) (Posts.completePlain ..).reports
  · exact refl s

theorem statusDone (s : Block) : Reports s (statusDone s) := by
  unfold Machine.statusDone
  split
  · split
    · exact .trans (modStatus _ s) (askStatus _)
    · exact .trans (.trans (endPage s) (raiseInt ..)) (leaveStatus _)
  · split
    · exact .trans (modStatus _ s) (askStatus _)
    · exact .trans (endSnapshot ..) (leaveStatus _)
  · exact refl s

theorem statusFault (s : Block) : Reports s (statusFault s) := by
  unfold Machine.statusFault
  split
  · exact .trans (endPage s) (leaveStatus _)
  · exact .trans (endSnapshot ..) (leaveStatus _)
  · exact refl s

theorem statusHalt (s : Block) : Reports s (statusHalt s) := by
  unfold Machine.statusHalt
  dsimp only
  refine .trans (.trans ?_ (endSnapshot ..)) (modStatus ..)
  split
  · exact endPage s
  · exact refl s

theorem statusStop (s : Block) : Reports s (statusStop s) := by
  unfold Machine.statusStop
  split
  · exact endSnapshot ..
  · exact refl s

theorem countStatus (installed : Bool) (s : Block) : Reports s (countStatus installed s) := by
  unfold Machine.countStatus
  dsimp only
  split
  · exact .trans (modStatus _ s) (statusDue _)
  · exact modStatus ..

theorem arriveSnapshot (slot : Fin 32) (address : Word) (s : Block) : Reports s (arriveSnapshot slot address s) := by
  unfold Machine.arriveSnapshot
  split
  · exact (Posts.completePlain ..).reports
  · exact modStatus ..

theorem copySnapshot (s : Block) : Reports s (copySnapshot s) := by
  unfold Machine.copySnapshot
  split
  · exact .trans (modStatus _ s) (joinStatus ..)
  · exact refl s

theorem setWriter (w : WriterStep) (s : Block) : Reports s (setWriter w s) := ⟨rfl, List.Subperm.refl _⟩

/-- A completion written leaves the result queue (R176). -/
theorem resultsDone (s : Block) : Reports s (resultsDone s) := by
  unfold Machine.resultsDone
  split
  · exact .trans (setWriter _ s) (Posts.ask ..).reports
  · rename_i c rest _ queue
    refine .trans (.trans ⟨?_, ?_⟩ (raiseInt ..)) (Posts.startWriter _).reports
    · rfl
    · rw [NoPlaceGained, heldPlaces, heldPlaces, queue, List.map_cons, List.cons_append]
      exact (List.sublist_cons_self _ _).subperm
  · exact refl s

theorem resultsBoundary (s : Block) : Reports s (resultsBoundary s) := by
  unfold Machine.resultsBoundary
  split
  · exact .trans (setWriter _ s) (Posts.startWriter _).reports
  · exact refl s

theorem resultsHalt (s : Block) : Reports s (resultsHalt s) := ⟨rfl, List.nil_subperm⟩

end Reports

end Sys2Proof.Machine
end

section
/-! SUPPORT. What keeps an invariant of the queues, the playbacks' lists, the loads, the pool and the places of the result queue: most
operations leave all of these at rest, and a step keeps the invariant when the few others do. -/

namespace Sys2Proof.Machine

/-! ### Operations that leave the work of the playbacks and the queues at rest -/

/-- What leaves the playbacks, the loads and the held edits as they are, and the queues of table jobs and queries within their entries. -/
structure SameWork (s t : Block) : Prop where
  playbacks : t.playbacks = s.playbacks
  jobs : t.loader.queue = s.loader.queue
  current : t.loader.current = s.loader.current
  held : t.mixer.held = s.mixer.held
  tables : s.tables.queue.length ≤ Config.queuePlaces → t.tables.queue.length ≤ Config.queuePlaces
  queries : QueriesBounded s → QueriesBounded t

theorem SameWork.trans {s t u : Block} (h : SameWork s t) (k : SameWork t u) : SameWork s u :=
  ⟨k.playbacks.trans h.playbacks, k.jobs.trans h.jobs, k.current.trans h.current, k.held.trans h.held, k.tables ∘ h.tables,
    k.queries ∘ h.queries⟩

/-- The same, with no place of the result queue gained and no claim begun (R172, R175). -/
structure Rests (s t : Block) : Prop extends SameWork s t where
  places : NoPlaceGained s t
  claim : ∀ i, claims i t = true → claims i s = true

/-- The same, but that slot `i` gains a place, and is not being claimed from then on (R172). -/
structure Reserves (i : Fin 32) (s t : Block) : Prop extends SameWork s t where
  places : (heldPlaces t).Subperm (i :: heldPlaces s)
  claim : ∀ j, claims j t = true → claims j s = true ∧ j ≠ i

theorem Reserves.rests {i : Fin 32} {s t u : Block} (h : Reserves i s t) (k : Rests t u) : Reserves i s u :=
  ⟨h.toSameWork.trans k.toSameWork, List.Subperm.trans k.places h.places, fun j hj => h.claim j (k.claim j hj)⟩

/-- `t` with everything at rest taken from `s`. -/
def atRest (s t : Block) : Block :=
  { t with
    playbacks := s.playbacks
    loader := { t.loader with queue := s.loader.queue, current := s.loader.current }
    mixer := { t.mixer with held := s.mixer.held }
    tables := { t.tables with queue := s.tables.queue }
    lines := s.lines, results := s.results
    scanner := { t.scanner with step := s.scanner.step } }

namespace Rests

theorem refl (s : Block) : Rests s s := ⟨⟨rfl, rfl, rfl, rfl, id, id⟩, .of_results rfl, fun _ h => h⟩

theorem trans {s t u : Block} (h : Rests s t) (k : Rests t u) : Rests s u :=
  ⟨h.toSameWork.trans k.toSameWork, h.places.trans k.places, fun i hi => h.claim i (k.claim i hi)⟩

/-- An operation that changes nothing of it. -/
theorem of_frame {s t : Block} (h : t = atRest s t) : Rests s t := by
  rw [h]
  exact ⟨⟨rfl, rfl, rfl, rfl, id, id⟩, .of_results rfl, fun _ h => h⟩

theorem foldl {α : Type} {f : Block → α → Block} (h : ∀ t x, Rests t (f t x)) (xs : List α) (s : Block) : Rests s (xs.foldl f s) := by
  induction xs generalizing s with
  | nil => exact refl s
  | cons x rest ih => exact (h s x).trans (ih (f s x))

theorem of_tabulates {s t : Block} (h : Tabulates s t) : Rests s t := by
  have scanner : t.scanner = s.scanner := by rw [h.rest]; rfl
  refine ⟨⟨?_, ?_, ?_, ?_, h.bounded, .of_lines ?_⟩, h.places, fun i => by rw [claims, claims, scanner]; exact id⟩
  all_goals rw [h.rest]; rfl

theorem of_lights {s t : Block} (h : Lights s t) : Rests s t := by
  have scanner : t.scanner = s.scanner := by rw [h.rest]; rfl
  have tables : t.tables = s.tables := by rw [h.rest]; rfl
  refine ⟨⟨?_, ?_, ?_, ?_, by rw [tables]; exact id, h.bounded⟩, h.places, fun i => by rw [claims, claims, scanner]; exact id⟩
  all_goals rw [h.rest]; rfl

theorem of_reports {s t : Block} (h : Reports s t) : Rests s t := by
  have scanner : t.scanner = s.scanner := by rw [h.rest]; rfl
  have tables : t.tables = s.tables := by rw [h.rest]; rfl
  refine ⟨⟨?_, ?_, ?_, ?_, by rw [tables]; exact id, .of_lines ?_⟩, h.places, fun i => by rw [claims, claims, scanner]; exact id⟩
  all_goals rw [h.rest]; rfl

theorem of_posts {s t : Block} (h : Posts s t) : Rests s t := of_reports h.reports

/-- The lines changed, their queries as they were. -/
theorem of_lines {s : Block} (f : Line → Line) (h : ∀ x, (f x).queries = x.queries) : Rests s { s with lines := mapAll s.lines f } := by
  refine ⟨⟨rfl, rfl, rfl, rfl, id, fun b l => ?_⟩, .of_results rfl, fun _ h => h⟩
  have same : (lineOf { s with lines := mapAll s.lines f } l).queries = (lineOf s l).queries := by simp [lineOf, h]
  rw [same]
  exact b l

/-! #### The scanner (R171 to R173) -/

/-- The scanner leaves a claim, or has none. -/
theorem leaveClaim {s : Block} (f : Scanner → Scanner) (h : ∀ i, claims i (modScanner f s) = true → claims i s = true) :
    Rests s (modScanner f s) := ⟨⟨rfl, rfl, rfl, rfl, id, id⟩, .of_results rfl, h⟩

theorem startScan (s : Block) : Rests s (startScan s) :=
  .trans (leaveClaim (fun x => { x with step := .row [] }) fun _ h => by simp [claims, modScanner] at h) (of_posts (Posts.ask ..))

theorem scanDue (s : Block) : Rests s (scanDue s) := by
  unfold Machine.scanDue
  split
  · exact startScan s
  · exact of_frame rfl

theorem endScan (s : Block) : Rests s (endScan s) := by
  have idle : Rests s (modScanner (fun x => { x with step := .idle, scanPending := false }) s) :=
    leaveClaim _ fun _ h => by simp [claims, modScanner] at h
  unfold Machine.endScan
  dsimp only
  split
  · exact idle.trans (startScan _)
  · exact idle

theorem scannerFault (s : Block) : Rests s (scannerFault s) := by
  unfold Machine.scannerFault
  split
  · exact .trans (of_posts (Posts.completePlain ..)) (endScan _)
  · exact endScan s

theorem scannerHalt (s : Block) : Rests s (scannerHalt s) := by
  have idle : Rests s (modScanner (fun x => { x with step := .idle, scanPending := false }) s) :=
    leaveClaim _ fun _ h => by simp [claims, modScanner] at h
  unfold Machine.scannerHalt
  dsimp only
  split
  · exact idle.trans (of_posts (Posts.completePlain ..))
  · exact idle

theorem countScan (installed : Bool) (s : Block) : Rests s (countScan installed s) := by
  unfold Machine.countScan
  dsimp only
  split
  · refine .trans ?_ (scanDue _)
    exact of_frame rfl
  · exact of_frame rfl

/-- The part's own stores change the request it reads, and nothing of its claims (R170). -/
theorem perform (k : TenureKind) (n : Nat) (s : Block) : Rests s (perform k n s) := by
  refine ⟨⟨rfl, rfl, rfl, rfl, id, id⟩, .of_results rfl, fun i h => ?_⟩
  simp only [claims, perform_scanner] at h ⊢
  cases step : s.scanner.step <;> simp_all [ScanStep.withOwnStores]

/-! #### The time base (R99 to R110) -/

theorem placeFrame (slot : Fin 32) (v : FrameValues) (s : Block) : Rests s (placeFrame slot v s) := by
  have place : ∀ t : Block, Rests t (modTime (fun x => { x with pending := some (v, slot) }) t) := fun _ => of_frame rfl
  unfold Machine.placeFrame
  dsimp only
  refine .trans ?_ (place _)
  split
  · exact of_posts (Posts.completePlain ..)
  · exact refl s

theorem arriveSetFrame (slot : Fin 32) (period scan status : Word) (s : Block) : Rests s (arriveSetFrame slot period scan status s) := by
  unfold Machine.arriveSetFrame
  split
  · exact of_posts (Posts.complete ..)
  · split
    · exact of_posts (Posts.complete ..)
    · exact placeFrame ..

theorem dropPendingFrame (s : Block) : Rests s (dropPendingFrame s) := by
  unfold Machine.dropPendingFrame
  split
  · refine .trans ?_ (of_posts (Posts.completePlain ..))
    exact of_frame rfl
  · exact refl s

theorem frameExpires (s : Block) : Rests s (frameExpires s) := by
  have count : ∀ t : Block, Rests t (modTime (fun x => { x with countdown := x.inForce.period, frames := x.frames + 1 }) t) :=
    fun _ => of_frame rfl
  refine .trans ?_ (count _)
  unfold Machine.installFrame
  split
  · refine .trans ?_ (of_posts (Posts.complete ..))
    exact of_frame rfl
  · exact refl s

/-! #### The mixer, the outputs and the trigger unit -/

theorem modStore (f : FrameStore → FrameStore) (s : Block) : Rests s (modStore f s) := of_frame rfl

theorem swap (s : Block) : Rests s (swap s) := by
  refine .trans ?_ (of_reports (Reports.copySnapshot _))
  exact of_frame rfl

theorem passStarts (s : Block) : Rests s (passStarts s) := by
  have latch : ∀ (l : PassLatch) (t : Block), Rests t (modMixer (fun m => { m with pass := some l }) t) := fun _ _ => of_frame rfl
  unfold Machine.passStarts
  dsimp only
  refine .trans ?_ (latch _ _)
  refine .trans ?_ (of_tabulates (Tabulates.installTables _))
  exact of_frame rfl

theorem mixerBoundary (s : Block) : Rests s (mixerBoundary s) := by
  have swapped : Rests s (if swaps s then Machine.swap s else s) := by
    split
    · exact swap s
    · exact refl s
  unfold Machine.mixerBoundary
  split
  · split
    · exact of_frame rfl
    · exact refl s
  · dsimp only
    split
    · exact swapped.trans (passStarts _)
    · exact swapped

theorem arriveSetGrand (slot : Fin 32) (level time : Word) (s : Block) : Rests s (arriveSetGrand slot level time s) := by
  unfold Machine.arriveSetGrand
  split
  · dsimp only
    refine .trans ?_ (of_posts (Posts.complete ..))
    exact of_frame rfl
  · exact of_posts (Posts.completePlain ..)

theorem arriveBlackout (slot : Fin 32) (action : Word) (s : Block) : Rests s (arriveBlackout slot action s) := by
  unfold Machine.arriveBlackout
  dsimp only
  split
  · refine .trans ?_ (of_posts (Posts.complete ..))
    exact of_frame rfl
  · exact of_posts (Posts.completePlain ..)

theorem arriveSetOutputs (slot : Fin 32) (clock modes inverts : Word) (s : Block) : Rests s (arriveSetOutputs slot clock modes inverts s) := by
  unfold Machine.arriveSetOutputs
  split
  · exact of_posts (Posts.complete ..)
  · exact of_posts (Posts.complete ..)
  · refine .trans ?_ (of_posts (Posts.completePlain ..))
    exact of_frame rfl

theorem arriveSetTrigger (t : Fin 8) (slot : Fin 32) (edge debounce action playback bank cue time : Word) (s : Block) :
    Rests s (arriveSetTrigger t slot edge debounce action playback bank cue time s) := by
  unfold Machine.arriveSetTrigger
  split
  · exact of_posts (Posts.complete ..)
  · dsimp only
    refine .trans ?_ (of_posts (Posts.complete ..))
    exact of_frame rfl

/-! #### The engine controller (R190 to R195) -/

theorem enterStarting (s : Block) : Rests s (enterStarting s) := by
  refine .trans ?_ (of_posts (Posts.ask ..))
  exact of_frame rfl

theorem startIfSet (s : Block) : Rests s (startIfSet s) := by
  unfold Machine.startIfSet
  split
  · exact enterStarting s
  · exact refl s

theorem enterStopped (s : Block) : Rests s (enterStopped s) := by
  refine .trans ?_ (startIfSet _)
  exact of_frame rfl

theorem sweepFrom (bank : Nat) (s : Block) : Rests s (sweepFrom bank s) := by
  unfold Machine.sweepFrom
  split
  · refine .trans ?_ (of_posts (Posts.ask ..))
    exact of_frame rfl
  · exact of_frame rfl

theorem countSweep (s : Block) : Rests s (countSweep s) := of_frame rfl

theorem anchorRead (before words : List Word) (s : Block) : Rests s (anchorRead before words s) := by
  unfold Machine.anchorRead
  dsimp only
  split
  · refine .trans ?_ (of_posts (Posts.ask ..))
    exact of_frame rfl
  · split
    · refine .trans ?_ (sweepFrom 0 _)
      exact of_frame rfl
    · exact of_frame rfl

theorem startDone (words : List Word) (s : Block) : Rests s (startDone words s) := by
  unfold Machine.startDone
  split
  · exact refl s
  · exact anchorRead ..
  · refine .trans ?_ (sweepFrom _ _)
    split
    · exact countSweep s
    · exact refl s

theorem startFault (s : Block) : Rests s (startFault s) := by
  unfold Machine.startFault
  split
  · exact refl s
  · exact of_frame rfl
  · exact sweepFrom ..

theorem abortStart (done : Nat) (s : Block) : Rests s (abortStart done s) := by
  unfold Machine.abortStart
  split
  · exact of_frame rfl
  · refine .trans ?_ (enterStopped _)
    exact of_frame rfl

theorem beginCounting (s : Block) : Rests s (beginCounting s) := of_frame rfl

theorem releaseReset (s : Block) : Rests s (releaseReset s) := by
  have released : Rests s { modEngine (fun e => { e with phase := .released }) s with
      lines := mapAll s.lines fun x => { x with driver := restDriver x.config } } :=
    .trans (t := modEngine (fun e => { e with phase := .released }) s) (of_frame rfl) (of_lines _ fun _ => rfl)
  unfold Machine.releaseReset
  dsimp only
  split
  · exact released.trans (beginCounting _)
  · exact released

theorem clockLocks (s : Block) : Rests s (clockLocks s) := by
  unfold Machine.clockLocks
  dsimp only
  split
  · refine .trans ?_ (startIfSet _)
    exact of_frame rfl
  · exact of_frame rfl

/-! #### The memory port (R182 to R189) -/

theorem serveNext (s : Block) : Rests s (serveNext s) := of_frame rfl

theorem setPort (p : Port) (s : Block) : Rests s { s with port := p } := of_frame rfl

theorem countFault (t : Tenure) (landed : Bool) (s : Block) : Rests s (countFault t landed s) :=
  .trans (perform t.kind (t.done + bit landed) s) (setPort _ _)

theorem endAborted (done : Nat) (s : Block) : Rests s (endAborted done s) := by
  unfold Machine.endAborted
  split
  · exact refl s
  · dsimp only
    refine .trans ?_ (enterStopped _)
    split
    · refine .trans ?_ (countSweep _)
      exact of_frame rfl
    · exact of_frame rfl

end Rests

end Sys2Proof.Machine
end

section
/-! SUPPORT. A step keeps an invariant that reset has and that the operations on playbacks, loads, held edits, claims and places keep. -/

namespace Sys2Proof.Machine

/-- What each of a list of changes keeps, all of them keep. -/
theorem foldl_invariant {α : Type} {P : Block → Prop} {f : Block → α → Block} (h : ∀ t x, P t → P (f t x)) (xs : List α) {s : Block}
    (p : P s) : P (xs.foldl f s) := by
  induction xs generalizing s with
  | nil => exact p
  | cons x rest ih => exact ih (h s x p)

/-- An invariant of the part that reset has, and that is kept where the work is at rest, by a claim and its place, by the operations of
the playbacks and the cue loader, and at the end of a pass. -/
structure Kept (P : Block → Prop) : Prop where
  reset : P Block.reset
  rests : ∀ {s t}, P s → Rests s t → P t
  reserves : ∀ {i s t}, P s → claims i s = true ∨ holdsPlace i s = false → Reserves i s t → P t
  claim : ∀ {i rest taken s}, P s → holdsPlace i s = false → P (modScanner (fun x => { x with step := .claim i rest taken }) s)
  fadeEnds : ∀ {p s}, P s → P (serve p (fadeEnds p s))
  followEnd : ∀ {p s}, P s → P (serve p (followEnd p s))
  masterSettles : ∀ {p s}, P s → P (masterSettles p s)
  arriveQueued : ∀ {p o k s}, P s → P (arriveQueued p o k s)
  arriveRelease : ∀ {p o time s}, P s → P (arriveRelease p o time s)
  arriveSetMaster : ∀ {p slot level time s}, P s → P (arriveSetMaster p slot level time s)
  clearPlaybacks : ∀ {s}, P s → P (clearPlaybacks s)
  loaderDone : ∀ {words s}, P s → P (loaderDone words s)
  loaderFault : ∀ {read s}, P s → P (loaderFault read s)
  loaderHalt : ∀ {s}, P s → s.engine.state = .halted → P (loaderHalt s)
  loaderBoundary : ∀ {s}, P s → P (loaderBoundary s)
  mixCompletes : ∀ {latch s}, P s → P (mixCompletes latch s)

namespace Kept

section

variable {P : Block → Prop} (k : Kept P)

include k

/-! ### Requests (R174) -/

theorem withTarget {n : Nat} {slot : Fin 32} {w : Word} {f : Fin n → Block → Block} {s : Block} (p : P s) (h : ∀ x, P (f x s)) :
    P (withTarget n slot w f s) := by
  unfold Machine.withTarget
  split
  · exact h _
  · exact k.rests p (.of_posts (Posts.completePlain ..))

/-- A request reaches its owner by its kind (R174). -/
theorem dispatch {slot : Fin 32} {words : List Word} {s : Block} (p : P s) : P (dispatch slot words s) := by
  unfold Machine.dispatch
  dsimp only
  split
  · exact k.rests p (Rests.arriveSetFrame ..)
  · exact k.withTarget p fun _ => k.rests p (.of_lights (Lights.arriveSetLine ..))
  · exact k.rests p (Rests.arriveSetOutputs ..)
  · exact k.withTarget p fun _ => k.rests p (Rests.arriveSetTrigger ..)
  · exact k.rests p (.of_tabulates (Tabulates.arrivePatch ..))
  · exact k.rests p (.of_tabulates (Tabulates.arriveCurve ..))
  · exact k.rests p (Rests.arriveSetGrand ..)
  · exact k.rests p (Rests.arriveBlackout ..)
  · exact k.rests p (.of_reports (Reports.arriveSnapshot ..))
  · exact k.withTarget p fun _ => k.rests p (.of_lights (Lights.arriveClearLine ..))
  · exact k.withTarget p fun _ => k.rests p (.of_lights (Lights.arriveQuery ..))
  · exact k.withTarget p fun _ => k.arriveQueued p
  · exact k.withTarget p fun _ => k.arriveQueued p
  · exact k.withTarget p fun _ => k.arriveQueued p
  · exact k.withTarget p fun _ => k.arriveQueued p
  · exact k.withTarget p fun _ => k.arriveRelease p
  · exact k.withTarget p fun _ => k.arriveSetMaster p
  · exact k.rests p (.of_posts (Posts.completePlain ..))

/-! ### The scanner (R171 to R173) -/

theorem visit (rest : List (Fin 32)) {taken : Nat} {s : Block} (p : P s) : P (visit taken s rest) := by
  induction rest with
  | nil => exact k.rests p (Rests.endScan s)
  | cons i rest ih =>
    unfold Machine.visit
    split
    · exact k.rests p (Rests.endScan s)
    · split
      · exact ih
      · rename_i free
        split
        · exact k.rests p (Rests.endScan s)
        · exact k.rests (k.claim p (Bool.not_eq_true _ ▸ free)) (.of_posts (Posts.ask ..))

theorem rowRead {row words : List Word} {s : Block} (p : P s) : P (rowRead row words s) := by
  unfold Machine.rowRead
  dsimp only
  split
  · exact k.rests p (.trans (Rests.leaveClaim (fun x => { x with step := .row (row ++ words) }) fun _ h => by simp [claims, modScanner] at h)
      (.of_posts (Posts.ask ..)))
  · exact k.visit _ p

end

/-- A slot taken gains its place as the scanner leaves the claim for the slot's body (R172). -/
theorem reserves_body (i : Fin 32) (rest : List (Fin 32)) (taken : Nat) (request : List Word) (s : Block) :
    Reserves i s (modScanner (fun x => { x with step := .body i rest taken request }) (reservePlace i s)) := by
  refine ⟨⟨rfl, rfl, rfl, rfl, id, id⟩, ?_, fun j h => by simp [claims, modScanner] at h⟩
  simp only [heldPlaces, reservePlace, modScanner, ← List.append_assoc]
  exact (List.perm_append_singleton _ _).subperm

/-- A slot taken gains its place as the scanner ends the scan (R173). -/
theorem reserves_endScan (i : Fin 32) (code : ResultCode) (s : Block) :
    Reserves i s (endScan (completePlain i code (reservePlace i s))) := by
  have same : endScan (completePlain i code (reservePlace i s))
      = endScan (modScanner (fun x => { x with step := .idle }) (completePlain i code (reservePlace i s))) := rfl
  rw [same]
  refine Reserves.rests (t := modScanner (fun x => { x with step := .idle }) (completePlain i code (reservePlace i s))) ?_ (Rests.endScan _)
  have posts := Posts.completePlain i code (reservePlace i s)
  have work := (Rests.of_posts posts).toSameWork
  refine ⟨⟨work.playbacks, work.jobs, work.current, work.held, work.tables, work.queries⟩, ?_,
    fun j h => by simp [claims, modScanner] at h⟩
  refine List.Subperm.trans (l₂ := heldPlaces (reservePlace i s)) posts.places ?_
  simp only [heldPlaces, reservePlace, ← List.append_assoc]
  exact (List.perm_append_singleton _ _).subperm

/-- A slot not being claimed gains its place (R172). -/
theorem reserves_place (i : Fin 32) (s : Block) (h : claims i s = false) : Reserves i s (reservePlace i s) := by
  refine ⟨⟨rfl, rfl, rfl, rfl, id, id⟩, ?_, fun j hj => ⟨hj, ?_⟩⟩
  · simp only [heldPlaces, reservePlace, ← List.append_assoc]
    exact (List.perm_append_singleton _ _).subperm
  · rintro rfl
    exact Bool.false_ne_true (h.symm.trans hj)

section

variable {P : Block → Prop} (k : Kept P)

include k

theorem claimDone {i : Fin 32} {rest : List (Fin 32)} {taken : Nat} {value : Word} {s : Block} (p : P s) (claim : claims i s = true) :
    P (claimDone i rest taken value s) := by
  unfold Machine.claimDone
  split
  · dsimp only
    split
    · exact k.rests (k.reserves p (.inl claim) (reserves_body i rest (taken + 1) (requestOf s.anchor i s.mem) s)) (.of_posts (Posts.ask ..))
    · exact k.reserves p (.inl claim) (reserves_endScan ..)
  · exact k.visit _ p

theorem bodyDone {i : Fin 32} {rest : List (Fin 32)} {taken : Nat} {request : List Word} {s : Block} (p : P s) :
    P (bodyDone i rest taken request s) := by
  unfold Machine.bodyDone
  split
  · exact k.visit _ (k.dispatch p)
  · exact k.rests p (.trans (.of_posts (Posts.completePlain ..)) (Rests.endScan _))

theorem scannerDone {words : List Word} {s : Block} (p : P s) :
    P (scannerDone words s) := by
  unfold Machine.scannerDone
  split
  · exact p
  · exact k.rowRead p
  · rename_i i rest taken step
    exact k.claimDone p (by simp [claims, step])
  · exact k.bodyDone p

/-! ### The port (R182 to R189) -/

theorem clientDone {c : Client} {words : List Word} {s : Block} (p : P s) :
    P (clientDone c words s) := by
  cases c with
  | scanner =>
    unfold Machine.clientDone
    dsimp only
    split
    · exact k.rests p (Rests.startDone ..)
    · exact k.scannerDone p
  | results => exact k.rests p (.of_reports (Reports.resultsDone s))
  | loader =>
    unfold Machine.clientDone
    dsimp only
    split
    · exact k.rests p (Rests.startDone ..)
    · exact k.loaderDone p
  | tables => exact k.rests p (.of_tabulates (Tabulates.tablesDone ..))
  | talkback => exact k.rests p (.of_lights (Lights.endReply .ok s))
  | status => exact k.rests p (.of_reports (Reports.statusDone s))

theorem clientFault {c : Client} {words : List Word} {s : Block} (p : P s) : P (clientFault c words s) := by
  cases c with
  | scanner =>
    unfold Machine.clientFault
    dsimp only
    split
    · exact k.rests p (Rests.startFault s)
    · exact k.rests p (Rests.scannerFault s)
  | results => exact k.rests p (.of_reports (Reports.setWriter ..))
  | loader =>
    unfold Machine.clientFault
    dsimp only
    split
    · exact k.rests p (Rests.startFault s)
    · exact k.loaderFault p
  | tables => exact k.rests p (.of_tabulates (Tabulates.tablesFault s))
  | talkback => exact k.rests p (.of_lights (Lights.endReply .busFault s))
  | status => exact k.rests p (.of_reports (Reports.statusFault s))

theorem enterHalted {s : Block} (p : P s) : P (enterHalted s) := by
  unfold Machine.enterHalted
  dsimp only
  generalize reported : raiseInt .fault { s with
    engine := { s.engine with state := .halted, fault := .busHalt, start := .idle, aborting := false }
    port := s.port.withdraw } = t
  have p : P t := reported ▸ k.rests p (.of_frame rfl)
  have halted : (scannerHalt t).engine.state = .halted := by rw [scannerHalt_engine, ← reported]; rfl
  have ended : P (Machine.loaderHalt (scannerHalt t)) := k.loaderHalt (k.rests p (Rests.scannerHalt t)) halted
  have tables := k.rests ended (.of_tabulates (Tabulates.tablesHalt _))
  have talkback := k.rests tables (.of_lights (Lights.talkbackHalt _))
  have status := k.rests talkback (.of_reports (Reports.statusHalt _))
  exact k.rests status (.of_reports (Reports.resultsHalt _))

theorem endDone {t : Tenure} {s : Block} (p : P s) : P (endDone t s) := by
  refine k.rests ?_ (Rests.serveNext _)
  have performed := k.rests p ((Rests.perform (t.reach (tenureLength t.kind s.mem) s.mem).kind (t.reach (tenureLength t.kind s.mem) s.mem).done s).trans
    (Rests.setPort { s.port.release with consecutive := 0 } _))
  exact k.clientDone performed

theorem endFaulted {t : Tenure} {done : Nat} {landed : Bool} {s : Block} (p : P s) : P (endFaulted t done landed s) := by
  have counted : P (countFault (t.underWay done s.mem) landed s) := k.rests p (Rests.countFault ..)
  unfold Machine.endFaulted
  dsimp only
  split
  · refine k.enterHalted (k.clientFault (k.rests counted ?_))
    exact .of_frame rfl
  · split
    · exact k.rests counted (Rests.enterStopped _)
    · exact k.rests (k.clientFault counted) (Rests.serveNext _)

/-! ### CONTROL (R190 to R194) -/

theorem enterStopping {s : Block} (p : P s) : P (enterStopping s) := by
  unfold Machine.enterStopping
  dsimp only
  have cleared : P (Machine.clearPlaybacks (modEngine (fun e => { e with state := .stopping }) s)) :=
    k.clearPlaybacks (k.rests p (.of_frame rfl))
  have tables := k.rests cleared (.of_tabulates (Tabulates.tablesStop _))
  have talkback := k.rests tables (.of_lights (Lights.talkbackStop _))
  have frame := k.rests talkback (Rests.dropPendingFrame _)
  have lines := k.rests frame (.of_lights (Lights.dropPendingLines _))
  have status := k.rests lines (.of_reports (Reports.statusStop _))
  exact k.rests status (Rests.modStore ..)

theorem leaveHalted {s : Block} (p : P s) : P (leaveHalted s) := by
  unfold Machine.leaveHalted
  have frame := k.rests (k.clearPlaybacks p) (Rests.dropPendingFrame _)
  have lines := k.rests frame (.of_lights (Lights.dropPendingLines _))
  exact k.rests (k.rests lines (.of_lights (Lights.forgetQueries _))) (Rests.enterStopped _)

theorem writeControl {v : Word} {done : Nat} {s : Block} (p : P s) : P (writeControl v done s) := by
  have written : P { s with control := controlOf v } := k.rests p (.of_frame rfl)
  unfold Machine.writeControl
  dsimp only
  split
  · exact k.rests written (Rests.startIfSet _)
  · exact k.rests written (Rests.abortStart ..)
  · exact k.enterStopping written
  · exact k.leaveHalted written
  · exact written

/-! ### Events of time and triggers -/

theorem takeBoundary {installed : Bool} {b : BoundaryTaker} {s : Block} (p : P s) : P (takeBoundary installed b s) := by
  cases b with
  | mixer => exact k.rests p (Rests.mixerBoundary s)
  | loader => exact k.loaderBoundary p
  | line l => exact k.rests p (.of_lights (Lights.lineBoundary ..))
  | scanner => exact k.rests p (Rests.countScan ..)
  | status => exact k.rests p (.of_reports (Reports.countStatus ..))
  | results => exact k.rests p (.of_reports (Reports.resultsBoundary s))

theorem frameBoundary {order : List BoundaryTaker} {s : Block} (p : P s) : P (frameBoundary order s) := by
  unfold Machine.frameBoundary
  exact foldl_invariant (fun _ _ h => k.takeBoundary h) _ (k.rests p (Rests.frameExpires s))

theorem endPass {s : Block} (p : P s) : P (endPass s) := by
  unfold Machine.endPass
  split
  · exact k.mixCompletes p
  · exact p

theorem performAction {t : Fin 8} {r : TriggerRecord} {s : Block} (p : P s) : P (performAction t r s) := by
  unfold Machine.performAction
  split
  · exact p
  · exact k.arriveQueued p
  · exact k.arriveQueued p
  · exact k.arriveQueued p
  · exact k.arriveQueued p
  · exact k.arriveRelease p
  · exact k.rests p (.of_frame rfl)

theorem settle {t : Fin 8} {level : Bool} {s : Block} (p : P s) : P (settle t level s) := by
  have moved : P (modTrigger t (fun g => { g with settled := level, timer := none }) s) := k.rests p (.of_frame rfl)
  unfold Machine.settle Machine.examineEdge
  dsimp only
  split
  · have accepted := k.rests moved (t := raiseInt .trigger (modTrigger t (fun g => { g with accepted := countUp g.accepted })
      (modTrigger t (fun g => { g with settled := level, timer := none }) s))) (.of_frame rfl)
    split
    · exact k.performAction accepted
    · exact accepted
  · exact moved

theorem pinChanges {t : Fin 8} {level : Bool} {s : Block} (p : P s) : P (pinChanges t level s) := by
  unfold Machine.pinChanges
  dsimp only
  split
  · exact p
  · split
    · exact k.rests p (.of_frame rfl)
    · split
      · exact k.settle (k.rests p (.of_frame rfl))
      · exact k.rests p (.of_frame rfl)

/-! ### Resets (R195) -/

theorem coldReset {landed : Nat} {s : Block} : P (coldReset landed s) := k.rests k.reset (.of_frame rfl)

theorem warmReset {cause : ResetCause} {landed : Nat} {s : Block} : P (warmReset cause landed s) := by
  refine k.rests k.reset ⟨⟨rfl, rfl, rfl, rfl, id, fun _ l => ?_⟩, .of_results rfl, fun _ h => h⟩
  have none : (lineOf (Machine.warmReset cause landed s) l).queries = [] := by simp [lineOf, Machine.warmReset, Line.reset]
  rw [none]
  exact Nat.zero_le _

end

end Kept

end Sys2Proof.Machine
end

section
/-! SUPPORT. Every command keeps such an invariant: one case for each. -/

namespace Sys2Proof.Machine

/-- A request comes only from a slot that holds no place and is not being claimed (R170, R172). -/
theorem requestComes_free {slot : Fin 32} {s : Block} (h : requestComes slot s = true) :
    holdsPlace slot s = false ∧ claims slot s = false := by
  simp only [requestComes, Bool.and_eq_true, Bool.not_eq_true'] at h
  exact ⟨h.1.2, h.2⟩

theorem gapFrame_queries (x : Line) : (if x.rx.gap then lineGap x else x).queries = x.queries := by
  split
  · exact Lights.lineGap_queries x
  · rfl

/-- What holds before a command and after its event holds after the command. -/
theorem holds_of_answer {P : Block → Prop} {c : Bool} {f : Block → Block} {s t : State} (e : answer c f s = .next t) (p : P s.block)
    (h : P (f s.block)) : P t.block := answer_keeps p (fun _ => h) e

namespace Kept

variable {P : Block → Prop} (k : Kept P)

include k

/-- A request's place is reserved, and its owner takes it (R172, R174). -/
theorem requested {slot : Fin 32} {owner : Block → Block} {s t : State} (e : request slot owner s = .next t) (p : P s.block)
    (h : ∀ b, P b → P (owner b)) : P t.block := by
  unfold request at e
  refine answer_keeps (f := fun b => owner (reservePlace slot b)) p (fun comes => h _ ?_) e
  obtain ⟨free, unclaimed⟩ := requestComes_free comes
  exact k.reserves p (.inr free) (reserves_place _ _ unclaimed)

theorem receiverEvent {l : Fin 4} {frame : Line → Line} {reply : Block → Block} {s : Block} (p : P s)
    (h : ∀ x, (frame x).queries = x.queries) (r : Lights s (reply s)) : P (receiverEvent l frame reply s) :=
  k.rests p (.of_lights (Lights.receiverEvent h r))

theorem faultTenure {done : Nat} {landed : Bool} {s : Block} (p : P s) : P (faultTenure done landed s) := by
  unfold Machine.faultTenure
  split
  · exact k.endFaulted p
  · exact p

theorem grantTimesOut {s : Block} (p : P s) : P (grantTimesOut s) := by
  unfold Machine.grantTimesOut
  split
  · exact k.endFaulted p
  · exact p

theorem endTenure {s : Block} (p : P s) : P (endTenure s) := by
  unfold Machine.endTenure
  split
  · exact k.endDone p
  · exact p

/-- Every command keeps the invariant. -/
theorem exec {c : Instr} {s t : State} (p : P s.block) (e : exec c s = .next t) : P t.block := by
  cases c with
  | coldReset landed => exact holds_of_answer e p (k.coldReset)
  | resetPin landed => exact holds_of_answer e p (k.warmReset)
  | softReset value landed => exact holds_of_answer e p (k.warmReset)
  | clockReady => exact holds_of_answer e p (k.rests p (Rests.clockLocks _))
  | runSet value => exact holds_of_answer e p (k.writeControl p)
  | runClear write => exact holds_of_answer e p (k.writeControl p)
  | stoppingDrained => exact holds_of_answer e p (k.rests p (Rests.enterStopped _))
  | controlBlackout write => exact holds_of_answer e p (k.writeControl p)
  | controlHold write => exact holds_of_answer e p (k.writeControl p)
  | controlWait write => exact holds_of_answer e p (k.writeControl p)
  | anchorWrite value => exact holds_of_answer (f := fun b => { b with anchorReg := value }) e p (k.rests p (.of_frame rfl))
  | nudge value => exact holds_of_answer e p (k.rests p (Rests.scanDue _))
  | intstatusWrite value =>
    exact holds_of_answer (f := fun b => { b with intStatus := b.intStatus &&& ~~~clearedBits value b.engine.state }) e p (k.rests p (.of_frame rfl))
  | intmaskWrite value => exact holds_of_answer (f := fun b => { b with intMask := value.setWidth 6 }) e p (k.rests p (.of_frame rfl))
  | registerWriteOther offset value => exact holds_of_answer (f := fun b => b) e p (p)
  | frameBoundary order => exact holds_of_answer e p (k.frameBoundary p)
  | mixComplete => exact holds_of_answer e p (k.endPass p)
  | setFrame slot period scan status => exact k.requested e p fun _ h => k.rests h (Rests.arriveSetFrame ..)
  | setLine slot line mode rate count talkback base timeout action =>
    exact k.requested e p fun _ h => k.withTarget h fun _ => k.rests h (.of_lights (Lights.arriveSetLine ..))
  | setOutputs slot clock modes inverts => exact k.requested e p fun _ h => k.rests h (Rests.arriveSetOutputs ..)
  | setTrigger slot trigger edge debounce action playback bank cue time =>
    exact k.requested e p fun _ h => k.withTarget h fun _ => k.rests h (Rests.arriveSetTrigger ..)
  | patch slot address count => exact k.requested e p fun _ h => k.rests h (.of_tabulates (Tabulates.arrivePatch ..))
  | loadCurve slot curve address => exact k.requested e p fun _ h => k.rests h (.of_tabulates (Tabulates.arriveCurve ..))
  | setGrand slot level time => exact k.requested e p fun _ h => k.rests h (Rests.arriveSetGrand ..)
  | blackout slot action => exact k.requested e p fun _ h => k.rests h (Rests.arriveBlackout ..)
  | snapshot slot address => exact k.requested e p fun _ h => k.rests h (.of_reports (Reports.arriveSnapshot ..))
  | clearLineStatus slot line =>
    exact k.requested e p fun _ h => k.withTarget h fun _ => k.rests h (.of_lights (Lights.arriveClearLine ..))
  | query slot line address code count bytes0 bytes4 reply =>
    exact k.requested e p fun _ h => k.withTarget h fun _ => k.rests h (.of_lights (Lights.arriveQuery ..))
  | go slot playback bank cue time => exact k.requested e p fun _ h => k.withTarget h fun _ => k.arriveQueued h
  | goNext slot playback bank => exact k.requested e p fun _ h => k.withTarget h fun _ => k.arriveQueued h
  | pause slot playback => exact k.requested e p fun _ h => k.withTarget h fun _ => k.arriveQueued h
  | resume slot playback => exact k.requested e p fun _ h => k.withTarget h fun _ => k.arriveQueued h
  | release slot playback time => exact k.requested e p fun _ h => k.withTarget h fun _ => k.arriveRelease h
  | setMaster slot playback level time => exact k.requested e p fun _ h => k.withTarget h fun _ => k.arriveSetMaster h
  | fadeEnd pb => exact holds_of_answer (f := fun b => serve pb (Machine.fadeEnds pb b)) e p (k.fadeEnds p)
  | followExpiry pb => exact holds_of_answer (f := fun b => serve pb (Machine.followEnd pb b)) e p (k.followEnd p)
  | masterSettling pb => exact holds_of_answer e p (k.masterSettles p)
  | grandSettling => exact holds_of_answer e p (k.rests p (.of_frame rfl))
  | mgntGrant stores => exact holds_of_answer e p (k.rests p (.of_frame rfl))
  | tenureEnd => exact holds_of_answer e p (k.endTenure p)
  | grantTimeout => exact holds_of_answer e p (k.grantTimesOut p)
  | readyTimeout done landed => exact holds_of_answer e p (k.faultTenure p)
  | busError done landed => exact holds_of_answer e p (k.faultTenure p)
  | levelFrameEnd l => exact holds_of_answer e p (k.rests p (.of_lights (Lights.levelFrameEnded ..)))
  | trailEnd l => exact holds_of_answer e p (k.rests p (.of_lights (Lights.trailEnded ..)))
  | queryFrameEnd l => exact holds_of_answer e p (k.rests p (.of_lights (Lights.queryFrameEnded ..)))
  | turnaroundEnd l => exact holds_of_answer e p (k.rests p (.of_lights (Lights.turnaroundEnded ..)))
  | replyStart l => exact holds_of_answer e p (k.rests p (.of_lights (Lights.replyStarts ..)))
  | replyStartTimeout l => exact holds_of_answer e p (k.rests p (.of_lights (Lights.replyTimesOut ..)))
  | replyCharacter l flag data => exact holds_of_answer e p (k.rests p (.of_lights (Lights.talkbackCharacter ..)))
  | replyCollision l kind => exact holds_of_answer e p (k.rests p (.of_lights (Lights.replyCollides ..)))
  | replyGapExpiry l => exact holds_of_answer e p (k.rests p (.of_lights (Lights.replyGap ..)))
  | queryWindowEnd l => exact holds_of_answer e p (k.rests p (.of_lights (Lights.windowEnds ..)))
  | rxBreak l => exact holds_of_answer e p (k.receiverEvent p Lights.lineBreak_queries (Lights.replyCollides ..))
  | rxBreakEnd l => exact holds_of_answer e p (k.receiverEvent p Lights.lineBreakEnd_queries (Lights.refl _))
  | rxCharacter l flag data =>
    refine holds_of_answer (f := fun b =>
      if (lineOf b l).config.mode.receives then receiveCharacter l flag data b else talkbackCharacter l flag data b) e p ?_
    split
    · exact k.rests p (.of_lights (Lights.receiveCharacter ..))
    · exact k.rests p (.of_lights (Lights.talkbackCharacter ..))
  | rxLowStop l => exact holds_of_answer e p (k.receiverEvent p Lights.lineLowStop_queries (Lights.replyCollides ..))
  | rxGapExpiry l => exact holds_of_answer e p (k.receiverEvent p gapFrame_queries (Lights.replyGap ..))
  | signalTimerExpiry l => exact holds_of_answer e p (k.rests p (.of_lights (Lights.signalExpires ..)))
  | pwmPeriodEnd => exact holds_of_answer e p (k.rests p (.of_frame rfl))
  | triggerPinChange t level =>
    refine holds_of_answer e p ?_
    split
    · exact k.pinChanges p
    · exact k.rests p (.of_frame rfl)
  | debounceExpiry t => exact holds_of_answer e p (k.settle p)
  | startOfALow l => exact holds_of_answer e p (k.receiverEvent p Lights.lineFall_queries (Lights.replyStarts ..))
  | tenureEnded done => exact holds_of_answer e p (k.rests p (Rests.endAborted ..))
  | resetRelease => exact holds_of_answer e p (k.rests p (Rests.releaseReset _))
  | millisecondBaseTick => exact holds_of_answer e p (k.rests p (.of_frame rfl))

/-- Every step keeps the invariant. -/
theorem step {s t : State} (p : P s.block) (e : step s = .next t) : P t.block := by
  unfold Machine.step at e
  split at e
  · cases e
    exact p
  · rename_i rest _
    exact k.exec (s := { s with pending := rest }) p e

end Kept

end Sys2Proof.Machine
end

section
/-! SUPPORT. The invariants of the queues, the lists, the places, the loads and the pool, and that every step keeps them; O59. -/

namespace Sys2Proof.Machine

/-! ### Invariants that the operations of a playback keep by what they change -/

/-- An invariant that every operation of the playbacks and the cue loader keeps, for what such an operation changes. -/
structure KeptByPlays (P : Block → Prop) : Prop where
  reset : P Block.reset
  rests : ∀ {s t}, P s → Rests s t → P t
  reserves : ∀ {i s t}, P s → claims i s = true ∨ holdsPlace i s = false → Reserves i s t → P t
  claim : ∀ {i rest taken s}, P s → holdsPlace i s = false → P (modScanner (fun x => { x with step := .claim i rest taken }) s)
  plays : ∀ {s t}, P s → Plays s t → P t
  passEnds : ∀ {latch s}, P s → P (passEnds latch s)

/-- A request that finds no room completes QUEUE_FULL, or is counted as dropped (R6). -/
theorem rests_queueFull (o : Origin) (s : Block) : Rests s (queueFull o s) := by
  cases o with
  | post i => exact .of_posts (Posts.completePlain ..)
  | trigger t => exact .of_frame rfl
  | follow => exact .refl s

namespace KeptByPlays

variable {P : Block → Prop} (k : KeptByPlays P)

include k

theorem arriveQueued {p : Fin 8} {o : Origin} {kind : QueuedKind} {s : Block} (h : P s) : P (arriveQueued p o kind s) := by
  unfold Machine.arriveQueued
  split
  · split
    · rename_i room
      refine k.plays (k.plays h (Plays.modPlayback (p := p) (f := fun x => { x with queue := x.queue ++ [⟨o, kind⟩] }) ?_)) (Plays.serve ..)
      refine .of_queue (le_max_of_le_right ?_) rfl rfl
      rw [List.length_append]
      exact room
    · exact k.rests h (rests_queueFull ..)
  · exact k.plays h (Posts.completeOrigin ..).plays

/-- Such an invariant is kept by every step. -/
theorem kept : Kept P where
  reset := k.reset
  rests := k.rests
  reserves := k.reserves
  claim := k.claim
  fadeEnds h := k.plays h (.trans (Plays.fadeEnds ..) (Plays.serve ..))
  followEnd h := k.plays h (.trans (Plays.followEnd ..) (Plays.serve ..))
  masterSettles h := k.plays h (Plays.masterSettles ..)
  arriveQueued := k.arriveQueued
  arriveRelease h := k.plays h (Plays.arriveRelease ..)
  arriveSetMaster h := k.plays h (Plays.arriveSetMaster ..)
  clearPlaybacks h := k.plays h (Plays.clearPlaybacks _)
  loaderDone h := k.plays h (Plays.loaderDone ..)
  loaderFault h := k.plays h (Plays.loaderFault ..)
  loaderHalt h _ := k.plays h (Plays.loaderHalt _)
  loaderBoundary h := k.plays h (Plays.loaderBoundary _)
  mixCompletes h := foldl_invariant (fun _ l p => k.rests p (.of_lights (Lights.commit l _))) allLines (k.passEnds h)

end KeptByPlays

/-! ### The queues (R5, R84, R144) -/

/-- The queues within their entries. -/
structure QueuesInv (s : Block) : Prop where
  playbacks : ∀ p, (playbackOf s p).queue.length ≤ Config.queuePlaces
  tables : s.tables.queue.length ≤ Config.queuePlaces
  queries : QueriesBounded s

theorem all_lines (f : Fin 4 → Bool) : allLines.all f = true ↔ ∀ l, f l = true := by
  simp only [allLines, List.all_cons, List.all_nil, Bool.and_true, Bool.and_eq_true, Fin.forall_fin_succ]
  simp

theorem queuesInv_iff (s : Block) : QueuesInv s ↔ queuesOk s = true := by
  simp only [queuesOk, Bool.and_eq_true, all_playbacks, all_lines, decide_eq_true_eq]
  exact ⟨fun h => ⟨⟨h.playbacks, h.tables⟩, h.queries⟩, fun ⟨⟨p, t⟩, q⟩ => ⟨p, t, q⟩⟩

theorem QueuesInv.of_work {s t : Block} (h : QueuesInv s) (k : SameWork s t) : QueuesInv t := by
  refine ⟨fun p => ?_, k.tables h.tables, k.queries h.queries⟩
  rw [playbackOf, k.playbacks]
  exact h.playbacks p

theorem queuesInv_kept : KeptByPlays QueuesInv where
  reset := (queuesInv_iff _).2 (by decide)
  rests h k := h.of_work k.toSameWork
  reserves h _ k := h.of_work k.toSameWork
  claim h _ := ⟨h.playbacks, h.tables, h.queries⟩
  plays h k := by
    refine ⟨fun p => (k.orderly p).queue (h.playbacks p), ?_, .of_lines ?_ h.queries⟩
    · rw [k.rest]; exact h.tables
    · rw [k.rest]; rfl
  passEnds h := ⟨h.playbacks, h.tables, h.queries⟩

/-! ### The lists (R28, R29) -/

/-- The sets and the incoming lists in ascending channel order. -/
def ListsInv (s : Block) : Prop := ∀ p, SetAscending (playbackOf s p).entries ∧ Ascending (playbackOf s p).incoming

theorem listsInv_iff (s : Block) : ListsInv s ↔ listsOk s = true := by
  simp only [ListsInv, listsOk, all_playbacks, Bool.and_eq_true, decide_eq_true_eq, SetAscending, Ascending]

theorem ListsInv.of_playbacks {s t : Block} (h : ListsInv s) (k : t.playbacks = s.playbacks) : ListsInv t := fun p => by
  rw [playbackOf, k]
  exact h p

theorem listsInv_kept : KeptByPlays ListsInv where
  reset := (listsInv_iff _).2 (by decide)
  rests h k := h.of_playbacks k.playbacks
  reserves h _ k := h.of_playbacks k.playbacks
  claim h _ := h
  plays h k := fun p => ⟨(k.orderly p).entries (h p).1, (k.orderly p).incoming (h p).2⟩
  passEnds h := h

/-! ### The places of the result queue (R172, R175) -/

/-- No slot holds two places, and a slot being claimed holds none. -/
structure PlacesInv (s : Block) : Prop where
  once : (heldPlaces s).Nodup
  claimed : ∀ i, claims i s = true → holdsPlace i s = false

theorem holdsPlace_iff_mem (i : Fin 32) (s : Block) : holdsPlace i s = true ↔ i ∈ heldPlaces s := by
  simp only [holdsPlace, heldPlaces, Bool.or_eq_true, List.contains_iff_mem, List.any_eq_true, beq_iff_eq, List.mem_append, List.mem_map]
  exact or_comm

theorem placesInv_iff (s : Block) : PlacesInv s ↔ placesOk s = true := by
  have claim : (∀ i, claims i s = true → holdsPlace i s = false) ↔
      (match s.scanner.step with
        | .claim i _ _ => !holdsPlace i s
        | _ => true) = true := by
    simp only [claims]
    cases s.scanner.step <;> simp
  rw [placesOk, Bool.and_eq_true, decide_eq_true_eq]
  exact ⟨fun h => ⟨h.once, claim.1 h.claimed⟩, fun ⟨once, claimed⟩ => ⟨once, claim.2 claimed⟩⟩

theorem not_holdsPlace_iff (i : Fin 32) (s : Block) : holdsPlace i s = false ↔ i ∉ heldPlaces s := by
  rw [← holdsPlace_iff_mem, Bool.not_eq_true]

theorem nodup_of_subperm {xs ys : List (Fin 32)} (h : xs.Subperm ys) (k : ys.Nodup) : xs.Nodup := by
  obtain ⟨zs, perm, sub⟩ := h
  exact perm.nodup_iff.1 (sub.nodup k)

/-- No place gained, and no claim begun. -/
theorem PlacesInv.less {s t : Block} (h : PlacesInv s) (places : NoPlaceGained s t) (claim : ∀ i, claims i t = true → claims i s = true) :
    PlacesInv t := by
  have sub : heldPlaces t ⊆ heldPlaces s := List.Subperm.subset places
  refine ⟨nodup_of_subperm places h.once, fun i hi => ?_⟩
  exact (not_holdsPlace_iff _ _).2 fun mem => (not_holdsPlace_iff _ _).1 (h.claimed i (claim i hi)) (sub mem)

theorem placesInv_kept : KeptByPlays PlacesInv where
  reset := (placesInv_iff _).2 (by decide)
  rests h k := h.less k.places k.claim
  reserves := by
    intro i s t h free k
    have new : i ∉ heldPlaces s := (not_holdsPlace_iff _ _).1 (free.elim (h.claimed i) id)
    refine ⟨nodup_of_subperm k.places (List.nodup_cons.2 ⟨new, h.once⟩), fun j hj => ?_⟩
    obtain ⟨before, other⟩ := k.claim j hj
    refine (not_holdsPlace_iff _ _).2 fun mem => ?_
    rcases List.mem_cons.1 (List.Subperm.subset k.places mem) with same | held
    · exact other same
    · exact (not_holdsPlace_iff _ _).1 (h.claimed j before) held
  claim := by
    intro i rest taken s h free
    refine ⟨h.once, fun j hj => ?_⟩
    have same : i = j := by simpa [claims, modScanner] using hj
    exact same ▸ free
  plays h k := by
    refine h.less k.places fun i hi => ?_
    rw [k.rest] at hi
    exact hi
  passEnds h := ⟨h.once, h.claimed⟩

/-- With no slot twice there are no more places than slots (R175). -/
theorem PlacesInv.few {s : Block} (h : PlacesInv s) : s.results.queue.length + s.results.reserved.length ≤ 64 := by
  have few : (heldPlaces s).length ≤ 32 := by simpa using h.once.length_le_card
  rw [heldPlaces, List.length_append, List.length_map] at few
  omega

/-! ### The loads (R2, R48) -/

theorem LoadsInv.of_work {s t : Block} (h : LoadsInv s) (k : SameWork s t) : LoadsInv t := by
  refine ⟨fun q => ?_, by rw [k.current]; exact h.lock⟩
  have same : loadOk t q = loadOk s q := by simp only [loadOk, playbackOf, k.playbacks, k.jobs, k.current]
  rw [same]
  exact h.loads q

theorem LoadsInv.loaderHalt {s : Block} (h : LoadsInv s) (halted : s.engine.state = .halted) : LoadsInv (loaderHalt s) := by
  obtain ⟨_, current, idle⟩ := loaderHalt_ends h halted
  refine ⟨fun q => ?_, by rw [current]; rfl⟩
  obtain ⟨load, queue⟩ := idle q
  simp [loadOk, load, queue]

theorem loadsInv_kept : Kept LoadsInv where
  reset := (loadsInv_iff _).2 (by decide)
  rests h k := h.of_work k.toSameWork
  reserves h _ k := h.of_work k.toSameWork
  claim h _ := h.of_same rfl rfl
  fadeEnds h := h.fadeEnds _
  followEnd h := h.followEnd _
  masterSettles h := h.masterSettles _
  arriveQueued h := h.arriveQueued ..
  arriveRelease h := h.arriveRelease ..
  arriveSetMaster h := h.arriveSetMaster ..
  clearPlaybacks h := h.clearPlaybacks
  loaderDone h := h.loaderDone _
  loaderFault h := h.loaderFault _
  loaderHalt h halted := h.loaderHalt halted
  loaderBoundary h := h.loaderBoundary
  mixCompletes h := h.of_same (by simp) (by simp)

/-! ### The pool (R27 to R31, R41) -/

/-- The lists in order and the pool within its size, the reserved entries with it. -/
structure ListedPool (s : Block) : Prop where
  lists : ListsInv s
  pool : PoolInv s

theorem poolStep_of_work {s t : Block} (k : SameWork s t) : PoolStep s t := by
  refine ⟨?_, fun p => ?_⟩
  · simp [poolUsed, poolHeld, poolAwaiting, playbackOf, k.playbacks, k.held]
  · simp [entriesLeft, playbackOf, k.playbacks, k.current]

theorem listedPool_kept : Kept ListedPool where
  reset := ⟨listsInv_kept.reset, (poolInv_iff _).2 (by decide)⟩
  rests h k := ⟨listsInv_kept.rests h.lists k, (poolStep_of_work k.toSameWork).inv h.pool⟩
  reserves h free k := ⟨listsInv_kept.reserves h.lists free k, (poolStep_of_work k.toSameWork).inv h.pool⟩
  claim h free := ⟨listsInv_kept.claim h.lists free, h.pool⟩
  fadeEnds h := ⟨listsInv_kept.kept.fadeEnds h.lists, (PoolStep.trans (poolStep_fadeEnds ..) (poolStep_serve ..)).inv h.pool⟩
  followEnd h := ⟨listsInv_kept.kept.followEnd h.lists, (PoolStep.trans (poolStep_followEnd ..) (poolStep_serve ..)).inv h.pool⟩
  masterSettles h := ⟨listsInv_kept.kept.masterSettles h.lists, (poolStep_masterSettles ..).inv h.pool⟩
  arriveQueued h := ⟨listsInv_kept.kept.arriveQueued h.lists, (poolStep_arriveQueued ..).inv h.pool⟩
  arriveRelease h := ⟨listsInv_kept.kept.arriveRelease h.lists, (poolStep_arriveRelease ..).inv h.pool⟩
  arriveSetMaster h := ⟨listsInv_kept.kept.arriveSetMaster h.lists, (poolStep_arriveSetMaster ..).inv h.pool⟩
  clearPlaybacks h := ⟨listsInv_kept.kept.clearPlaybacks h.lists, (poolStep_clearPlaybacks _).inv h.pool⟩
  loaderDone h := ⟨listsInv_kept.kept.loaderDone h.lists, poolInv_loaderDone _ h.pool fun p => (h.lists p).2⟩
  loaderFault h := ⟨listsInv_kept.kept.loaderFault h.lists, poolInv_loaderFault _ h.pool⟩
  loaderHalt h halted := ⟨listsInv_kept.kept.loaderHalt h.lists halted, poolInv_loaderHalt h.pool⟩
  loaderBoundary h := ⟨listsInv_kept.kept.loaderBoundary h.lists, (poolStep_loaderBoundary _).inv h.pool⟩
  mixCompletes h := ⟨listsInv_kept.kept.mixCompletes h.lists, (poolStep_mixCompletes ..).inv h.pool⟩

/-- The free entries are those neither in use nor awaiting landing (R27). -/
theorem pool_parts {b : Block} (h : poolOk b = true) :
    poolInUse b + awaitingLanding b ≤ 3072 ∧ poolFree b + poolInUse b + awaitingLanding b = 3072 := by
  have used : poolHeld b = poolInUse b := rfl
  have awaiting : poolAwaiting b = awaitingLanding b := rfl
  have size : Config.poolSize = 3072 := rfl
  simp only [poolOk, decide_eq_true_eq, poolFree, used, awaiting, size] at h ⊢
  omega

/-- Settles O59: each invariant is one of those that the operations of its part keep, and so every step keeps it. -/
theorem everyStepKeepsQueuesBoundedAndListsOrdered : Obligations.EveryStepKeepsQueuesBoundedAndListsOrdered := by
  unfold Obligations.EveryStepKeepsQueuesBoundedAndListsOrdered
  refine ⟨fun s t ok e => ?_, fun s t ok e => ?_, fun s t ok e => ?_, fun b ok => ?_, fun s t ok e => ?_, fun s t lists pool left e => ?_,
    fun b ok => pool_parts ok⟩
  · exact (queuesInv_iff _).1 (queuesInv_kept.kept.step ((queuesInv_iff _).2 ok) e)
  · exact (listsInv_iff _).1 (listsInv_kept.kept.step ((listsInv_iff _).2 ok) e)
  · exact (placesInv_iff _).1 (placesInv_kept.kept.step ((placesInv_iff _).2 ok) e)
  · exact ((placesInv_iff _).2 ok).few
  · exact (loadsInv_iff _).1 (loadsInv_kept.step ((loadsInv_iff _).2 ok) e)
  · have before : ListedPool s.block := ⟨(listsInv_iff _).2 lists, (poolInv_iff _).2 ⟨pool, left⟩⟩
    exact (poolInv_iff _).1 (listedPool_kept.step before e).pool

end Sys2Proof.Machine
end

section
/-! SUPPORT. Edits: what one edit of a playback gives the mixer and the pool, and what later operations leave of it (R27, R40, R41). -/

namespace Sys2Proof.Machine

/-! ### One edit -/

/-- The entries in use are those that the playbacks hold. -/
theorem poolInUse_congr {s t : Block} (h : ∀ q, (playbackOf t q).held = (playbackOf s q).held) : poolInUse t = poolInUse s := by
  have held : poolHeld t = poolHeld s := by simp only [poolHeld, h]
  exact held

/-- A playback replaced, and the edit that frees the entries it holds no longer. -/
theorem reaches_edited {p : Fin 8} {x : Playback} {freed : Nat} {b : Block} (h : x.held + freed = (playbackOf b p).held) :
    AnEditReachesTheMixer p freed b (edit p freed (setPlayback p x b)) := by
  have held : poolInUse (edit p freed (setPlayback p x b)) = poolHeld (setPlayback p x b) := by
    refine poolInUse_congr fun q => ?_
    rw [playbackOf_edit]
  have before : poolInUse b = poolHeld b := rfl
  have one := poolHeld_setPlayback p x b
  refine ⟨?_, fun none => ?_, fun some => ?_⟩
  · rw [held, before]
    omega
  · simp only [awaitingLanding, edit_mixer, setPlayback_mixer, none, playbackOf_edit]
    exact ⟨trivial, trivial⟩
  · obtain ⟨latch, pass⟩ := Option.isSome_iff_exists.1 some
    simp only [awaitingLanding, edit_mixer, setPlayback_mixer, pass, playbackOf_edit]
    simp

/-- What leaves the mixer, the entries that the playbacks hold and what the mixer sees of the playback leaves the edit. -/
theorem reaches_congr {p : Fin 8} {freed : Nat} {b t u : Block} (h : AnEditReachesTheMixer p freed b t)
    (held : ∀ q, (playbackOf u q).held = (playbackOf t q).held) (mixer : u.mixer = t.mixer)
    (view : (playbackOf u p).view = (playbackOf t p).view) : AnEditReachesTheMixer p freed b u := by
  unfold AnEditReachesTheMixer awaitingLanding at h ⊢
  rw [poolInUse_congr held, mixer, view]
  exact h

/-- An edit of a playback as it stands. -/
theorem reaches_edit_same (p : Fin 8) (b : Block) : AnEditReachesTheMixer p 0 b (edit p 0 b) := by
  have h := reaches_edited (p := p) (x := playbackOf b p) (b := b) (Nat.add_zero _)
  rwa [setPlayback_same] at h

/-- A playback replaced and its edit change the playbacks and the mixer alone. -/
theorem edited_rest (p : Fin 8) (x : Playback) (freed : Nat) (b : Block) :
    edit p freed (setPlayback p x b) = { b with
      playbacks := (edit p freed (setPlayback p x b)).playbacks, mixer := (edit p freed (setPlayback p x b)).mixer } := by
  conv_lhs => rw [edit_eq]
  rw [edit_playbacks]
  rfl

/-- A playback, changed once more where neither the mixer nor the pool sees it. -/
theorem reaches_setPlayback {p : Fin 8} {freed : Nat} {x : Playback} {b t : Block} (h : AnEditReachesTheMixer p freed b t)
    (held : x.held = (playbackOf t p).held) (view : x.view = (playbackOf t p).view) : AnEditReachesTheMixer p freed b (setPlayback p x t) := by
  refine reaches_congr h (fun q => ?_) rfl ?_
  · by_cases e : q = p
    · subst e
      rwa [playbackOf_setPlayback]
    · rw [playbackOf_setPlayback_ne _ _ _ _ e]
  · rwa [playbackOf_setPlayback]

/-! ### What a job taken leaves -/

/-- A job taken changes the loader, the load states and the port. -/
theorem takeLoadJob_rest (s : Block) :
    takeLoadJob s = { s with
      loader := (takeLoadJob s).loader, playbacks := (takeLoadJob s).playbacks, port := (takeLoadJob s).port } := by
  unfold takeLoadJob
  split
  · rfl
  · split
    · conv_lhs => rw [ask_eq]
      rw [ask_loader, ask_playbacks]
      rfl
    · rfl

/-- A job taken changes no more of a playback than its load state. -/
theorem takeLoadJob_playback (s : Block) (q : Fin 8) : ∃ l, playbackOf (takeLoadJob s) q = { playbackOf s q with load := l } := by
  unfold takeLoadJob
  split
  · exact ⟨_, rfl⟩
  · split
    · rename_i j _ _
      rw [playbackOf_ask]
      by_cases e : q = j.playback
      · subst e
        rw [playbackOf_modPlayback]
        exact ⟨_, rfl⟩
      · rw [playbackOf_modPlayback_ne _ _ _ _ e]
        exact ⟨_, rfl⟩
    · exact ⟨_, rfl⟩

/-- A job submitted changes no more of a playback than its load state. -/
theorem submitLoad_playback (p : Fin 8) (bank : Nat) (search : Search) (s : Block) (q : Fin 8) :
    ∃ l, playbackOf (submitLoad p bank search s) q = { playbackOf s q with load := l } := by
  unfold submitLoad
  obtain ⟨l, taken⟩ := takeLoadJob_playback (modPlayback p (fun x => { x with load := .waiting })
    { s with loader := { s.loader with queue := s.loader.queue ++ [⟨p, bank, search, 0, false⟩] } }) q
  refine ⟨l, taken.trans ?_⟩
  by_cases e : q = p
  · subst e
    rw [playbackOf_modPlayback]
    rfl
  · rw [playbackOf_modPlayback_ne _ _ _ _ e]
    rfl

theorem submitLoad_rest (p : Fin 8) (bank : Nat) (search : Search) (s : Block) :
    submitLoad p bank search s = { s with
      loader := (submitLoad p bank search s).loader, playbacks := (submitLoad p bank search s).playbacks
      port := (submitLoad p bank search s).port } := takeLoadJob_rest _

/-- A job submitted leaves an edit that has reached the mixer. -/
theorem reaches_submitLoad {p q : Fin 8} {freed : Nat} {bank : Nat} {search : Search} {b t : Block} (h : AnEditReachesTheMixer q freed b t) :
    AnEditReachesTheMixer q freed b (submitLoad p bank search t) := by
  refine reaches_congr h (fun r => ?_) (by rw [submitLoad_rest]) ?_
  · obtain ⟨l, same⟩ := submitLoad_playback p bank search t r
    rw [same]
    rfl
  · obtain ⟨l, same⟩ := submitLoad_playback p bank search t q
    rw [same]
    rfl

end Sys2Proof.Machine
end

section
/-! SUPPORT. The timers of the playbacks and of the mixer: fade ends, follows and masters (R19 to R22, R77). -/

namespace Sys2Proof.Machine

/-! ### Masters (R19, R77) -/

theorem due_iff (m : FadeRecord) (now : Time) : m.due now = true ↔ 0 < m.duration ∧ (m.duration : Int) ≤ showDiff now m.time := by
  simp [FadeRecord.due]

/-- A fade record that has reached its duration has its target's value, settled or not. -/
theorem settle_value {m : FadeRecord} {now : Time} (h : m.due now = true) : m.settle.value now = m.value now := by
  obtain ⟨long, past⟩ := (due_iff m now).1 h
  have before : m.value now = m.target := by
    simp only [FadeRecord.value, if_neg (Nat.ne_of_gt long), if_pos past, ite_eq_right_iff]
    omega
  rw [before]
  rfl

/-- Settles O24: both settle as edits that change no value. -/
theorem masterFadesSettle : Obligations.MasterFadesSettle := by
  unfold Obligations.MasterFadesSettle
  refine ⟨fun p b q clocks long past => ?_, fun b q clocks long past => ?_⟩
  · have due := (due_iff (playbackOf b p).master b.time.clock).2 ⟨long, past⟩
    refine ⟨masterSettles p b, answer_taken (by simp [clocks, due]) _ b q, ?_, ?_, fun p' other => ?_, ?_, ?_⟩
    · simp only [masterSettles, playbackOf_edit, playbackOf_modPlayback]
      rfl
    · simp only [masterSettles, playbackOf_edit, playbackOf_modPlayback]
      exact settle_value due
    · simp only [masterSettles, playbackOf_edit, playbackOf_modPlayback_ne _ _ _ _ other]
    · exact reaches_edited (x := { playbackOf b p with master := (playbackOf b p).master.settle }) (Nat.add_zero _)
    · exact edited_rest p _ 0 b
  · have due := (due_iff b.mixer.grand b.time.clock).2 ⟨long, past⟩
    refine ⟨b.mixer.grand.settle, rfl, settle_value due, ?_⟩
    exact answer_taken (by simp [clocks, due]) grandSettles b q

/-! ### A head that asks for a load (R9, R12) -/

theorem serveHead_goNext {p : Fin 8} {s : Block} {o : Origin} {bank : Option Nat} {rest : List QueuedRequest}
    (h : (playbackOf s p).queue = ⟨o, .goNext bank⟩ :: rest) : serveHead p s = serveLoad p (nextTarget (playbackOf s p).lastCue bank) s := by
  simp only [serveHead, h]

theorem serveHead_go {p : Fin 8} {s : Block} {o : Origin} {bank cue : Nat} {time : Option Nat} {rest : List QueuedRequest}
    (h : (playbackOf s p).queue = ⟨o, .go bank cue time⟩ :: rest) : serveHead p s = serveLoad p (some (bank, .exactly cue)) s := by
  simp only [serveHead, h]

/-- Outside HALTED a target chosen is submitted, the follow disarmed (R9). -/
theorem serveLoad_some (p : Fin 8) (bank : Nat) (search : Search) {s : Block} (runs : s.engine.state ≠ .halted) :
    serveLoad p (some (bank, search)) s = submitLoad p bank search (setPlayback p { playbackOf s p with follow := none } s) := by
  simp only [serveLoad, if_neg runs]
  rfl

/-- In HALTED the head ends BUS_FAULT (R25). -/
theorem serveLoad_halted (p : Fin 8) (choice : Option (Nat × Search)) {s : Block} (halted : s.engine.state = .halted) :
    serveLoad p choice s = finishHead p .busFault 0 0 (setPlayback p { playbackOf s p with follow := none } s) := by
  simp only [serveLoad, if_pos halted]
  rfl

/-- The next cue after one: its link, or the one above (R12). -/
theorem nextTarget_some (c : LastCue) (bank : Option Nat) :
    nextTarget (some c) bank = some (c.bank, if c.follow = .link then .exactly c.linkCue else .above c.cue) := by
  simp only [nextTarget]
  split <;> rfl

/-- The head completes and leaves the queue (R7, R8). -/
theorem finishHead_cons {p : Fin 8} {s : Block} {r : QueuedRequest} {rest : List QueuedRequest} (h : (playbackOf s p).queue = r :: rest)
    (code : ResultCode) (v1 v2 : Word) :
    finishHead p code v1 v2 s = completeOrigin r.origin code v1 v2 (setPlayback p { playbackOf s p with queue := rest } s) := by
  simp only [finishHead, h]
  rfl

/-! ### The request of a follow (R22) -/

/-- A follow's GO NEXT submits the load of its next cue (R12, R22). -/
theorem serve_follow_loads {p : Fin 8} {s : Block} {c : LastCue} (load : (playbackOf s p).load = .none)
    (queue : (playbackOf s p).queue = [followRequest]) (last : (playbackOf s p).lastCue = some c) (runs : s.engine.state ≠ .halted) :
    serve p s = submitLoad p c.bank (if c.follow = .link then .exactly c.linkCue else .above c.cue)
      (setPlayback p { playbackOf s p with follow := none } s) := by
  have head := serveHead_goNext queue
  rw [last, nextTarget_some, serveLoad_some _ _ _ runs] at head
  rw [serve_head p s load (by simp [queue]), head]
  exact serveUpTo_stop _ p _ (.inl (submitLoad_load p _ _ _))

/-- In HALTED a follow's GO NEXT ends with nothing done (R25). -/
theorem serve_follow_halted {p : Fin 8} {s : Block} (load : (playbackOf s p).load = .none)
    (queue : (playbackOf s p).queue = [followRequest]) (halted : s.engine.state = .halted) :
    serve p s = setPlayback p { playbackOf s p with follow := none, queue := [] } s := by
  have head := serveHead_goNext queue
  rw [serveLoad_halted _ _ halted, finishHead_cons (r := followRequest) (rest := []) (by simpa using queue)] at head
  simp only [followRequest, completeOrigin, playbackOf_setPlayback, setPlayback_setPlayback] at head
  rw [serve_head p s load (by simp [queue]), head]
  exact serveUpTo_stop _ p _ (.inr (by rw [playbackOf_setPlayback]))

/-- A follow that expires with an empty queue appends its request (R22). -/
theorem followEnd_empty {p : Fin 8} {s : Block} (h : (playbackOf s p).queue = []) :
    followEnd p s = setPlayback p { playbackOf s p with follow := none, queue := [followRequest] } s := by
  simp [followEnd, h, followRequest]

/-- A follow that expires with a request in the queue is superseded (R22). -/
theorem followEnd_superseded {p : Fin 8} {s : Block} (h : (playbackOf s p).queue ≠ []) :
    followEnd p s = { setPlayback p { playbackOf s p with follow := none } s with superseded := countUp s.superseded } := by
  simp [followEnd, h]

/-- Settles O23: the three branches of a follow's end, and the queue served after it. -/
theorem aFollowExpiryAdvancesOrIsSuperseded : Obligations.AFollowExpiryAdvancesOrIsSuperseded := by
  unfold Obligations.AFollowExpiryAdvancesOrIsSuperseded
  intro p b q d clocks notPaused armed past
  have due : timerDue b.time.clock (playbackOf b p).followTimer = true := by
    simp [Playback.followTimer, notPaused, armed, timerDue, past]
  have taken : exec (.followExpiry p) ⟨b, q⟩ = .next ⟨serve p (followEnd p b), q⟩ :=
    answer_taken (f := fun b => serve p (followEnd p b)) (by simp [clocks, due]) b q
  refine ⟨fun queue load => ?_, fun c queue load last runs => ?_, fun queue load halted => ?_⟩
  · rw [taken, followEnd_superseded queue, serve_stop]
    refine .inl ?_
    simpa [playbackOf] using load
  · have served := serve_follow_loads (p := p) (c := c)
      (s := setPlayback p { playbackOf b p with follow := none, queue := [followRequest] } b) (by simpa using load) (by simp)
      (by simpa using last) runs
    rw [playbackOf_setPlayback, setPlayback_setPlayback] at served
    rw [taken, followEnd_empty queue, served]
    rfl
  · have served := serve_follow_halted (p := p) (s := setPlayback p { playbackOf b p with follow := none, queue := [followRequest] } b)
      (by simpa using load) (by simp) halted
    rw [playbackOf_setPlayback, setPlayback_setPlayback] at served
    rw [taken, followEnd_empty queue, served, ← queue]

end Sys2Proof.Machine
end

section
/-! SUPPORT. Fade ends (R20, R21). -/

namespace Sys2Proof.Machine

/-- The part after the first step of a fade end: the playback replaced, its edit made, PLAYBACK raised. -/
def fadeEnded (p : Fin 8) (x : Playback) (freed : Nat) (b : Block) : Block := raiseInt .playback (edit p freed (setPlayback p x b))

section

variable (p : Fin 8) (x : Playback) (freed : Nat) (b : Block)

@[simp] theorem fadeEnded_playback : playbackOf (fadeEnded p x freed b) p = x := by simp [fadeEnded]

theorem fadeEnded_playback_ne {p' : Fin 8} (h : p' ≠ p) : playbackOf (fadeEnded p x freed b) p' = playbackOf b p' := by
  simp [fadeEnded, playbackOf_setPlayback_ne _ _ _ _ h]

@[simp] theorem fadeEnded_time : (fadeEnded p x freed b).time = b.time := by simp [fadeEnded]

@[simp] theorem fadeEnded_engine : (fadeEnded p x freed b).engine = b.engine := by simp [fadeEnded]

theorem fadeEnded_rest : fadeEnded p x freed b = { b with
    playbacks := (fadeEnded p x freed b).playbacks, mixer := (fadeEnded p x freed b).mixer
    intStatus := (fadeEnded p x freed b).intStatus } := by
  unfold fadeEnded
  rw [edited_rest]
  rfl

theorem fadeEnded_superseded : (fadeEnded p x freed b).superseded = b.superseded := by rw [fadeEnded_rest]

theorem fadeEnded_raised : isRaised .playback (fadeEnded p x freed b) = true := by
  simp [fadeEnded, isRaised, raiseInt, IntSource.bit, IntSource.index]

theorem fadeEnded_reaches (h : x.held + freed = (playbackOf b p).held) : AnEditReachesTheMixer p freed b (fadeEnded p x freed b) :=
  reaches_congr (reaches_edited h) (fun _ => rfl) rfl rfl

/-- Another playback put in its place. -/
theorem fadeEnded_setPlayback_rest (y : Playback) : setPlayback p y (fadeEnded p x freed b) = { b with
    playbacks := (setPlayback p y (fadeEnded p x freed b)).playbacks, mixer := (setPlayback p y (fadeEnded p x freed b)).mixer
    intStatus := (setPlayback p y (fadeEnded p x freed b)).intStatus } := by
  conv_lhs => rw [fadeEnded_rest]
  rfl

end

/-- The entries that a fade end removes are the leaving ones (R20). -/
theorem settledSet_freed (xs : List SetEntry) :
    (settledSet xs).length + (xs.filter fun e => e.leaving).length = xs.length
      ∧ xs.length - (settledSet xs).length = (xs.filter fun e => e.leaving).length := by
  have parts := xs.length_eq_length_filter_add (fun e => e.leaving)
  simp only [settledSet, List.length_map]
  omega

/-- The playback that a FADING fade end leaves holds as many entries less as have left it. -/
theorem toHolding_held (x : Playback) : x.toHolding.held + (x.entries.filter fun e => e.leaving).length = x.held := by
  have freed := (settledSet_freed x.entries).1
  simp only [Playback.held, Playback.toHolding]
  omega

/-- The playback that a RELEASING fade end leaves has an empty set. -/
theorem toIdle_held (x : Playback) : x.toIdle.held + x.entries.length = x.held := by
  simp only [Playback.held, Playback.toIdle, List.length_nil]
  omega

/-- FADING becomes HOLDING, and a follow already reached expires (R20, R21). -/
theorem fadeEnds_fading {p : Fin 8} {b : Block} (h : (playbackOf b p).fade = .fading) :
    fadeEnds p b = followIfDue p (fadeEnded p (playbackOf b p).toHolding ((playbackOf b p).entries.filter fun e => e.leaving).length b) := by
  simp only [fadeEnds, h, (settledSet_freed _).2, fadeEnded]

/-- The follow that a fade end has armed expires at once when it has been reached. -/
theorem followIfDue_fadeEnded (p : Fin 8) (x : Playback) (freed : Nat) (b : Block) :
    followIfDue p (fadeEnded p x.toHolding freed b)
      = if timerDue b.time.clock (FollowArmed x) then followEnd p (fadeEnded p x.toHolding freed b) else fadeEnded p x.toHolding freed b := by
  have timer : x.toHolding.followTimer = FollowArmed x := rfl
  simp only [followIfDue, fadeEnded_playback, fadeEnded_time, timer]

theorem fadeTimer_due {p : Fin 8} {b : Block} (clocks : clocked b = true)
    (past : reached b.time.clock (playbackOf b p).timing.fadeEnd = true)
    (h : (playbackOf b p).fade = .fading ∨ (playbackOf b p).fade = .releasing) (q : List Instr) :
    exec (.fadeEnd p) ⟨b, q⟩ = .next ⟨serve p (fadeEnds p b), q⟩ := by
  have due : timerDue b.time.clock (playbackOf b p).fadeTimer = true := by
    rcases h with h | h
    · simp [Playback.fadeTimer, h, timerDue, past]
    · simp [Playback.fadeTimer, h, timerDue, past]
  exact answer_taken (f := fun b => serve p (fadeEnds p b)) (by simp [clocks, due]) b q

section

variable {p : Fin 8} {b : Block} {q : List Instr} (clocks : clocked b = true)
  (past : reached b.time.clock (playbackOf b p).timing.fadeEnd = true)

include clocks past

/-- A FADING playback with no follow to serve holds (R20, R21). -/
theorem fadeEnd_holds (idle : (playbackOf b p).queue = [] ∨ (playbackOf b p).load ≠ .none) (fading : (playbackOf b p).fade = .fading)
    (later : ∀ d, FollowArmed (playbackOf b p) = some d → reached b.time.clock d = false) :
    exec (.fadeEnd p) ⟨b, q⟩ = .next
      ⟨fadeEnded p (playbackOf b p).toHolding ((playbackOf b p).entries.filter fun e => e.leaving).length b, q⟩ := by
  have notDue : timerDue b.time.clock (FollowArmed (playbackOf b p)) = false := by
    cases armed : FollowArmed (playbackOf b p) with
    | none => rfl
    | some d => exact later d armed
  rw [fadeTimer_due clocks past (.inl fading), fadeEnds_fading fading, followIfDue_fadeEnded, notDue, if_neg Bool.false_ne_true, serve_stop]
  rw [fadeEnded_playback]
  exact idle.symm

/-- A RELEASING playback becomes IDLE (R20). -/
theorem fadeEnd_idles (idle : (playbackOf b p).queue = [] ∨ (playbackOf b p).load ≠ .none) (releasing : (playbackOf b p).fade = .releasing) :
    exec (.fadeEnd p) ⟨b, q⟩ = .next ⟨fadeEnded p (playbackOf b p).toIdle (playbackOf b p).entries.length b, q⟩ := by
  have ends : fadeEnds p b = fadeEnded p (playbackOf b p).toIdle (playbackOf b p).entries.length b := fadeEnds_of_releasing releasing
  rw [fadeTimer_due clocks past (.inr releasing), ends, serve_stop]
  rw [fadeEnded_playback]
  exact idle.symm

variable (fading : (playbackOf b p).fade = .fading) {d : Time} (armed : FollowArmed (playbackOf b p) = some d)
  (reachedFollow : reached b.time.clock d = true)

include fading armed reachedFollow

/-- A FADING playback whose follow has been reached serves it (R20 to R22). -/
theorem fadeEnd_follows : exec (.fadeEnd p) ⟨b, q⟩ = .next ⟨serve p (followEnd p
    (fadeEnded p (playbackOf b p).toHolding ((playbackOf b p).entries.filter fun e => e.leaving).length b)), q⟩ := by
  have due : timerDue b.time.clock (FollowArmed (playbackOf b p)) = true := by rw [armed]; exact reachedFollow
  rw [fadeTimer_due clocks past (.inl fading), fadeEnds_fading fading, followIfDue_fadeEnded, if_pos due]

/-- With a load under way the follow is superseded (R22). -/
theorem fadeEnd_supersedes (load : (playbackOf b p).load ≠ .none) (queue : (playbackOf b p).queue ≠ []) :
    exec (.fadeEnd p) ⟨b, q⟩ = .next ⟨{ setPlayback p { (playbackOf b p).toHolding with follow := none }
      (fadeEnded p (playbackOf b p).toHolding ((playbackOf b p).entries.filter fun e => e.leaving).length b) with
        superseded := countUp b.superseded }, q⟩ := by
  rw [fadeEnd_follows clocks past fading armed reachedFollow, followEnd_superseded (by simpa [Playback.toHolding] using queue),
    fadeEnded_playback, fadeEnded_superseded, serve_stop]
  refine .inl ?_
  simpa [playbackOf, Playback.toHolding] using load

/-- In HALTED the follow's GO NEXT ends with nothing done (R25). -/
theorem fadeEnd_follows_halted (load : (playbackOf b p).load = .none) (queue : (playbackOf b p).queue = [])
    (halted : b.engine.state = .halted) :
    exec (.fadeEnd p) ⟨b, q⟩ = .next ⟨setPlayback p { (playbackOf b p).toHolding with follow := none }
      (fadeEnded p (playbackOf b p).toHolding ((playbackOf b p).entries.filter fun e => e.leaving).length b), q⟩ := by
  have empty : (playbackOf b p).toHolding.queue = [] := queue
  rw [fadeEnd_follows clocks past fading armed reachedFollow, followEnd_empty (by simpa using empty), fadeEnded_playback]
  have served := serve_follow_halted (p := p)
    (s := setPlayback p { (playbackOf b p).toHolding with follow := none, queue := [followRequest] }
      (fadeEnded p (playbackOf b p).toHolding ((playbackOf b p).entries.filter fun e => e.leaving).length b))
    (by simpa [Playback.toHolding] using load) (by simp) (by simpa using halted)
  rw [playbackOf_setPlayback, setPlayback_setPlayback] at served
  rw [served, ← empty]

/-- Otherwise it is submitted: the playback serves a GO NEXT whose load is under way (R12, R22). -/
theorem fadeEnd_follows_loads (load : (playbackOf b p).load = .none) (queue : (playbackOf b p).queue = [])
    (runs : b.engine.state ≠ .halted) :
    ∃ bank search, exec (.fadeEnd p) ⟨b, q⟩ = .next ⟨submitLoad p bank search
      (setPlayback p { (playbackOf b p).toHolding with follow := none, queue := [followRequest] }
        (fadeEnded p (playbackOf b p).toHolding ((playbackOf b p).entries.filter fun e => e.leaving).length b)), q⟩ := by
  have empty : (playbackOf b p).toHolding.queue = [] := queue
  have last : ∃ c, (playbackOf b p).lastCue = some c := by
    unfold FollowArmed at armed
    split at armed
    · rename_i c last
      exact ⟨c, last⟩
    · exact absurd armed (by simp)
  obtain ⟨c, last⟩ := last
  rw [fadeEnd_follows clocks past fading armed reachedFollow, followEnd_empty (by simpa using empty), fadeEnded_playback]
  have served := serve_follow_loads (p := p) (c := c)
    (s := setPlayback p { (playbackOf b p).toHolding with follow := none, queue := [followRequest] }
      (fadeEnded p (playbackOf b p).toHolding ((playbackOf b p).entries.filter fun e => e.leaving).length b))
    (by simpa [Playback.toHolding] using load) (by simp) (by simpa [Playback.toHolding] using last) (by simpa using runs)
  rw [playbackOf_setPlayback, setPlayback_setPlayback] at served
  exact ⟨_, _, by rw [served]⟩

end

/-- Settles O22: a fade end's branches by the fade state and by what becomes of its follow. -/
theorem aFadeEndSettlesThePlayback : Obligations.AFadeEndSettlesThePlayback := by
  unfold Obligations.AFadeEndSettlesThePlayback
  refine ⟨fun p b q clocks past idle => ?_, fun p b => ⟨edit_eq p 0 b, reaches_edit_same p b⟩, fun b => rfl⟩
  dsimp only
  have reaches := fadeEnded_reaches p _ _ b (toHolding_held (playbackOf b p))
  refine ⟨fun fading later => ?_, fun releasing => ?_, fun fading load queue runs ⟨d, armed, follow⟩ => ?_,
    fun fading load queue ⟨d, armed, follow⟩ => ?_, fun fading load queue halted ⟨d, armed, follow⟩ => ?_⟩
  · refine ⟨_, fadeEnd_holds clocks past idle fading later, fadeEnded_raised .., fadeEnded_playback .., reaches, ?_, fadeEnded_rest ..⟩
    exact fun p' other => fadeEnded_playback_ne _ _ _ _ other
  · refine ⟨_, fadeEnd_idles clocks past idle releasing, fadeEnded_raised .., fadeEnded_playback .., fadeEnded_reaches _ _ _ _ (toIdle_held _),
      ?_, fadeEnded_rest ..⟩
    exact fun p' other => fadeEnded_playback_ne _ _ _ _ other
  · obtain ⟨bank, search, taken⟩ := fadeEnd_follows_loads (q := q) clocks past fading armed follow load queue runs
    obtain ⟨l, same⟩ := submitLoad_playback p bank search
      (setPlayback p { (playbackOf b p).toHolding with follow := none, queue := [followRequest] }
        (fadeEnded p (playbackOf b p).toHolding ((playbackOf b p).entries.filter fun e => e.leaving).length b)) p
    rw [playbackOf_setPlayback] at same
    refine ⟨_, taken, ?_, by rw [same]; rfl, by rw [same]; rfl, by rw [same], ?_, by rw [same]; rfl, submitLoad_load p _ _ _⟩
    · rw [isRaised, submitLoad_rest]
      exact fadeEnded_raised ..
    · exact reaches_submitLoad (reaches_setPlayback reaches (by rw [fadeEnded_playback]; rfl) (by rw [fadeEnded_playback]; rfl))
  · refine ⟨_, fadeEnd_supersedes clocks past fading armed follow load queue, fadeEnded_raised .., ?_, ?_, rfl, ?_⟩
    · exact playbackOf_setPlayback ..
    · refine reaches_congr (reaches_setPlayback reaches ?_ ?_) (fun _ => rfl) rfl rfl
      · rw [fadeEnded_playback]; rfl
      · rw [fadeEnded_playback]; rfl
    · conv_lhs => rw [fadeEnded_setPlayback_rest]
  · refine ⟨_, fadeEnd_follows_halted clocks past fading armed follow load queue halted, fadeEnded_raised .., ?_, ?_, ?_⟩
    · exact playbackOf_setPlayback ..
    · exact reaches_setPlayback reaches (by rw [fadeEnded_playback]; rfl) (by rw [fadeEnded_playback]; rfl)
    · exact fadeEnded_setPlayback_rest ..

end Sys2Proof.Machine
end

section
/-! SUPPORT. Requests to a playback: how one arrives, joins the queue, and is served as its head (R6, R7, R172, R174). -/

namespace Sys2Proof.Machine

/-! ### Serving one head after another (R7) -/

/-- Served once oftener than its requests need, a queue is served no further. -/
theorem serveUpTo_more {n m : Nat} (le : n ≤ m) (p : Fin 8) (s : Block) (h : servings (playbackOf s p).queue ≤ n) :
    serveUpTo m p s = serveUpTo n p s := by
  induction n generalizing s m with
  | zero =>
    have none : (playbackOf s p).queue.length = 0 := by
      simp only [servings] at h
      omega
    exact serveUpTo_stop m p s (.inr (List.length_eq_zero_iff.1 none))
  | succ n ih =>
    obtain ⟨m, rfl⟩ : ∃ k, m = k + 1 := ⟨m - 1, by omega⟩
    by_cases waits : (playbackOf s p).load = .none ∧ (playbackOf s p).queue ≠ []
    · obtain ⟨r, rest, queue⟩ := List.exists_cons_of_ne_nil waits.2
      have shorter := servings_tail r rest
      rw [queue] at h
      rw [serveUpTo, serveUpTo, if_pos waits, if_pos waits]
      rcases serveHead_queue p s r rest queue with load | same | ⟨kind, last, follow⟩
      · rw [serveUpTo_stop m p _ (.inl load), serveUpTo_stop n p _ (.inl load)]
      · refine ih (by omega) _ ?_
        rw [same]
        omega
      · refine ih (by omega) _ ?_
        have one : servings [followRequest] = 1 := rfl
        have two : servings [r] = 2 := by simp [servings, kind, bit]
        rw [last, two] at h
        rw [follow, one]
        omega
    · rw [serveUpTo, serveUpTo, if_neg waits, if_neg waits]

/-- A playback with no load under way serves its head, and then its queue (R7). -/
theorem serve_serveHead {p : Fin 8} {s : Block} (load : (playbackOf s p).load = .none) (queue : (playbackOf s p).queue ≠ []) :
    serve p s = serve p (serveHead p s) := by
  obtain ⟨r, rest, cons⟩ := List.exists_cons_of_ne_nil queue
  rw [serve_head p s load queue, cons]
  unfold serve
  have enough : ∀ q : List QueuedRequest, servings q ≤ q.length + 1 := fun q => by
    simp only [servings, bit]
    split <;> omega
  rcases serveHead_queue p s r rest cons with under | same | ⟨_, last, follow⟩
  · rw [serveUpTo_stop _ p _ (.inl under), serveUpTo_stop _ p _ (.inl under)]
  · rw [same]
    exact serveUpTo_more (by simp) p _ (by rw [same]; exact (enough rest).trans (Nat.le_succ _))
  · rw [follow, last]
    exact (serveUpTo_more (by simp) p _ (by rw [follow]; exact enough _)).symm

/-! ### A request comes (R172, R174) -/

theorem requestComes_of_canCome {slot : Fin 32} {b : Block} (h : CanCome slot b) : requestComes slot b = true := by
  obtain ⟨phase, state, inTable, reserved, queued, unclaimed⟩ := h
  have free : holdsPlace slot b = false := (holdsPlace_iff slot b).2 ⟨reserved, queued⟩
  have claim : claims slot b = false := by
    unfold claims
    split
    · rename_i i rest n step
      exact beq_eq_false_iff_ne.2 fun e => unclaimed rest n (e ▸ step)
    · rfl
  simp [requestComes, (live_iff b).2 phase, state, inTable, free, claim]

/-- A request that can come reaches its owner, its place reserved. -/
theorem request_next {slot : Fin 32} {b : Block} (h : CanCome slot b) (owner : Block → Block) (q : List Instr) :
    request slot owner ⟨b, q⟩ = .next ⟨owner (reservePlace slot b), q⟩ :=
  answer_taken (f := fun b => owner (reservePlace slot b)) (requestComes_of_canCome h) b q

/-- The slot of a request that comes holds its place until the request completes. -/
theorem reserved_reservePlace (slot : Fin 32) (b : Block) : (reservePlace slot b).results.reserved.contains slot = true := by
  simp [reservePlace]

/-- The one place reserved goes to the completion (R175). -/
theorem complete_reserved_queue {slot : Fin 32} {s : Block} (reserved : s.results.reserved.contains slot = true)
    (runs : s.engine.state ≠ .halted) (code : ResultCode) (v1 v2 v3 : Word) :
    (complete slot code v1 v2 v3 s).results.queue = s.results.queue ++ [⟨slot, code, v1, v2, v3⟩] := by
  rw [complete_results, if_pos reserved, if_neg runs]

/-! ### A request joins the queue of a playback (R6) -/

section

variable {p : Fin 8} {slot : Fin 32} {k : QueuedKind} {s : Block}

theorem arriveQueued_bad (h : kindOk s.anchor.bankCount k = false) :
    arriveQueued p (.post slot) k s = complete slot .badParam 0 0 0 s := by
  rw [arriveQueued, h]
  rfl

theorem arriveQueued_full (h : kindOk s.anchor.bankCount k = true) (full : 4 ≤ (playbackOf s p).queue.length) :
    arriveQueued p (.post slot) k s = complete slot .queueFull 0 0 0 s := by
  rw [arriveQueued, if_pos h, if_neg (show ¬_ < Config.queuePlaces from Nat.not_lt.2 full)]
  rfl

/-- Behind a load a request waits. -/
theorem arriveQueued_waits (h : kindOk s.anchor.bankCount k = true) (room : (playbackOf s p).queue.length < 4)
    (load : (playbackOf s p).load ≠ .none) :
    arriveQueued p (.post slot) k s = setPlayback p { playbackOf s p with queue := (playbackOf s p).queue ++ [⟨.post slot, k⟩] } s := by
  rw [arriveQueued, if_pos h, if_pos (show _ < Config.queuePlaces from room), serve_stop _ _ (.inl (by simpa using load))]
  rfl

/-- Into an empty queue with no load under way a request is served as the head. -/
theorem arriveQueued_head (h : kindOk s.anchor.bankCount k = true) (queue : (playbackOf s p).queue = [])
    (load : (playbackOf s p).load = .none) :
    arriveQueued p (.post slot) k s
      = serve p (serveHead p (setPlayback p { playbackOf s p with queue := [⟨.post slot, k⟩] } s)) := by
  have room : (playbackOf s p).queue.length < Config.queuePlaces := by simp [queue, Config.queuePlaces]
  rw [arriveQueued, if_pos h, if_pos room, modPlayback_eq, queue, List.nil_append]
  exact serve_serveHead (by simpa using load) (by simp)

end

/-- The head of a playback just edited completes, its playback otherwise as the edit left it. -/
theorem finishHead_edited (p : Fin 8) (slot : Fin 32) (k : QueuedKind) (x y : Playback) (freed : Nat) (code : ResultCode) (v1 : Word)
    (s : Block) (queue : x.queue = [⟨.post slot, k⟩]) :
    finishHead p code v1 0 (edit p freed (setPlayback p x (setPlayback p y s)))
      = complete slot code v1 0 0 (edit p freed (setPlayback p { x with queue := [] } s)) := by
  rw [finishHead_cons (r := ⟨.post slot, k⟩) (rest := []) (by simpa using queue)]
  simp only [completeOrigin]
  rw [setPlayback_edit _ _ _ _ (by simp [Playback.view])]
  simp

end Sys2Proof.Machine
end

section
/-! SUPPORT. SET MASTER, GO and GO NEXT (R9, R12, R18). -/

namespace Sys2Proof.Machine

/-- Between passes a playback's edit lands at once (R40). -/
theorem edited_between {p : Fin 8} {x : Playback} {freed : Nat} {s : Block} (h : s.mixer.pass = none) :
    edit p freed (setPlayback p x s)
      = { s with playbacks := setAt s.playbacks p x, mixer := { s.mixer with views := setAt s.mixer.views p x.view } } := by
  rw [edit_eq, edit_mixer, setPlayback_mixer, h, playbackOf_setPlayback]
  simp only [setPlayback, h]

/-- During a pass it is held (R40). -/
theorem edited_during {p : Fin 8} {x : Playback} {freed : Nat} {s : Block} (h : s.mixer.pass.isSome = true) :
    edit p freed (setPlayback p x s)
      = { s with playbacks := setAt s.playbacks p x, mixer := { s.mixer with held := s.mixer.held ++ [⟨p, x.view, freed⟩] } } := by
  obtain ⟨latch, pass⟩ := Option.isSome_iff_exists.1 h
  rw [edit_eq, edit_mixer, setPlayback_mixer, pass, playbackOf_setPlayback]
  simp only [setPlayback, pass]

/-- Settles O42: the checks, and the edit that the new record makes. -/
theorem setMasterFadesAMaster : Obligations.SetMasterFadesAMaster := by
  unfold Obligations.SetMasterFadesAMaster
  intro slot playback level time b q comes
  have next : exec (.setMaster slot playback level time) ⟨b, q⟩
      = .next ⟨dispatchSetMaster slot playback level time (reservePlace slot b), q⟩ := request_next comes _ q
  dsimp only
  refine ⟨fun above => ?_, fun p target => ⟨fun range => ?_, fun level time => ⟨fun none => ?_, fun some => ?_⟩⟩⟩
  · rw [next, dispatchSetMaster, withTarget_bad _ _ _ _ above]
  · rw [next, dispatchSetMaster, withTarget_ok _ _ _ _ p target, arriveSetMaster, if_neg]
    · rfl
    · simp only [Config.full, Config.maxTime]
      omega
  · rw [next, dispatchSetMaster, withTarget_ok _ _ _ _ p target, arriveSetMaster, if_pos ⟨level, time⟩]
    dsimp only
    rw [edited_between (by simpa using none)]
    rfl
  · rw [next, dispatchSetMaster, withTarget_ok _ _ _ _ p target, arriveSetMaster, if_pos ⟨level, time⟩]
    dsimp only
    rw [edited_during (by simpa using some)]
    rfl

/-- Behind deferred jobs the one that joins the queue is the eligible one, and leaves them as they were. -/
theorem eligible_appended {jobs : List LoadJob} {j : LoadJob} (deferred : ∀ k ∈ jobs, k.deferred = true) (eligible : j.deferred = false) :
    (jobs ++ [j]).find? (fun k => !k.deferred) = some j ∧ (jobs ++ [j]).eraseP (fun k => !k.deferred) = jobs := by
  refine ⟨?_, ?_⟩
  · rw [List.find?_append, List.find?_eq_none.2 (fun k mem => by simp [deferred k mem])]
    simp [eligible]
  · rw [List.eraseP_append_right _ (fun k mem => by simp [deferred k mem])]
    simp [eligible]

/-- What an IDLE loader does with a job submitted when no other can be taken (R46, R48). -/
theorem submitLoad_taken {p : Fin 8} {bank : Nat} {search : Search} {b : Block} (runs : b.engine.state ≠ .halted)
    (idle : b.loader.current = none) (deferred : ∀ j ∈ b.loader.queue, j.deferred = true) :
    submitLoad p bank search b = ask .loader (.modify (b.anchor.banks[bank]?.getD 0) 0 2)
      { setPlayback p { playbackOf b p with load := .reading } b with
        loader := { b.loader with current := some ⟨⟨p, bank, search, 0, false⟩, .lock, false, false, none, none⟩ } } := by
  obtain ⟨found, left⟩ := eligible_appended (j := ⟨p, bank, search, 0, false⟩) deferred rfl
  have playbacks : modAt (modAt b.playbacks p fun x => { x with load := .waiting }) p (fun x => { x with load := .reading })
      = setAt b.playbacks p { playbackOf b p with load := .reading } := by
    simp [modAt_eq, playbackOf]
  simp only [submitLoad, takeLoadJob, modPlayback_engine, if_neg runs, modPlayback_loader, idle, found, left]
  refine congrArg (ask .loader _) ?_
  simp only [modPlayback, playbacks]
  rfl

/-- A job submitted behind another one waits (R46). -/
theorem submitLoad_waits {p : Fin 8} {bank : Nat} {search : Search} {b : Block} (runs : b.engine.state ≠ .halted)
    (current : b.loader.current.isSome = true) :
    submitLoad p bank search b = { setPlayback p { playbackOf b p with load := .waiting } b with
      loader := { b.loader with queue := b.loader.queue ++ [⟨p, bank, search, 0, false⟩] } } := by
  obtain ⟨c, busy⟩ := Option.isSome_iff_exists.1 current
  simp only [submitLoad, takeLoadJob, modPlayback_engine, if_neg runs, modPlayback_loader, busy]
  rfl

section

variable {p : Fin 8} {slot : Fin 32} {s : Block} (queue : (playbackOf s p).queue = []) (load : (playbackOf s p).load = .none)

include queue load

/-- A request with a target, at the head of an empty queue, submits its load (R9). -/
theorem arriveQueued_loads {k : QueuedKind} {bank : Nat} {search : Search} (ok : kindOk s.anchor.bankCount k = true)
    (runs : s.engine.state ≠ .halted)
    (head : ∀ t, (playbackOf t p).queue = [⟨.post slot, k⟩] → (playbackOf t p).lastCue = (playbackOf s p).lastCue →
      serveHead p t = serveLoad p (some (bank, search)) t) :
    arriveQueued p (.post slot) k s
      = submitLoad p bank search (setPlayback p { playbackOf s p with queue := [⟨.post slot, k⟩], follow := none } s) := by
  rw [arriveQueued_head ok queue load, head _ (by simp) (by simp), serveLoad_some _ _ _ (by simpa using runs), serve_stop]
  · simp
  · exact .inl (submitLoad_load p _ _ _)

/-- A GO NEXT without a target completes CUE_MISSING (R13). -/
theorem arriveQueued_missing (runs : s.engine.state ≠ .halted) (last : (playbackOf s p).lastCue = none) :
    arriveQueued p (.post slot) (.goNext none) s
      = complete slot .cueMissing 0 0 0 (setPlayback p { playbackOf s p with follow := none } s) := by
  rw [arriveQueued_head rfl queue load, serveHead_goNext (by rw [playbackOf_setPlayback])]
  simp only [serveLoad, setPlayback_engine, if_neg runs, playbackOf_setPlayback, last, nextTarget]
  rw [finishHead_cons (r := ⟨.post slot, .goNext none⟩) (rest := []) (by simp), serve_stop _ _ (.inr (by simp))]
  simp [completeOrigin, modPlayback_eq, queue]

end

theorem timeInRange_optionalWord (time : Word) :
    timeInRange (optionalWord time) = true ↔ time = 0xFFFFFFFF ∨ time.toNat ≤ 3600000 := by
  unfold optionalWord
  split
  · rename_i none
    simp [timeInRange, none]
  · rename_i given
    exact decide_eq_true_iff.trans (or_iff_right given).symm

/-- The parameter checks of a GO (R9). -/
theorem kindOk_go (banks : Nat) (bank cue time : Word) :
    kindOk banks (.go bank.toNat cue.toNat (optionalWord time)) = true
      ↔ bank.toNat < banks ∧ 1 ≤ cue.toNat ∧ cue.toNat ≤ 65534 ∧ (time = 0xFFFFFFFF ∨ time.toNat ≤ 3600000) := by
  simp only [kindOk, Bool.and_eq_true, decide_eq_true_eq, timeInRange_optionalWord, and_assoc]

/-- The parameter check of a GO NEXT (R12). -/
theorem kindOk_goNext (banks : Nat) (bank : Word) :
    kindOk banks (.goNext (optionalWord bank)) = true ↔ bank = 0xFFFFFFFF ∨ bank.toNat < banks := by
  unfold optionalWord kindOk
  split <;> simp_all

/-- Settles O39: a GO and a GO NEXT by their checks, and by what the queue and the load leave them to do. -/
theorem goAndGoNextStartALoad : Obligations.GoAndGoNextStartALoad := by
  unfold Obligations.GoAndGoNextStartALoad
  refine ⟨fun slot playback bank cue time b q comes => ?_, fun p bank search b runs => ?_⟩
  · have go : exec (.go slot playback bank cue time) ⟨b, q⟩
        = .next ⟨dispatchGo slot playback bank cue time (reservePlace slot b), q⟩ := request_next comes _ q
    have next : exec (.goNext slot playback bank) ⟨b, q⟩
        = .next ⟨dispatchGoNext slot playback bank (reservePlace slot b), q⟩ := request_next comes _ q
    have runs : (reservePlace slot b).engine.state ≠ .halted := by
      rw [reservePlace_engine, comes.2.1]
      decide
    have checkGo := kindOk_go b.anchor.bankCount bank cue time
    have checkNext := kindOk_goNext b.anchor.bankCount bank
    dsimp only
    refine ⟨fun above => ⟨?_, ?_⟩, fun p target => ?_⟩
    · rw [go, dispatchGo, withTarget_bad _ _ _ _ above]
    · rw [next, dispatchGoNext, withTarget_bad _ _ _ _ above]
    · rw [go, next, dispatchGo, dispatchGoNext, withTarget_ok _ _ _ _ p target, withTarget_ok _ _ _ _ p target]
      refine ⟨fun bad => ?_, fun bad => ?_, fun ok full => ?_, fun ok full => ?_, fun ok room load => ?_, fun ok room load => ?_,
        fun ok queue load => ?_, fun ok queue load => ⟨fun c last => ?_, fun last given => ?_, fun last given => ?_⟩⟩
      · rw [arriveQueued_bad (s := reservePlace slot b) (Bool.not_eq_true _ ▸ mt checkGo.1 bad)]
      · rw [arriveQueued_bad (s := reservePlace slot b) (Bool.not_eq_true _ ▸ mt checkNext.1 bad)]
      · rw [arriveQueued_full (s := reservePlace slot b) (checkGo.2 ok) full]
      · rw [arriveQueued_full (s := reservePlace slot b) (checkNext.2 ok) full]
      · rw [arriveQueued_waits (s := reservePlace slot b) (checkGo.2 ok) room load]
        rfl
      · rw [arriveQueued_waits (s := reservePlace slot b) (checkNext.2 ok) room load]
        rfl
      · rw [arriveQueued_loads (s := reservePlace slot b) queue load (checkGo.2 ok) runs fun t head _ => serveHead_go head]
        rfl
      · rw [arriveQueued_loads (s := reservePlace slot b) (bank := c.bank)
          (search := if c.follow = .link then .exactly c.linkCue else .above c.cue) queue load
          (checkNext.2 ok) runs fun t head same => ?_]
        · rfl
        · rw [serveHead_goNext head, same]
          exact congrArg (serveLoad p · t) ((congrArg (nextTarget · _) last).trans (nextTarget_some c _))
      · have word : optionalWord bank = some bank.toNat := by
          rw [optionalWord, if_neg]
          rintro rfl
          exact given (if_pos rfl)
        rw [arriveQueued_loads (s := reservePlace slot b) (bank := bank.toNat) (search := .first) queue load (checkNext.2 ok) runs fun t head same => ?_]
        · rfl
        · rw [serveHead_goNext head, same]
          exact congrArg (serveLoad p · t) (by rw [word]; exact congrArg (nextTarget · _) last)
      · have word : optionalWord bank = none := given
        rw [word, arriveQueued_missing (s := reservePlace slot b) queue load runs last]
        rfl
  · exact ⟨submitLoad_taken runs, submitLoad_waits runs⟩

end Sys2Proof.Machine
end

section
/-! SUPPORT. PAUSE and RESUME (R14, R15). -/

namespace Sys2Proof.Machine

/-! ### Two edits of a playback, one after the other -/

/-- Two edits in a row show the mixer the playback as the second left it, and both await landing during a pass (R40, R41). -/
theorem reaches_twice {p : Fin 8} {f g : Nat} {b t u : Block} (h : AnEditReachesTheMixer p f b t) (k : AnEditReachesTheMixer p g t u) :
    (b.mixer.pass = none → u.mixer = { b.mixer with views := setAt b.mixer.views p (playbackOf u p).view })
      ∧ awaitingLanding u = awaitingLanding b + if b.mixer.pass.isSome then f + g else 0 := by
  obtain ⟨-, firstBetween, firstDuring⟩ := h
  obtain ⟨-, thenBetween, thenDuring⟩ := k
  cases pass : b.mixer.pass with
  | none =>
    obtain ⟨first, firstAwaits⟩ := firstBetween pass
    obtain ⟨second, secondAwaits⟩ := thenBetween (by rw [first]; exact pass)
    refine ⟨fun _ => ?_, secondAwaits.trans firstAwaits⟩
    rw [second, first]
    simp [pass]
  | some latch =>
    obtain ⟨first, firstAwaits⟩ := firstDuring (by rw [pass]; rfl)
    obtain ⟨second, secondAwaits⟩ := thenDuring (by rw [first]; simp [pass])
    refine ⟨fun none => by simp at none, ?_⟩
    rw [secondAwaits, firstAwaits, Nat.add_assoc]
    rfl

/-! ### A playback edited, its request completed -/

/-- The part in which playback `p` has become `y` by an edit that frees nothing, and its request from a slot has completed. -/
def editedAndDone (p : Fin 8) (y : Playback) (slot : Fin 32) (v : Word) (s : Block) : Block :=
  complete slot .ok v 0 0 (edit p 0 (setPlayback p y s))

section

variable {p : Fin 8} {y : Playback} {slot : Fin 32} {v : Word} {s : Block}

theorem editedAndDone_playbacks : (editedAndDone p y slot v s).playbacks = setAt s.playbacks p y := by simp [editedAndDone]

@[simp] theorem editedAndDone_playback : playbackOf (editedAndDone p y slot v s) p = y := by simp [editedAndDone]

@[simp] theorem editedAndDone_time : (editedAndDone p y slot v s).time = s.time := by simp [editedAndDone]

@[simp] theorem editedAndDone_engine : (editedAndDone p y slot v s).engine = s.engine := by simp [editedAndDone]

theorem editedAndDone_superseded : (editedAndDone p y slot v s).superseded = s.superseded := by
  unfold editedAndDone
  rw [complete_eq, edit_eq]
  rfl

theorem editedAndDone_results (reserved : s.results.reserved.contains slot = true) (runs : s.engine.state ≠ .halted) :
    (editedAndDone p y slot v s).results.queue = s.results.queue ++ [⟨slot, .ok, v, 0, 0⟩] := by
  unfold editedAndDone
  rw [complete_reserved_queue (by simpa using reserved) (by simpa using runs)]
  simp

theorem editedAndDone_reaches (h : y.held = (playbackOf s p).held) : AnEditReachesTheMixer p 0 s (editedAndDone p y slot v s) := by
  refine reaches_congr (reaches_edited (x := y) (by rw [h, Nat.add_zero])) (fun q => ?_) ?_ ?_
  · rw [editedAndDone, playbackOf_complete]
  · rw [editedAndDone, complete_mixer]
  · rw [editedAndDone, playbackOf_complete]

end

/-! ### The branches of PAUSE and of RESUME -/

/-- What a PAUSE at show time `now` freezes of a playback: the fade state to remember, and the paused value (R14). -/
def Freezes (x : Playback) (now : Time) (st : Remembered) (v : Int) : Prop :=
  x.fade = .fading ∧ st = .fading ∧ v = showDiff now x.timing.start
    ∨ x.fade = .releasing ∧ st = .releasing ∧ v = showDiff now x.timing.start
    ∨ ∃ d, x.fade = .holding ∧ x.follow = some d ∧ st = .holding ∧ v = showDiff d now

/-- A PAUSED playback whose fade goes on from its paused value (R15). -/
def resumedAs (x : Playback) (now : Time) (st : FadeState) : Playback :=
  { x with fade := st, remembered := none, timing := x.timing.resumed now }

/-- A PAUSED playback that holds again, with its paused value left of its follow (R15). -/
def resumedHolding (x : Playback) (now : Time) : Playback :=
  { x with
    fade := .holding, remembered := none, timing := { x.timing with paused := none }
    follow := some (now + BitVec.ofInt 32 (x.timing.paused.getD 0)) }

theorem servePause_freezes {p : Fin 8} {s : Block} {st : Remembered} {v : Int} (h : Freezes (playbackOf s p) s.time.clock st v) :
    servePause p s = finishHead p .ok (BitVec.ofInt 32 v) 0 (edit p 0 (setPlayback p { playbackOf s p with
      fade := .paused, remembered := some st, timing := { (playbackOf s p).timing with paused := some v } } s)) := by
  unfold servePause
  rcases h with ⟨fade, rfl, rfl⟩ | ⟨fade, rfl, rfl⟩ | ⟨d, fade, follow, rfl, rfl⟩
  · simp only [fade]
  · simp only [fade]
  · simp only [fade, follow]

theorem servePause_badState {p : Fin 8} {s : Block} (h : (playbackOf s p).fade = .idle ∨ (playbackOf s p).fade = .paused
      ∨ (playbackOf s p).fade = .holding ∧ (playbackOf s p).follow = none) : servePause p s = finishHead p .badState 0 0 s := by
  unfold servePause
  rcases h with fade | fade | ⟨fade, follow⟩
  · simp only [fade]
  · simp only [fade]
  · simp only [fade, follow]

theorem serveResume_badState {p : Fin 8} {s : Block} (h : (playbackOf s p).fade ≠ .paused) :
    serveResume p s = finishHead p .badState 0 0 s := by
  unfold serveResume
  dsimp only
  split
  · exact absurd ‹_› h
  · exact absurd ‹_› h
  · exact absurd ‹_› h
  · rfl

theorem serveResume_fades {p : Fin 8} {s : Block} {st : FadeState} (paused : (playbackOf s p).fade = .paused)
    (h : (playbackOf s p).remembered = some .fading ∧ st = .fading ∨ (playbackOf s p).remembered = some .releasing ∧ st = .releasing) :
    serveResume p s = fadeEndIfDue p (finishHead p .ok 0 0 (edit p 0
      (setPlayback p (resumedAs (playbackOf s p) s.time.clock st) s))) := by
  unfold serveResume
  rcases h with ⟨remembered, rfl⟩ | ⟨remembered, rfl⟩
  · simp only [paused, remembered]
    rfl
  · simp only [paused, remembered]
    rfl

theorem serveResume_holds {p : Fin 8} {s : Block} (paused : (playbackOf s p).fade = .paused)
    (remembered : (playbackOf s p).remembered = some .holding) :
    serveResume p s = followIfDue p (finishHead p .ok 0 0 (edit p 0
      (setPlayback p (resumedHolding (playbackOf s p) s.time.clock) s))) := by
  unfold serveResume
  simp only [paused, remembered]
  rfl

/-! ### PAUSE and RESUME into an empty queue -/

/-- The part in which a request has just become the head of playback `p`. -/
def headed (p : Fin 8) (slot : Fin 32) (k : QueuedKind) (s : Block) : Block :=
  setPlayback p { playbackOf s p with queue := [⟨.post slot, k⟩] } s

theorem headed_playback (p : Fin 8) (slot : Fin 32) (k : QueuedKind) (s : Block) :
    playbackOf (headed p slot k s) p = { playbackOf s p with queue := [⟨.post slot, k⟩] } := playbackOf_setPlayback ..

/-- A head that completes as its playback becomes `y`. -/
theorem finishHead_headed_edit {p : Fin 8} {slot : Fin 32} {s : Block} (k : QueuedKind) (v : Word) (y : Playback) (h : y.queue = []) :
    finishHead p .ok v 0 (edit p 0 (setPlayback p { y with queue := [⟨.post slot, k⟩] } (headed p slot k s)))
      = editedAndDone p y slot v s := by
  have same : ({ y with queue := [] } : Playback) = y := by rw [← h]
  rw [headed, finishHead_edited p slot k _ _ _ _ _ s rfl]
  exact congrArg (fun z => complete slot .ok v 0 0 (edit p 0 (setPlayback p z s))) same

section

variable {p : Fin 8} {slot : Fin 32} {s : Block} (queue : (playbackOf s p).queue = []) (load : (playbackOf s p).load = .none)

include queue

/-- A head that completes at once leaves its playback as it was. -/
theorem finishHead_headed (k : QueuedKind) (code : ResultCode) (v : Word) :
    finishHead p code v 0 (headed p slot k s) = complete slot code v 0 0 s := by
  have same : ({ playbackOf s p with queue := [] } : Playback) = playbackOf s p := by rw [← queue]
  rw [finishHead_cons (r := ⟨.post slot, k⟩) (rest := []) (by rw [headed_playback]), headed_playback, headed, setPlayback_setPlayback]
  rw [same, setPlayback_same]
  rfl

include load

theorem arriveQueued_pause : arriveQueued p (.post slot) .pause s = serve p (servePause p (headed p slot .pause s)) := by
  rw [arriveQueued_head rfl queue load]
  simp only [serveHead, playbackOf_setPlayback, headed]

theorem arriveQueued_resume : arriveQueued p (.post slot) .resume s = serve p (serveResume p (headed p slot .resume s)) := by
  rw [arriveQueued_head rfl queue load]
  simp only [serveHead, playbackOf_setPlayback, headed]

theorem pause_badState (h : (playbackOf s p).fade = .idle ∨ (playbackOf s p).fade = .paused
      ∨ (playbackOf s p).fade = .holding ∧ (playbackOf s p).follow = none) :
    arriveQueued p (.post slot) .pause s = complete slot .badState 0 0 0 s := by
  rw [arriveQueued_pause queue load, servePause_badState (by rw [headed_playback]; exact h), finishHead_headed queue, serve_stop]
  exact .inr (by simpa using queue)

theorem pause_freezes {st : Remembered} {v : Int} (h : Freezes (playbackOf s p) s.time.clock st v) :
    arriveQueued p (.post slot) .pause s = editedAndDone p { playbackOf s p with
      fade := .paused, remembered := some st, timing := { (playbackOf s p).timing with paused := some v } } slot (BitVec.ofInt 32 v) s := by
  rw [arriveQueued_pause queue load, servePause_freezes (st := st) (v := v) (by rw [headed_playback]; exact h), headed_playback]
  rw [finishHead_headed_edit .pause _ { playbackOf s p with
    fade := .paused, remembered := some st, timing := { (playbackOf s p).timing with paused := some v } } queue, serve_stop]
  exact .inr (by rw [editedAndDone_playback]; exact queue)

theorem resume_badState (h : (playbackOf s p).fade ≠ .paused) :
    arriveQueued p (.post slot) .resume s = complete slot .badState 0 0 0 s := by
  rw [arriveQueued_resume queue load, serveResume_badState (by rw [headed_playback]; exact h), finishHead_headed queue, serve_stop]
  exact .inr (by simpa using queue)

/-- A fade goes on, and a fade end already reached comes (R15, R20). -/
theorem resume_fades {st : FadeState} (paused : (playbackOf s p).fade = .paused)
    (h : (playbackOf s p).remembered = some .fading ∧ st = .fading ∨ (playbackOf s p).remembered = some .releasing ∧ st = .releasing) :
    arriveQueued p (.post slot) .resume s = serve p (fadeEndIfDue p (editedAndDone p
      (resumedAs (playbackOf s p) s.time.clock st) slot 0 s)) := by
  rw [arriveQueued_resume queue load, serveResume_fades (st := st) (by rw [headed_playback]; exact paused) (by rw [headed_playback]; exact h),
    headed_playback]
  exact congrArg (fun t => serve p (fadeEndIfDue p t)) (finishHead_headed_edit .resume 0 (resumedAs (playbackOf s p) s.time.clock st) queue)

/-- A follow goes on, and one already reached expires (R15, R22). -/
theorem resume_holds (paused : (playbackOf s p).fade = .paused) (remembered : (playbackOf s p).remembered = some .holding) :
    arriveQueued p (.post slot) .resume s = serve p (followIfDue p (editedAndDone p
      (resumedHolding (playbackOf s p) s.time.clock) slot 0 s)) := by
  rw [arriveQueued_resume queue load, serveResume_holds (by rw [headed_playback]; exact paused) (by rw [headed_playback]; exact remembered),
    headed_playback]
  exact congrArg (fun t => serve p (followIfDue p t)) (finishHead_headed_edit .resume 0 (resumedHolding (playbackOf s p) s.time.clock) queue)

end

end Sys2Proof.Machine
end

section
/-! SUPPORT. RESUME: what becomes of a fade end or a follow already reached (R15, R20 to R22). -/

namespace Sys2Proof.Machine

theorem fadeEnded_playbacks (p : Fin 8) (x : Playback) (freed : Nat) (b : Block) :
    (fadeEnded p x freed b).playbacks = setAt b.playbacks p x := by simp [fadeEnded]

theorem fadeEnded_results (p : Fin 8) (x : Playback) (freed : Nat) (b : Block) : (fadeEnded p x freed b).results = b.results := by
  rw [fadeEnded_rest]

/-- The timing of a fade that goes on from paused value `v`. -/
theorem resumed_eq {tm : FadeTiming} {v : Int} (h : tm.paused = some v) (now : Time) : tm.resumed now = { tm with
    start := now - BitVec.ofInt 32 v, fadeEnd := tm.fadeEnd + (now - BitVec.ofInt 32 v - tm.start), paused := none } := by
  simp [FadeTiming.resumed, h]

/-- The follow of a playback that holds again with `v` left. -/
theorem resumedHolding_eq {x : Playback} {v : Int} (h : x.timing.paused = some v) (now : Time) : resumedHolding x now = { x with
    fade := .holding, remembered := none, timing := { x.timing with paused := none }, follow := some (now + BitVec.ofInt 32 v) } := by
  simp [resumedHolding, h]

theorem resumedAs_eq {x : Playback} {v : Int} (h : x.timing.paused = some v) (now : Time) (st : FadeState) : resumedAs x now st = { x with
    fade := st, remembered := none
    timing := { x.timing with
      start := now - BitVec.ofInt 32 v, fadeEnd := x.timing.fadeEnd + (now - BitVec.ofInt 32 v - x.timing.start), paused := none } } := by
  rw [resumedAs, resumed_eq h]

/-- A fade timer that a FADING or RELEASING playback has, reached. -/
theorem fadeEndIfDue_of_timer {p : Fin 8} {s : Block} (h : (playbackOf s p).fade = .fading ∨ (playbackOf s p).fade = .releasing) :
    fadeEndIfDue p s = if reached s.time.clock (playbackOf s p).timing.fadeEnd then fadeEnds p s else s := by
  rcases h with fade | fade
  · simp only [fadeEndIfDue, Playback.fadeTimer, fade, timerDue]
  · simp only [fadeEndIfDue, Playback.fadeTimer, fade, timerDue]

section

variable {p : Fin 8} {slot : Fin 32} {s : Block} (queue : (playbackOf s p).queue = []) (load : (playbackOf s p).load = .none)
  (paused : (playbackOf s p).fade = .paused)

include queue load paused

/-- The fade end lies ahead (R15). -/
theorem resume_goesOn {st : FadeState}
    (h : (playbackOf s p).remembered = some .fading ∧ st = .fading ∨ (playbackOf s p).remembered = some .releasing ∧ st = .releasing)
    (ahead : reached s.time.clock (resumedAs (playbackOf s p) s.time.clock st).timing.fadeEnd = false) :
    arriveQueued p (.post slot) .resume s = editedAndDone p (resumedAs (playbackOf s p) s.time.clock st) slot 0 s := by
  rw [resume_fades queue load paused h, fadeEndIfDue_of_timer, editedAndDone_playback, editedAndDone_time, ahead,
    if_neg Bool.false_ne_true, serve_stop]
  · exact .inr (by rw [editedAndDone_playback]; exact queue)
  · rw [editedAndDone_playback]
    exact h.imp And.right And.right

/-- The end of a release has been reached (R15, R20). -/
theorem resume_idles (releasing : (playbackOf s p).remembered = some .releasing)
    (past : reached s.time.clock (resumedAs (playbackOf s p) s.time.clock .releasing).timing.fadeEnd = true) :
    arriveQueued p (.post slot) .resume s
      = fadeEnded p (resumedAs (playbackOf s p) s.time.clock .releasing).toIdle (playbackOf s p).entries.length
          (editedAndDone p (resumedAs (playbackOf s p) s.time.clock .releasing) slot 0 s) := by
  have ends := fadeEnds_of_releasing (p := p) (s := editedAndDone p (resumedAs (playbackOf s p) s.time.clock .releasing) slot 0 s)
    (by rw [editedAndDone_playback]; rfl)
  rw [editedAndDone_playback] at ends
  rw [resume_fades queue load paused (.inr ⟨releasing, rfl⟩), fadeEndIfDue_of_timer, editedAndDone_playback, editedAndDone_time,
    if_pos past, ends]
  · exact serve_stop p _ (.inr (by rw [playbackOf_raiseInt, playbackOf_edit, playbackOf_setPlayback]; exact queue))
  · rw [editedAndDone_playback]
    exact .inr rfl

/-- The end of a crossfade has been reached: the playback holds, and then its follow is looked at (R15, R20, R21). -/
theorem resume_holding (fading : (playbackOf s p).remembered = some .fading)
    (past : reached s.time.clock (resumedAs (playbackOf s p) s.time.clock .fading).timing.fadeEnd = true) :
    arriveQueued p (.post slot) .resume s = serve p (followIfDue p
      (fadeEnded p (resumedAs (playbackOf s p) s.time.clock .fading).toHolding ((playbackOf s p).entries.filter fun e => e.leaving).length
        (editedAndDone p (resumedAs (playbackOf s p) s.time.clock .fading) slot 0 s))) := by
  have ends := fadeEnds_fading (p := p) (b := editedAndDone p (resumedAs (playbackOf s p) s.time.clock .fading) slot 0 s)
    (by rw [editedAndDone_playback]; rfl)
  rw [editedAndDone_playback] at ends
  rw [resume_fades queue load paused (.inl ⟨fading, rfl⟩), fadeEndIfDue_of_timer, editedAndDone_playback, editedAndDone_time,
    if_pos past, ends]
  · rfl
  · rw [editedAndDone_playback]
    exact .inl rfl

end

section

variable {p : Fin 8} {slot : Fin 32} {s : Block} (queue : (playbackOf s p).queue = []) (load : (playbackOf s p).load = .none)
  (paused : (playbackOf s p).fade = .paused)

include queue load paused

/-- The follow that goes on lies ahead (R15). -/
theorem resume_holdsOn {v : Int} (holding : (playbackOf s p).remembered = some .holding) (value : (playbackOf s p).timing.paused = some v)
    (ahead : reached s.time.clock (s.time.clock + BitVec.ofInt 32 v) = false) :
    arriveQueued p (.post slot) .resume s = editedAndDone p (resumedHolding (playbackOf s p) s.time.clock) slot 0 s := by
  have timer : (resumedHolding (playbackOf s p) s.time.clock).followTimer = some (s.time.clock + BitVec.ofInt 32 v) := by
    rw [resumedHolding_eq value]
    rfl
  rw [resume_holds queue load paused holding, followIfDue, editedAndDone_playback, editedAndDone_time, timer, timerDue, ahead,
    if_neg Bool.false_ne_true, serve_stop]
  exact .inr (by rw [editedAndDone_playback]; exact queue)

/-- The follow that goes on has been reached (R15, R22). -/
theorem resume_holding_follows {v : Int} (holding : (playbackOf s p).remembered = some .holding)
    (value : (playbackOf s p).timing.paused = some v) (past : reached s.time.clock (s.time.clock + BitVec.ofInt 32 v) = true) :
    arriveQueued p (.post slot) .resume s
      = serve p (followEnd p (editedAndDone p (resumedHolding (playbackOf s p) s.time.clock) slot 0 s)) := by
  have timer : (resumedHolding (playbackOf s p) s.time.clock).followTimer = some (s.time.clock + BitVec.ofInt 32 v) := by
    rw [resumedHolding_eq value]
    rfl
  rw [resume_holds queue load paused holding, followIfDue, editedAndDone_playback, editedAndDone_time, timer, timerDue, if_pos past]

end

/-- A follow served at once, its playback `x` and the part before it (R12, R22). -/
theorem serve_followEnd_loads {p : Fin 8} {s : Block} {c : LastCue} (queue : (playbackOf s p).queue = [])
    (load : (playbackOf s p).load = .none) (last : (playbackOf s p).lastCue = some c) (runs : s.engine.state ≠ .halted) :
    ∃ bank search, serve p (followEnd p s)
      = submitLoad p bank search (setPlayback p { playbackOf s p with follow := none, queue := [followRequest] } s) := by
  have served := serve_follow_loads (p := p) (c := c)
    (s := setPlayback p { playbackOf s p with follow := none, queue := [followRequest] } s) (by rw [playbackOf_setPlayback]; exact load)
    (by rw [playbackOf_setPlayback]) (by rw [playbackOf_setPlayback]; exact last) runs
  rw [playbackOf_setPlayback, setPlayback_setPlayback] at served
  exact ⟨_, _, by rw [followEnd_empty queue, served]⟩

/-- A follow armed has a last cue (R21). -/
theorem lastCue_of_followArmed {x : Playback} {d : Time} (h : FollowArmed x = some d) : ∃ c, x.lastCue = some c := by
  unfold FollowArmed at h
  split at h
  · rename_i c last
    exact ⟨c, last⟩
  · exact absurd h (by simp)

/-- What a fade end at once after a RESUME leaves to see of the RESUME and of its two edits: PLAYBACK raised, the RESUME completed, and the
entries that the fade end freed (R15, R20, R41). -/
def EndedAfterResume (p : Fin 8) (slot : Fin 32) (freed : Nat) (b u : Block) : Prop :=
  isRaised .playback u = true ∧ u.superseded = b.superseded ∧ u.results.queue = b.results.queue ++ [⟨slot, .ok, 0, 0, 0⟩]
    ∧ (b.mixer.pass = none → u.mixer = { b.mixer with views := setAt b.mixer.views p (playbackOf u p).view })
    ∧ awaitingLanding u = awaitingLanding b + if b.mixer.pass.isSome then freed else 0

theorem resume_ended {p : Fin 8} {slot : Fin 32} {y : Playback} {freed : Nat} {b u : Block} (comes : CanCome slot b)
    (held : y.held = (playbackOf b p).held) (raised : isRaised .playback u = true)
    (superseded : u.superseded = (editedAndDone p y slot 0 (reservePlace slot b)).superseded)
    (results : u.results = (editedAndDone p y slot 0 (reservePlace slot b)).results)
    (reaches : AnEditReachesTheMixer p freed (editedAndDone p y slot 0 (reservePlace slot b)) u) :
    EndedAfterResume p slot freed b u := by
  have runs : (reservePlace slot b).engine.state ≠ .halted := by
    rw [reservePlace_engine, comes.2.1]
    decide
  obtain ⟨mixer, awaits⟩ := reaches_twice (editedAndDone_reaches (s := reservePlace slot b) held) reaches
  rw [Nat.zero_add] at awaits
  refine ⟨raised, superseded.trans editedAndDone_superseded, ?_, mixer, awaits⟩
  rw [results, editedAndDone_results (reserved_reservePlace slot b) runs]
  rfl

section

variable {p : Fin 8} {slot : Fin 32} {b : Block} (comes : CanCome slot b) (queue : (playbackOf b p).queue = [])
  (load : (playbackOf b p).load = .none) (paused : (playbackOf b p).fade = .paused)

include comes queue load paused

/-- A release whose end has been reached is over with its RESUME (R15, R20). -/
theorem resume_releasing_ended (remembered : (playbackOf b p).remembered = some .releasing)
    (past : reached b.time.clock (resumedAs (playbackOf b p) b.time.clock .releasing).timing.fadeEnd = true) :
    EndedAfterResume p slot (playbackOf b p).entries.length b (arriveQueued p (.post slot) .resume (reservePlace slot b))
      ∧ (arriveQueued p (.post slot) .resume (reservePlace slot b)).playbacks
        = setAt b.playbacks p (resumedAs (playbackOf b p) b.time.clock .releasing).toIdle := by
  rw [resume_idles (s := reservePlace slot b) queue load paused remembered past]
  refine ⟨resume_ended comes ?_ (fadeEnded_raised ..) (fadeEnded_superseded ..) (fadeEnded_results ..) (fadeEnded_reaches _ _ _ _ ?_), ?_⟩
  · rfl
  · rw [editedAndDone_playback]
    exact toIdle_held (resumedAs (playbackOf b p) b.time.clock .releasing)
  · rw [fadeEnded_playbacks, editedAndDone_playbacks, setAt_setAt]
    rfl

/-- A crossfade whose end has been reached is over with its RESUME, and a follow it arms that has been reached too is served at once
(R15, R20 to R22). -/
theorem resume_fading_ended {y : Playback} (same : resumedAs (playbackOf b p) b.time.clock .fading = y)
    (remembered : (playbackOf b p).remembered = some .fading) (past : reached b.time.clock y.timing.fadeEnd = true) :
    let t := arriveQueued p (.post slot) .resume (reservePlace slot b)
    EndedAfterResume p slot ((playbackOf b p).entries.filter fun e => e.leaving).length b t
      ∧ ((∀ d, FollowArmed y = some d → reached b.time.clock d = false) → t.playbacks = setAt b.playbacks p y.toHolding)
      ∧ ∀ d, FollowArmed y = some d → reached b.time.clock d = true → (playbackOf t p).load ≠ .none
        ∧ playbackOf t p = { y.toHolding with follow := none, queue := [followRequest], load := (playbackOf t p).load } := by
  have runs : b.engine.state ≠ .halted := by
    rw [comes.2.1]
    decide
  have held : y.held = (playbackOf b p).held := same ▸ rfl
  have empty : y.queue = [] := same ▸ queue
  have noLoad : y.load = .none := same ▸ load
  have arrived := resume_holding (slot := slot) (s := reservePlace slot b) queue load paused remembered (by rw [← same] at past; exact past)
  have here : resumedAs (playbackOf (reservePlace slot b) p) (reservePlace slot b).time.clock .fading = y := same
  rw [here, followIfDue_fadeEnded, editedAndDone_time, reservePlace_time] at arrived
  have reaches := fadeEnded_reaches p y.toHolding (y.entries.filter fun e => e.leaving).length
    (editedAndDone p y slot 0 (reservePlace slot b)) (by rw [editedAndDone_playback]; exact toHolding_held y)
  have freed : ((playbackOf b p).entries.filter fun e => e.leaving).length = (y.entries.filter fun e => e.leaving).length := same ▸ rfl
  rw [playbackOf_reservePlace, freed] at arrived
  rw [freed]
  cases due : timerDue b.time.clock (FollowArmed y) with
  | false =>
    rw [due, if_neg Bool.false_ne_true, serve_stop p _ (.inr (by rw [fadeEnded_playback]; exact empty))] at arrived
    rw [arrived]
    refine ⟨resume_ended comes held (fadeEnded_raised ..) (fadeEnded_superseded ..) (fadeEnded_results ..) reaches, fun _ => ?_,
      fun d armed follow => ?_⟩
    · rw [fadeEnded_playbacks, editedAndDone_playbacks, setAt_setAt]
      rfl
    · rw [armed, timerDue, follow] at due
      exact absurd due (by decide)
  | true =>
    obtain ⟨c, last⟩ : ∃ c, y.lastCue = some c := by
      cases armed : FollowArmed y with
      | none => simp [armed, timerDue] at due
      | some d => exact lastCue_of_followArmed armed
    obtain ⟨bank, search, served⟩ := serve_followEnd_loads (p := p) (c := c)
      (s := fadeEnded p y.toHolding (y.entries.filter fun e => e.leaving).length (editedAndDone p y slot 0 (reservePlace slot b)))
      (by rw [fadeEnded_playback]; exact empty) (by rw [fadeEnded_playback]; exact noLoad) (by rw [fadeEnded_playback]; exact last)
      (by rw [fadeEnded_engine, editedAndDone_engine]; exact runs)
    rw [due, if_pos rfl, served, fadeEnded_playback] at arrived
    obtain ⟨l, after⟩ := submitLoad_playback p bank search (setPlayback p { y.toHolding with follow := none, queue := [followRequest] }
      (fadeEnded p y.toHolding (y.entries.filter fun e => e.leaving).length (editedAndDone p y slot 0 (reservePlace slot b)))) p
    rw [playbackOf_setPlayback] at after
    rw [arrived]
    refine ⟨resume_ended comes held ?_ ?_ ?_ ?_, fun later => ?_, fun d armed follow => ⟨submitLoad_load p _ _ _, ?_⟩⟩
    · rw [isRaised, submitLoad_rest]
      exact fadeEnded_raised ..
    · rw [submitLoad_rest]
      exact fadeEnded_superseded ..
    · rw [submitLoad_rest]
      exact fadeEnded_results ..
    · exact reaches_submitLoad (reaches_setPlayback reaches (by rw [fadeEnded_playback]; rfl) (by rw [fadeEnded_playback]; rfl))
    · cases armed : FollowArmed y with
      | none => simp [armed, timerDue] at due
      | some d =>
        rw [armed, timerDue, later d armed] at due
        exact absurd due (by decide)
    · rw [after]

/-- A follow that has been reached is served with its RESUME (R15, R22). -/
theorem resume_holding_served {v : Int} {c : LastCue} (remembered : (playbackOf b p).remembered = some .holding)
    (value : (playbackOf b p).timing.paused = some v) (past : reached b.time.clock (b.time.clock + BitVec.ofInt 32 v) = true)
    (last : (playbackOf b p).lastCue = some c) :
    let t := arriveQueued p (.post slot) .resume (reservePlace slot b)
    (playbackOf t p).load ≠ .none ∧ t.results.queue = b.results.queue ++ [⟨slot, .ok, 0, 0, 0⟩]
      ∧ ∃ l, playbackOf t p
        = { resumedHolding (playbackOf b p) b.time.clock with follow := none, queue := [followRequest], load := l } := by
  have runs : b.engine.state ≠ .halted := by
    rw [comes.2.1]
    decide
  obtain ⟨bank, search, served⟩ := serve_followEnd_loads (p := p) (c := c)
    (s := editedAndDone p (resumedHolding (playbackOf b p) b.time.clock) slot 0 (reservePlace slot b))
    (by rw [editedAndDone_playback]; exact queue) (by rw [editedAndDone_playback]; exact load) (by rw [editedAndDone_playback]; exact last)
    (by rw [editedAndDone_engine]; exact runs)
  rw [editedAndDone_playback] at served
  obtain ⟨l, after⟩ := submitLoad_playback p bank search (setPlayback p
    { resumedHolding (playbackOf b p) b.time.clock with follow := none, queue := [followRequest] }
    (editedAndDone p (resumedHolding (playbackOf b p) b.time.clock) slot 0 (reservePlace slot b))) p
  rw [playbackOf_setPlayback] at after
  have arrived : arriveQueued p (.post slot) .resume (reservePlace slot b) = _ :=
    (resume_holding_follows (s := reservePlace slot b) queue load paused remembered value past).trans served
  rw [arrived]
  refine ⟨submitLoad_load p _ _ _, ?_, l, after⟩
  rw [submitLoad_rest, setPlayback_results]
  exact editedAndDone_results (reserved_reservePlace slot b) runs

end

end Sys2Proof.Machine
end

section
/-! SUPPORT. O40. -/

namespace Sys2Proof.Machine

section

variable {slot : Fin 32} {playback : Word} {b : Block} (comes : CanCome slot b) {p : Fin 8} (target : playback.toNat = p.val)

include comes target

theorem exec_pause (q : List Instr) :
    exec (.pause slot playback) ⟨b, q⟩ = .next ⟨arriveQueued p (.post slot) .pause (reservePlace slot b), q⟩ := by
  refine (request_next comes (dispatchPause slot playback) q).trans ?_
  rw [dispatchPause, withTarget_ok _ _ _ _ p target]

theorem exec_resume (q : List Instr) :
    exec (.resume slot playback) ⟨b, q⟩ = .next ⟨arriveQueued p (.post slot) .resume (reservePlace slot b), q⟩ := by
  refine (request_next comes (dispatchResume slot playback) q).trans ?_
  rw [dispatchResume, withTarget_ok _ _ _ _ p target]

end

/-- Settles O40: PAUSE by what it freezes, RESUME by what it resumes and whether that has been reached. -/
theorem pauseAndResumeFreezeAndContinue : Obligations.PauseAndResumeFreezeAndContinue := by
  unfold Obligations.PauseAndResumeFreezeAndContinue
  intro slot playback b q comes
  have runs : b.engine.state ≠ .halted := by
    rw [comes.2.1]
    decide
  dsimp only
  refine ⟨fun above => ⟨?_, ?_⟩, fun p target => ?_⟩
  · refine (request_next comes (dispatchPause slot playback) q).trans ?_
    rw [dispatchPause, withTarget_bad _ _ _ _ above]
  · refine (request_next comes (dispatchResume slot playback) q).trans ?_
    rw [dispatchResume, withTarget_bad _ _ _ _ above]
  rw [exec_pause comes target, exec_resume comes target]
  refine ⟨fun full => ⟨?_, ?_⟩, fun room load => ⟨?_, ?_⟩,
    fun queue load => ⟨fun fade => ?_, fun fade => ?_, fun d fade follow => ?_, fun fade => ?_⟩,
    fun queue load => ⟨fun fade => ?_, fun v paused value => ⟨fun remembered ahead => ?_, fun remembered ahead => ?_,
      fun remembered ahead => ?_, fun remembered past => ?_, fun remembered past => ?_, fun cue remembered past last => ?_⟩⟩⟩
  · rw [arriveQueued_full (s := reservePlace slot b) rfl full]
  · rw [arriveQueued_full (s := reservePlace slot b) rfl full]
  · rw [arriveQueued_waits (s := reservePlace slot b) rfl room load]
    rfl
  · rw [arriveQueued_waits (s := reservePlace slot b) rfl room load]
    rfl
  · rw [pause_freezes (s := reservePlace slot b) queue load (.inl ⟨fade, rfl, rfl⟩)]
    rfl
  · rw [pause_freezes (s := reservePlace slot b) queue load (.inr (.inl ⟨fade, rfl, rfl⟩))]
    rfl
  · rw [pause_freezes (s := reservePlace slot b) queue load (.inr (.inr ⟨d, fade, follow, rfl, rfl⟩))]
    rfl
  · rw [pause_badState (s := reservePlace slot b) queue load fade]
  · rw [resume_badState (s := reservePlace slot b) queue load fade]
  · rw [resume_goesOn (s := reservePlace slot b) queue load paused (.inl ⟨remembered, rfl⟩) ?_]
    · exact congrArg (fun y => Host.Outcome.next (⟨editedAndDone p y slot 0 (reservePlace slot b), q⟩ : State)) (resumedAs_eq value ..)
    · exact (congrArg (fun y : Playback => reached b.time.clock y.timing.fadeEnd) (resumedAs_eq value ..)).trans ahead
  · rw [resume_goesOn (s := reservePlace slot b) queue load paused (.inr ⟨remembered, rfl⟩) ?_]
    · exact congrArg (fun y => Host.Outcome.next (⟨editedAndDone p y slot 0 (reservePlace slot b), q⟩ : State)) (resumedAs_eq value ..)
    · exact (congrArg (fun y : Playback => reached b.time.clock y.timing.fadeEnd) (resumedAs_eq value ..)).trans ahead
  · rw [resume_holdsOn (s := reservePlace slot b) queue load paused remembered value ahead]
    exact congrArg (fun y => Host.Outcome.next (⟨editedAndDone p y slot 0 (reservePlace slot b), q⟩ : State)) (resumedHolding_eq value ..)
  · obtain ⟨ended, idle⟩ := resume_releasing_ended comes queue load paused remembered (by rw [resumedAs_eq value]; exact past)
    exact ⟨_, rfl, ended, idle⟩
  · obtain ⟨ended, holds, follows⟩ := resume_fading_ended comes queue load paused (resumedAs_eq value ..) remembered past
    exact ⟨_, rfl, ended, holds, follows⟩
  · obtain ⟨loads, results, l, after⟩ := resume_holding_served comes queue load paused remembered value past last
    exact ⟨_, rfl, by rw [after]; rfl, by rw [after]; rfl, by rw [after]; rfl, by rw [after], by rw [after]; rfl, loads, results⟩

end Sys2Proof.Machine
end

section
/-! SUPPORT. Requests that end one after another: the completions they leave in the result queue, and the places they give up (R175). -/

namespace Sys2Proof.Machine

/-- The completions that requests ending in a row leave, `reserved` being the slots with a reserved place: each slot and its code, with
result values 0. -/
def completions (reserved : List (Fin 32)) : List (Fin 32 × ResultCode) → List Completion
  | [] => []
  | x :: rest => (if reserved.contains x.1 then [⟨x.1, x.2, 0, 0, 0⟩] else []) ++ completions (reserved.erase x.1) rest

theorem completions_append (reserved : List (Fin 32)) (xs ys : List (Fin 32 × ResultCode)) :
    completions reserved (xs ++ ys) = completions reserved xs ++ completions (reserved.diff (xs.map Prod.fst)) ys := by
  induction xs generalizing reserved with
  | nil => rfl
  | cons x rest ih => simp only [List.cons_append, completions, ih, List.map_cons, List.diff_cons, List.append_assoc]

/-- Only requests that end leave a completion, with their code and no values. -/
theorem of_mem_completions {reserved : List (Fin 32)} {xs : List (Fin 32 × ResultCode)} {c : Completion} (h : c ∈ completions reserved xs) :
    (c.slot, c.code) ∈ xs ∧ c.v1 = 0 ∧ c.v2 = 0 ∧ c.v3 = 0 := by
  induction xs generalizing reserved with
  | nil => simp [completions] at h
  | cons x rest ih =>
    rw [completions, List.mem_append] at h
    rcases h with h | h
    · split at h
      · rw [List.mem_singleton] at h
        subst h
        exact ⟨List.mem_cons_self, rfl, rfl, rfl⟩
      · simp at h
    · obtain ⟨mem, values⟩ := ih h
      exact ⟨List.mem_cons_of_mem _ mem, values⟩

/-- A request that ends and has its place leaves a completion. -/
theorem completions_covers {reserved : List (Fin 32)} {xs : List (Fin 32 × ResultCode)} {x : Fin 32 × ResultCode} (h : x ∈ xs)
    (mem : x.1 ∈ reserved) : ∃ c ∈ completions reserved xs, c.slot = x.1 := by
  induction xs generalizing reserved with
  | nil => simp at h
  | cons y rest ih =>
    rw [completions]
    by_cases same : x.1 = y.1
    · refine ⟨⟨y.1, y.2, 0, 0, 0⟩, List.mem_append_left _ ?_, same.symm⟩
      rw [if_pos (List.contains_iff_mem.2 (same ▸ mem))]
      exact List.mem_singleton_self _
    · have rest : x ∈ rest := (List.mem_cons.1 h).resolve_left fun e => same (congrArg Prod.fst e)
      obtain ⟨c, hc, slot⟩ := ih rest ((List.mem_erase_of_ne same).2 mem)
      exact ⟨c, List.mem_append_right _ hc, slot⟩

/-- Requests of different slots, all with their places, leave all their completions. -/
theorem completions_of_nodup {reserved : List (Fin 32)} {xs : List (Fin 32 × ResultCode)} (nodup : (xs.map Prod.fst).Nodup)
    (mem : ∀ x ∈ xs, x.1 ∈ reserved) : completions reserved xs = xs.map fun x => ⟨x.1, x.2, 0, 0, 0⟩ := by
  induction xs generalizing reserved with
  | nil => rfl
  | cons x rest ih =>
    rw [List.map_cons, List.nodup_cons] at nodup
    have others : ∀ y ∈ rest, y.1 ∈ reserved.erase x.1 := fun y hy =>
      (List.mem_erase_of_ne fun e => nodup.1 (List.mem_map.2 ⟨y, hy, e⟩)).2 (mem y (List.mem_cons_of_mem _ hy))
    rw [completions, if_pos (List.contains_iff_mem.2 (mem x List.mem_cons_self)), ih nodup.2 others]
    rfl

/-- From `s` to `t`, neither of them HALTED, the requests `xs` end. -/
structure Completes (xs : List (Fin 32 × ResultCode)) (s t : Block) : Prop where
  queue : t.results.queue = s.results.queue ++ completions s.results.reserved xs
  reserved : t.results.reserved = s.results.reserved.diff (xs.map Prod.fst)
  engine : t.engine = s.engine

namespace Completes

theorem of_same {s t : Block} (results : t.results = s.results) (engine : t.engine = s.engine) : Completes [] s t :=
  ⟨by rw [results, completions, List.append_nil], by rw [results]; rfl, engine⟩

theorem trans {xs ys : List (Fin 32 × ResultCode)} {s t u : Block} (h : Completes xs s t) (k : Completes ys t u) :
    Completes (xs ++ ys) s u := by
  refine ⟨?_, ?_, k.engine.trans h.engine⟩
  · rw [k.queue, h.queue, h.reserved, completions_append, List.append_assoc]
  · rw [k.reserved, h.reserved, List.map_append, List.diff_append]

/-- What leaves the results and the engine before or after. -/
theorem of_results {xs : List (Fin 32 × ResultCode)} {s t u : Block} (h : Completes xs s t) (results : u.results = t.results)
    (engine : u.engine = t.engine) : Completes xs s u :=
  ⟨by rw [results, h.queue], by rw [results, h.reserved], engine.trans h.engine⟩

theorem complete {i : Fin 32} {code : ResultCode} {s : Block} (runs : s.engine.state ≠ .halted) :
    Completes [(i, code)] s (complete i code 0 0 0 s) := by
  refine ⟨?_, ?_, complete_engine ..⟩
  · rw [complete_results]
    simp only [completions, List.append_nil, if_neg runs]
    split <;> simp
  · rw [complete_results]
    simp only [List.map_cons, List.map_nil, List.diff_cons, List.diff_nil, if_neg runs]
    split
    · rfl
    · rename_i absent
      rw [List.erase_of_not_mem]
      simpa using absent

theorem foldl {α : Type} {f : Block → α → Block} {g : α → List (Fin 32 × ResultCode)}
    (h : ∀ t x, t.engine.state ≠ .halted → Completes (g x) t (f t x)) (xs : List α) {s : Block} (runs : s.engine.state ≠ .halted) :
    Completes (xs.flatMap g) s (xs.foldl f s) := by
  induction xs generalizing s with
  | nil => exact of_same rfl rfl
  | cons x rest ih =>
    have first := h s x runs
    rw [List.flatMap_cons]
    exact first.trans (ih (by rw [first.engine]; exact runs))

end Completes

/-- The post slots of a list of requests, whatever way their origins are read. -/
theorem filterMap_slots {f : QueuedRequest → Option (Fin 32)}
    (h : ∀ k, (∀ i, f ⟨.post i, k⟩ = some i) ∧ (∀ t, f ⟨.trigger t, k⟩ = none) ∧ f ⟨.follow, k⟩ = none) (rs : List QueuedRequest) :
    rs.filterMap f = postSlots rs := by
  refine List.filterMap_congr fun y _ => ?_
  obtain ⟨origin, kind⟩ := y
  obtain ⟨post, trigger, follow⟩ := h kind
  cases origin with
  | post i => exact post i
  | trigger t => exact trigger t
  | follow => exact follow

/-- The requests of a list that came from post slots, each with the code it ends with. -/
def endsWith (code : ResultCode) (rs : List QueuedRequest) : List (Fin 32 × ResultCode) := (postSlots rs).map fun i => (i, code)

theorem endsWith_cons (code : ResultCode) (r : QueuedRequest) (rest : List QueuedRequest) :
    endsWith code (r :: rest) = endsWith code [r] ++ endsWith code rest := by
  simp only [endsWith, postSlots, List.filterMap_cons, List.filterMap_nil]
  split <;> simp

theorem Completes.completeOrigin {r : QueuedRequest} {code : ResultCode} {s : Block} (runs : s.engine.state ≠ .halted) :
    Completes (endsWith code [r]) s (completeOrigin r.origin code 0 0 s) := by
  cases origin : r.origin with
  | post i =>
    have one : endsWith code [r] = [(i, code)] := by simp [endsWith, postSlots, origin]
    rw [one]
    exact complete runs
  | trigger t =>
    have none : endsWith code [r] = [] := by simp [endsWith, postSlots, origin]
    rw [none]
    exact of_same rfl rfl
  | follow =>
    have none : endsWith code [r] = [] := by simp [endsWith, postSlots, origin]
    rw [none]
    exact of_same rfl rfl

theorem Completes.cancelRequests (rs : List QueuedRequest) {s : Block} (runs : s.engine.state ≠ .halted) :
    Completes (endsWith .cancelled rs) s (cancelRequests rs s) := by
  unfold Machine.cancelRequests
  induction rs generalizing s with
  | nil => exact of_same rfl rfl
  | cons r rest ih =>
    have first := Completes.completeOrigin (r := r) (code := .cancelled) runs
    rw [endsWith_cons]
    exact first.trans (ih (by rw [first.engine]; exact runs))

end Sys2Proof.Machine
end

section
/-! SUPPORT. Steps 1 and 2 of R16 and of R24: what is left of a playback's queue and of its load. -/

namespace Sys2Proof.Machine

/-- The requests of a playback that end, each with its code (R16, R24). -/
def leftOffEnds (x : Playback) : List (Fin 32 × ResultCode) :=
  endsWith .cancelled (waitingRequests x) ++ endsWith .abandoned (if x.load = .waiting then x.queue.take 1 else [])

/-- The playback with no load that waits, and no request but the one whose load is being read (R16, R24). -/
def leftOff (x : Playback) : Playback :=
  { x with queue := if x.load = .reading then x.queue.take 1 else [], load := if x.load = .reading then .reading else .none }

/-- The current job, marked when it is playback `p`'s (R59). -/
def marked (p : Fin 8) (c : CurrentLoad) : CurrentLoad := if c.job.playback = p then { c with abandon := true } else c

/-- The loader after playback `p`, with a load state, has left off. -/
def leftLoader (p : Fin 8) (load : LoadState) (l : Loader) : Loader :=
  { l with
    queue := if load = .waiting then l.queue.filter fun j => j.playback != p else l.queue
    current := if load = .reading then l.current.map (marked p) else l.current }

theorem markAbandoned_eq (p : Fin 8) (s : Block) :
    markAbandoned p s = { s with loader := { s.loader with current := s.loader.current.map (marked p) } } := by
  unfold markAbandoned
  cases current : s.loader.current with
  | none =>
    dsimp only [Option.map]
    rw [← current]
  | some c =>
    dsimp only [Option.map, marked]
    split
    · rfl
    · rw [← current]

/-- What steps 1 and 2 leave of the part. -/
structure LeavesOff (p : Fin 8) (s t : Block) : Prop where
  playbacks : t.playbacks = setAt s.playbacks p (leftOff (playbackOf s p))
  loader : t.loader = leftLoader p (playbackOf s p).load s.loader
  ends : s.engine.state ≠ .halted → Completes (leftOffEnds (playbackOf s p)) s t
  rest : t = { s with playbacks := t.playbacks, loader := t.loader, results := t.results, port := t.port }

/-- The part after step 1: the waiting requests cancelled, the request in service left. -/
def cancelledWaiting (p : Fin 8) (s : Block) : Block :=
  cancelRequests (waitingRequests (playbackOf s p)) (setPlayback p { playbackOf s p with queue := inService (playbackOf s p) } s)

theorem cancelledWaiting_rest (p : Fin 8) (s : Block) : cancelledWaiting p s = { s with
    playbacks := setAt s.playbacks p { playbackOf s p with queue := inService (playbackOf s p) }
    results := (cancelledWaiting p s).results, port := (cancelledWaiting p s).port } :=
  (Posts.cancelRequests (waitingRequests (playbackOf s p)) (setPlayback p { playbackOf s p with queue := inService (playbackOf s p) } s)).rest

theorem cancelledWaiting_playback (p : Fin 8) (s : Block) :
    playbackOf (cancelledWaiting p s) p = { playbackOf s p with queue := inService (playbackOf s p) } := by
  rw [cancelledWaiting_rest, playbackOf, getAt_setAt]

theorem cancelledWaiting_completes (p : Fin 8) {s : Block} (runs : s.engine.state ≠ .halted) :
    Completes (endsWith .cancelled (waitingRequests (playbackOf s p))) s (cancelledWaiting p s) := by
  have cancelled := Completes.cancelRequests (waitingRequests (playbackOf s p))
    (s := setPlayback p { playbackOf s p with queue := inService (playbackOf s p) } s) runs
  exact ⟨cancelled.queue, cancelled.reserved, cancelled.engine⟩

theorem leavesOff_none {p : Fin 8} {s : Block} (load : (playbackOf s p).load = .none) : LeavesOff p s (cancelledWaiting p s) := by
  have left : leftOff (playbackOf s p) = { playbackOf s p with queue := inService (playbackOf s p) } := by
    simp [leftOff, inService, load]
  refine ⟨?_, ?_, fun runs => ?_, ?_⟩
  · rw [cancelledWaiting_rest, left]
  · rw [cancelledWaiting_rest, leftLoader, load]
    rfl
  · have ends : leftOffEnds (playbackOf s p) = endsWith .cancelled (waitingRequests (playbackOf s p)) := by
      simp [leftOffEnds, load, endsWith, postSlots]
    rw [ends]
    exact cancelledWaiting_completes p runs
  · conv_lhs => rw [cancelledWaiting_rest]
    rw [cancelledWaiting_rest]

theorem leavesOff_reading {p : Fin 8} {s : Block} (load : (playbackOf s p).load = .reading) :
    LeavesOff p s (markAbandoned p (cancelledWaiting p s)) := by
  have left : leftOff (playbackOf s p) = { playbackOf s p with queue := inService (playbackOf s p) } := by
    simp [leftOff, inService, load]
  rw [markAbandoned_eq]
  refine ⟨?_, ?_, fun runs => ?_, ?_⟩
  · rw [cancelledWaiting_rest, left]
  · rw [cancelledWaiting_rest, leftLoader, load]
    rfl
  · have ends : leftOffEnds (playbackOf s p) = endsWith .cancelled (waitingRequests (playbackOf s p)) := by
      simp [leftOffEnds, load, endsWith, postSlots]
    rw [ends]
    exact (cancelledWaiting_completes p runs).of_results rfl rfl
  · rw [cancelledWaiting_rest]

/-- The part after step 2 for a load that waits, but for its request: the job has left the loader queue. -/
def jobWithdrawn (p : Fin 8) (s : Block) : Block :=
  modPlayback p (fun x => { x with load := .none })
    { s with loader := { s.loader with queue := s.loader.queue.filter fun j => j.playback != p } }

theorem leavesOff_waiting {p : Fin 8} {s : Block} (load : (playbackOf s p).load = .waiting) :
    LeavesOff p s (finishHead p .abandoned 0 0 (jobWithdrawn p (cancelledWaiting p s))) := by
  have playbacks : (jobWithdrawn p (cancelledWaiting p s)).playbacks
      = setAt s.playbacks p { playbackOf s p with queue := (playbackOf s p).queue.take 1, load := .none } := by
    rw [jobWithdrawn, modPlayback_playbacks, cancelledWaiting_rest]
    simp [modAt_eq, inService, load]
  have queue : (playbackOf (jobWithdrawn p (cancelledWaiting p s)) p).queue = (playbackOf s p).queue.take 1 := by
    rw [playbackOf, playbacks, getAt_setAt]
  have left : leftOff (playbackOf s p) = { playbackOf s p with queue := [], load := .none } := by simp [leftOff, load]
  have loader : (jobWithdrawn p (cancelledWaiting p s)).loader = leftLoader p (playbackOf s p).load s.loader := by
    rw [jobWithdrawn, modPlayback_loader, cancelledWaiting_rest, leftLoader, load]
    rfl
  have rest : jobWithdrawn p (cancelledWaiting p s) = { s with
      playbacks := (jobWithdrawn p (cancelledWaiting p s)).playbacks, loader := (jobWithdrawn p (cancelledWaiting p s)).loader
      results := (jobWithdrawn p (cancelledWaiting p s)).results, port := (jobWithdrawn p (cancelledWaiting p s)).port } := by
    rw [cancelledWaiting_rest]
    rfl
  have ends : leftOffEnds (playbackOf s p)
      = endsWith .cancelled (waitingRequests (playbackOf s p)) ++ endsWith .abandoned ((playbackOf s p).queue.take 1) := by
    simp [leftOffEnds, load]
  have completes : s.engine.state ≠ .halted →
      Completes (endsWith .cancelled (waitingRequests (playbackOf s p))) s (jobWithdrawn p (cancelledWaiting p s)) := fun runs =>
    (cancelledWaiting_completes p runs).of_results rfl rfl
  generalize jobWithdrawn p (cancelledWaiting p s) = t at playbacks queue loader rest completes
  cases requests : (playbackOf s p).queue with
  | nil =>
    rw [requests] at queue ends
    have stays : finishHead p .abandoned 0 0 t = t := by simp only [finishHead, queue, List.take_nil]
    rw [stays]
    refine ⟨by rw [playbacks, left, requests]; rfl, loader, fun runs => ?_, rest⟩
    rw [ends]
    exact (List.append_nil _).symm ▸ completes runs
  | cons r others =>
    rw [requests] at queue ends
    rw [finishHead_cons (r := r) (rest := []) queue]
    have setBack : ∀ u : Block, u = setPlayback p { playbackOf t p with queue := [] } t →
        u.playbacks = setAt s.playbacks p (leftOff (playbackOf s p)) := by
      rintro u rfl
      rw [setPlayback_playbacks, playbackOf, playbacks, getAt_setAt, setAt_setAt, left]
    refine ⟨by rw [completeOrigin_playbacks]; exact setBack _ rfl, by rw [completeOrigin_loader]; exact loader, fun runs => ?_, ?_⟩
    · rw [ends]
      have first := completes runs
      have last := Completes.completeOrigin (r := r) (code := .abandoned) (s := setPlayback p { playbackOf t p with queue := [] } t)
        (by rw [setPlayback_engine, first.engine]; exact runs)
      exact first.trans ⟨last.queue, last.reserved, last.engine⟩
    · have posts := (Posts.completeOrigin r.origin .abandoned 0 0 (setPlayback p { playbackOf t p with queue := [] } t)).rest
      rw [posts, rest]
      rfl

/-- Steps 1 and 2 by the load state. -/
theorem leavesOff (p : Fin 8) (s : Block) : LeavesOff p s (cancelAndAbandon p s) := by
  have steps : cancelAndAbandon p s = abandonLoad p (cancelledWaiting p s) := rfl
  have same : (playbackOf (cancelledWaiting p s) p).load = (playbackOf s p).load := by rw [cancelledWaiting_playback]
  rw [steps]
  unfold abandonLoad
  split
  · exact leavesOff_none (same ▸ ‹_›)
  · exact leavesOff_waiting (same ▸ ‹_›)
  · exact leavesOff_reading (same ▸ ‹_›)

end Sys2Proof.Machine
end

section
/-! SUPPORT. RELEASE (R16, R17, R36). -/

namespace Sys2Proof.Machine

/-! ### Steps 1 to 3 -/

/-- The part after the first steps of a RELEASE: the requests that wait and the load that waits have ended, and the follow is disarmed. -/
def releaseCleared (p : Fin 8) (s : Block) : Block := modPlayback p (fun x => { x with follow := none }) (cancelAndAbandon p s)

theorem releaseCleared_playbacks (p : Fin 8) (s : Block) :
    (releaseCleared p s).playbacks = setAt s.playbacks p { leftOff (playbackOf s p) with follow := none } := by
  rw [releaseCleared, modPlayback_playbacks, (leavesOff p s).playbacks]
  simp [modAt_eq]

theorem releaseCleared_playback (p : Fin 8) (s : Block) :
    playbackOf (releaseCleared p s) p = { leftOff (playbackOf s p) with follow := none } := by
  rw [playbackOf, releaseCleared_playbacks, getAt_setAt]

theorem releaseCleared_loader (p : Fin 8) (s : Block) :
    (releaseCleared p s).loader = leftLoader p (playbackOf s p).load s.loader := (leavesOff p s).loader

theorem releaseCleared_completes (p : Fin 8) {s : Block} (runs : s.engine.state ≠ .halted) :
    Completes (leftOffEnds (playbackOf s p)) s (releaseCleared p s) := ((leavesOff p s).ends runs).of_results rfl rfl

theorem releaseCleared_rest (p : Fin 8) (s : Block) : releaseCleared p s = { s with
    playbacks := (releaseCleared p s).playbacks, loader := (releaseCleared p s).loader
    results := (releaseCleared p s).results, port := (releaseCleared p s).port } := by
  unfold releaseCleared
  conv_lhs => rw [(leavesOff p s).rest]
  rfl

/-- With an empty queue and no load they leave the part as it was, but for the follow. -/
theorem releaseCleared_empty {p : Fin 8} {s : Block} (queue : (playbackOf s p).queue = []) (load : (playbackOf s p).load = .none) :
    releaseCleared p s = setPlayback p { playbackOf s p with follow := none } s := by
  have same : ({ playbackOf s p with queue := [] } : Playback) = playbackOf s p := by rw [← queue]
  have waits : waitingRequests (playbackOf s p) = [] := by rw [waitingRequests, if_pos load, queue]
  have serves : inService (playbackOf s p) = [] := if_pos load
  have nothing : cancelledWaiting p s = s := by
    rw [cancelledWaiting, waits, serves, same, setPlayback_same]
    rfl
  have stays : cancelAndAbandon p s = s := by
    rw [show cancelAndAbandon p s = abandonLoad p (cancelledWaiting p s) from rfl, nothing]
    simp only [abandonLoad, load]
  rw [releaseCleared, stays]
  rfl

/-! ### The release build -/

/-- The playback that a release build leaves (R17, R36). -/
def released (x : Playback) (now : Time) (down : Nat) : Playback :=
  { x with
    fade := .releasing, remembered := none, entries := releaseSet x.timing now x.entries
    timing := releaseTiming x.timing now down x.entries, follow := none }

theorem releaseBuild_eq (p : Fin 8) (time : Option Nat) (s : Block) :
    releaseBuild p time s = edit p 0 (setPlayback p (released (playbackOf s p) s.time.clock (releaseTime (playbackOf s p) time)) s) := rfl

theorem released_held (x : Playback) (now : Time) (down : Nat) : (released x now down).held = x.held := by
  simp only [Playback.held, released, releaseSet_length]

theorem released_fadeEnd (x : Playback) (now : Time) (down : Nat) :
    (released x now down).timing.fadeEnd = if x.entries = [] then now else now + BitVec.ofNat 32 down := by
  simp only [released, releaseTiming, List.isEmpty_iff]

/-- A release whose end is reached at once is over (R17, R20). -/
theorem fadeEndIfDue_releaseBuild (p : Fin 8) (time : Option Nat) (s : Block) :
    fadeEndIfDue p (releaseBuild p time s)
      = if reached s.time.clock (released (playbackOf s p) s.time.clock (releaseTime (playbackOf s p) time)).timing.fadeEnd then
          fadeEnded p (released (playbackOf s p) s.time.clock (releaseTime (playbackOf s p) time)).toIdle (playbackOf s p).entries.length
            (releaseBuild p time s)
        else releaseBuild p time s := by
  have built : playbackOf (releaseBuild p time s) p = released (playbackOf s p) s.time.clock (releaseTime (playbackOf s p) time) := by
    rw [releaseBuild_eq, playbackOf_edit, playbackOf_setPlayback]
  have length : (released (playbackOf s p) s.time.clock (releaseTime (playbackOf s p) time)).entries.length
      = (playbackOf s p).entries.length := releaseSet_length ..
  have ends := fadeEnds_of_releasing (p := p) (s := releaseBuild p time s) (by rw [built]; rfl)
  have clock : (releaseBuild p time s).time = s.time := by rw [releaseBuild_eq, edited_rest]
  rw [fadeEndIfDue_of_timer (.inr (by rw [built]; rfl)), ends, built, length, clock]
  rfl

/-- What a release build and a fade end at once leave, seen at the playback and apart from it. -/
structure ReleasedTo (p : Fin 8) (s u : Block) : Prop where
  playback : ∃ y, u.playbacks = setAt s.playbacks p y ∧ (y.fade = .releasing ∨ y.fade = .idle) ∧ y.follow = none
    ∧ y.queue = (playbackOf s p).queue ∧ y.load = (playbackOf s p).load ∧ y.lastCue = (playbackOf s p).lastCue
    ∧ y.master = (playbackOf s p).master
  results : u.results = s.results
  loader : u.loader = s.loader
  engine : u.engine = s.engine

theorem releasedTo (p : Fin 8) (time : Option Nat) (s : Block) : ReleasedTo p s (fadeEndIfDue p (releaseBuild p time s)) := by
  have built : (releaseBuild p time s).playbacks
      = setAt s.playbacks p (released (playbackOf s p) s.time.clock (releaseTime (playbackOf s p) time)) := by
    rw [releaseBuild_eq, edit_playbacks, setPlayback_playbacks]
  have rest : (releaseBuild p time s).results = s.results ∧ (releaseBuild p time s).loader = s.loader
      ∧ (releaseBuild p time s).engine = s.engine := by
    rw [releaseBuild_eq, edited_rest]
    exact ⟨rfl, rfl, rfl⟩
  obtain ⟨results, loader, engine⟩ := rest
  rw [fadeEndIfDue_releaseBuild]
  split
  · refine ⟨⟨(released (playbackOf s p) s.time.clock (releaseTime (playbackOf s p) time)).toIdle, ?_, .inr rfl, rfl, rfl, rfl, rfl, rfl⟩,
      ?_, ?_, ?_⟩
    · rw [fadeEnded_playbacks, built, setAt_setAt]
    · rw [fadeEnded_results, results]
    · rw [fadeEnded_rest]
      exact loader
    · rw [fadeEnded_engine, engine]
  · exact ⟨⟨_, built, .inl rfl, rfl, rfl, rfl, rfl, rfl⟩, results, loader, engine⟩

/-! ### The whole RELEASE -/

section

variable {p : Fin 8} {slot : Fin 32} {time : Word} {s : Block}

theorem arriveRelease_bad (h : ¬(time = 0xFFFFFFFF ∨ time.toNat ≤ 3600000)) :
    arriveRelease p (.post slot) (optionalWord time) s = complete slot .badParam 0 0 0 s := by
  rw [arriveRelease, if_neg (mt (timeInRange_optionalWord time).1 h)]
  rfl

variable (range : time = 0xFFFFFFFF ∨ time.toNat ≤ 3600000)

include range

theorem arriveRelease_idle (idle : (playbackOf s p).fade = .idle) :
    arriveRelease p (.post slot) (optionalWord time) s = complete slot .ok 0 0 0 (releaseCleared p s) := by
  have fade : (playbackOf (releaseCleared p s) p).fade = .idle := by
    rw [releaseCleared_playback]
    exact idle
  rw [arriveRelease, if_pos ((timeInRange_optionalWord time).2 range)]
  exact if_pos fade

theorem arriveRelease_fades (fades : (playbackOf s p).fade ≠ .idle) :
    arriveRelease p (.post slot) (optionalWord time) s
      = complete slot .ok (BitVec.ofNat 32 (playbackOf s p).entries.length) 0 0
          (fadeEndIfDue p (releaseBuild p (optionalWord time) (releaseCleared p s))) := by
  have fade : (playbackOf (releaseCleared p s) p).fade ≠ .idle := by
    rw [releaseCleared_playback]
    exact fades
  have entries : (playbackOf (releaseCleared p s) p).entries = (playbackOf s p).entries := by
    rw [releaseCleared_playback]
    rfl
  rw [arriveRelease, if_pos ((timeInRange_optionalWord time).2 range), ← entries]
  exact if_neg fade

/-- Whatever the fade state, a RELEASE leaves its first steps and what a release leaves of its playback, and completes OK. -/
theorem arriveRelease_releases : ∃ u v, ReleasedTo p (releaseCleared p s) u
      ∧ arriveRelease p (.post slot) (optionalWord time) s = complete slot .ok v 0 0 u
      ∧ v = (if (playbackOf s p).fade = .idle then 0 else BitVec.ofNat 32 (playbackOf s p).entries.length) := by
  by_cases idle : (playbackOf s p).fade = .idle
  · refine ⟨_, 0, ?_, arriveRelease_idle range idle, (if_pos idle).symm⟩
    refine ⟨⟨playbackOf (releaseCleared p s) p, (setAt_getAt _ _).symm, .inr ?_, ?_, rfl, rfl, rfl, rfl⟩, rfl, rfl, rfl⟩
    · rw [releaseCleared_playback]
      exact idle
    · rw [releaseCleared_playback]
  · exact ⟨_, _, releasedTo .., arriveRelease_fades range idle, (if_neg idle).symm⟩

end

section

variable {slot : Fin 32} {playback time : Word} {b : Block} (comes : CanCome slot b) {p : Fin 8} (target : playback.toNat = p.val)

include comes target

theorem exec_release (q : List Instr) : exec (.release slot playback time) ⟨b, q⟩
    = .next ⟨arriveRelease p (.post slot) (optionalWord time) (reservePlace slot b), q⟩ := by
  refine (request_next comes (dispatchRelease slot playback time) q).trans ?_
  rw [dispatchRelease, withTarget_ok _ _ _ _ p target]

end

/-- A release time given, or the down time of the last cue (R17). -/
theorem releaseTime_eq {x : Playback} {time : Word} {down : Nat}
    (h : time ≠ 0xFFFFFFFF ∧ down = time.toNat ∨ time = 0xFFFFFFFF ∧ x.lastCue.map LastCue.down = some down) :
    releaseTime x (optionalWord time) = down := by
  rcases h with ⟨given, rfl⟩ | ⟨absent, last⟩
  · rw [optionalWord, if_neg given]
    rfl
  · obtain ⟨c, cue, rfl⟩ := Option.map_eq_some_iff.1 last
    rw [optionalWord, if_pos absent]
    simp only [releaseTime, cue]

section

variable {p : Fin 8} {slot : Fin 32} {time : Word} {s : Block} {down : Nat} (range : time = 0xFFFFFFFF ∨ time.toNat ≤ 3600000)
  (queue : (playbackOf s p).queue = []) (load : (playbackOf s p).load = .none) (fades : (playbackOf s p).fade ≠ .idle)
  (lasts : releaseTime (playbackOf s p) (optionalWord time) = down)

include range queue load fades lasts

/-- With nothing to end, a RELEASE is its release build, and a fade end reached at once (R17, R20). -/
theorem arriveRelease_alone : arriveRelease p (.post slot) (optionalWord time) s
    = complete slot .ok (BitVec.ofNat 32 (playbackOf s p).entries.length) 0 0
        (if reached s.time.clock (released (playbackOf s p) s.time.clock down).timing.fadeEnd then
          fadeEnded p (released (playbackOf s p) s.time.clock down).toIdle (playbackOf s p).entries.length
            (edit p 0 (setPlayback p (released (playbackOf s p) s.time.clock down) s))
        else edit p 0 (setPlayback p (released (playbackOf s p) s.time.clock down) s)) := by
  have same : released { playbackOf s p with follow := none } s.time.clock down = released (playbackOf s p) s.time.clock down := rfl
  have lasts : releaseTime { playbackOf s p with follow := none } (optionalWord time) = down := lasts
  rw [arriveRelease_fades range fades, fadeEndIfDue_releaseBuild, releaseBuild_eq, releaseCleared_empty queue load,
    playbackOf_setPlayback, setPlayback_time, setPlayback_setPlayback, lasts, same]

end

/-- The requests that steps 1 and 2 end are among those of the queue. -/
theorem leftOffEnds_slots (x : Playback) : ((leftOffEnds x).map Prod.fst).Subperm (postSlots x.queue) := by
  have slots : ∀ (code : ResultCode) (rs : List QueuedRequest), (endsWith code rs).map Prod.fst = postSlots rs := fun code rs => by
    simp [endsWith, Function.comp_def]
  rw [leftOffEnds, List.map_append, slots, slots]
  cases load : x.load with
  | none =>
    rw [waitingRequests, if_pos load, if_neg (by decide)]
    exact (List.append_nil (postSlots x.queue)).symm ▸ List.Subperm.refl _
  | waiting =>
    rw [waitingRequests, if_neg (by rw [load]; decide), if_pos rfl]
    refine List.Perm.subperm (List.perm_append_comm.trans ?_)
    rw [postSlots, postSlots, ← List.filterMap_append, List.take_append_drop]
    rfl
  | reading =>
    rw [waitingRequests, if_neg (by rw [load]; decide), if_neg (by decide)]
    refine List.Sublist.subperm ?_
    exact (List.append_nil (postSlots (x.queue.drop 1))).symm ▸ (List.drop_sublist 1 x.queue).filterMap _

/-- The completions of a RELEASE in the result queue: those of the requests that ended, and its own (R16, R175). -/
theorem arriveRelease_results {p : Fin 8} {slot : Fin 32} {v : Word} {b u : Block} (comes : CanCome slot b)
    (released : ReleasedTo p (releaseCleared p (reservePlace slot b)) u) (nodup : (postSlots (playbackOf b p).queue).Nodup)
    (mem : ∀ i ∈ postSlots (playbackOf b p).queue, i ∈ b.results.reserved) :
    (complete slot .ok v 0 0 u).results.queue = b.results.queue
      ++ (leftOffEnds (playbackOf b p)).map (fun x => ⟨x.1, x.2, 0, 0, 0⟩) ++ [⟨slot, .ok, v, 0, 0⟩] := by
  have runs : (reservePlace slot b).engine.state ≠ .halted := by
    rw [reservePlace_engine, comes.2.1]
    decide
  obtain ⟨-, -, -, fresh, -, -⟩ := comes
  have among := leftOffEnds_slots (playbackOf b p)
  have held : ∀ x ∈ leftOffEnds (playbackOf b p), x.1 ∈ b.results.reserved := fun x hx =>
    mem _ (List.Subperm.subset among (List.mem_map_of_mem hx))
  have completes := releaseCleared_completes p runs
  have ended := completions_of_nodup (reserved := (reservePlace slot b).results.reserved) (nodup_of_subperm among nodup)
    fun x hx => List.mem_append_left _ (held x hx)
  have reserved : u.results.reserved.contains slot = true := by
    rw [released.results, completes.reserved, List.contains_iff_mem]
    refine List.mem_diff_of_mem (List.mem_append_right _ (List.mem_singleton_self _)) fun hm => ?_
    obtain ⟨x, hx, rfl⟩ := List.mem_map.1 hm
    exact fresh (held x hx)
  rw [complete_reserved_queue reserved (by rw [released.engine, completes.engine]; exact runs), released.results, completes.queue]
  exact congrArg (fun cs => b.results.queue ++ cs ++ [_]) ended

/-- The loader queue and the current job after a RELEASE. -/
theorem leftLoader_current (p : Fin 8) (load : LoadState) (l : Loader) :
    (∀ cur, load = .reading → l.current = some cur → cur.job.playback = p →
        (leftLoader p load l).current = some { cur with abandon := true })
      ∧ (load ≠ .reading ∨ (∀ cur, l.current = some cur → cur.job.playback ≠ p) → (leftLoader p load l).current = l.current) := by
  refine ⟨fun cur reading current own => ?_, fun h => ?_⟩
  · simp only [leftLoader, if_pos reading, current, Option.map_some, marked, if_pos own]
  · by_cases reading : load = .reading
    · have other := h.resolve_left (not_not.2 reading)
      simp only [leftLoader, if_pos reading]
      cases current : l.current with
      | none => rfl
      | some cur => simp only [Option.map_some, marked, if_neg (other cur current)]
    · simp only [leftLoader, if_neg reading]

/-- What a RELEASE leaves of its playback, of the others, of the loader and of the results (R16, R17). -/
theorem arriveRelease_leaves (slot : Fin 32) {time : Word} (b : Block) (p : Fin 8)
    (range : time = 0xFFFFFFFF ∨ time.toNat ≤ 3600000) :
    ∃ y v u, arriveRelease p (.post slot) (optionalWord time) (reservePlace slot b) = complete slot .ok v 0 0 u
      ∧ v = (if (playbackOf b p).fade = .idle then 0 else BitVec.ofNat 32 (playbackOf b p).entries.length)
      ∧ ReleasedTo p (releaseCleared p (reservePlace slot b)) u
      ∧ (complete slot .ok v 0 0 u).playbacks = setAt b.playbacks p y
      ∧ (y.fade = .releasing ∨ y.fade = .idle) ∧ y.follow = none
      ∧ y.queue = (leftOff (playbackOf b p)).queue ∧ y.load = (leftOff (playbackOf b p)).load ∧ y.lastCue = (playbackOf b p).lastCue
      ∧ y.master = (playbackOf b p).master
      ∧ (complete slot .ok v 0 0 u).loader = leftLoader p (playbackOf b p).load b.loader := by
  obtain ⟨u, v, released, arrives, value⟩ := arriveRelease_releases (p := p) (slot := slot) (s := reservePlace slot b) range
  obtain ⟨y, playbacks, fade, follow, queue, load, last, master⟩ := released.playback
  rw [releaseCleared_playback] at queue load last master
  refine ⟨y, v, u, arrives, value, released, ?_, fade, follow, queue, load, last, master, ?_⟩
  · rw [complete_playbacks, playbacks, releaseCleared_playbacks, setAt_setAt]
    rfl
  · rw [complete_loader, released.loader, releaseCleared_loader]
    rfl

/-- Settles O41: the checks, a RELEASE with nothing to end, and what any RELEASE leaves. -/
theorem aReleaseFadesThePlaybackOut : Obligations.AReleaseFadesThePlaybackOut := by
  unfold Obligations.AReleaseFadesThePlaybackOut
  intro slot playback time b q comes
  dsimp only
  refine ⟨fun above => ?_, fun p target => ?_⟩
  · refine (request_next comes (dispatchRelease slot playback time) q).trans ?_
    rw [dispatchRelease, withTarget_bad _ _ _ _ above]
  rw [exec_release comes target]
  refine ⟨fun bad => ?_, fun range queue load => ⟨fun idle => ?_, fun down fades lasts => ⟨fun ahead => ?_, fun past => ?_⟩⟩, fun range => ?_⟩
  · rw [arriveRelease_bad bad]
  · rw [arriveRelease_idle (s := reservePlace slot b) range idle, releaseCleared_empty (s := reservePlace slot b) queue load]
    rfl
  · have ends := released_fadeEnd (playbackOf b p) b.time.clock down
    rw [arriveRelease_alone (s := reservePlace slot b) range queue load fades (releaseTime_eq lasts)]
    rw [if_neg (by rw [playbackOf_reservePlace, reservePlace_time, ends, ahead]; decide)]
    refine congrArg (fun y => Host.Outcome.next (⟨complete slot .ok (BitVec.ofNat 32 (playbackOf b p).entries.length) 0 0
      (edit p 0 (setPlayback p y (reservePlace slot b))), q⟩ : State)) ?_
    simp only [released, releaseTiming, List.isEmpty_iff]
    rfl
  · have ends := released_fadeEnd (playbackOf b p) b.time.clock down
    have built := reaches_edited (p := p) (x := released (playbackOf b p) b.time.clock down) (b := reservePlace slot b) (freed := 0)
      (released_held ..)
    have idled := fadeEnded_reaches p (released (playbackOf b p) b.time.clock down).toIdle (playbackOf b p).entries.length
      (edit p 0 (setPlayback p (released (playbackOf b p) b.time.clock down) (reservePlace slot b))) (by
        rw [playbackOf_edit, playbackOf_setPlayback, ← toIdle_held (released _ _ _), released, releaseSet_length])
    obtain ⟨-, awaits⟩ := reaches_twice built idled
    rw [arriveRelease_alone (s := reservePlace slot b) range queue load fades (releaseTime_eq lasts)]
    rw [if_pos (by rw [playbackOf_reservePlace, reservePlace_time, ends, past])]
    refine ⟨_, rfl, ?_, ?_, ?_⟩
    · rw [isRaised, complete_intStatus]
      exact fadeEnded_raised ..
    · rw [playbackOf_complete, fadeEnded_playback]
      rfl
    · rw [awaitingLanding, complete_mixer]
      rw [Nat.zero_add] at awaits
      exact awaits
  · obtain ⟨y, v, u, arrives, value, released, playbacks, fade, follow, queue, load, last, master, loader⟩ :=
      arriveRelease_leaves slot b p range
    have own : playbackOf (complete slot .ok v 0 0 u) p = y := by rw [playbackOf, playbacks, getAt_setAt]
    obtain ⟨marks, keeps⟩ := leftLoader_current p (playbackOf b p).load b.loader
    rw [arrives]
    refine ⟨_, rfl, by rw [own, follow], by rw [own, load, leftOff]; split <;> simp, fun notReading => ?_, fun reading => ?_,
      by rw [own]; exact fade.symm, by rw [own, last], by rw [own, master], fun p' other => ?_, by rw [loader]; rfl,
      fun cur reading current job => by rw [loader, marks cur reading current job], fun h => by rw [loader, keeps h],
      fun nodup mem => ?_⟩
    · rw [own, queue, load, leftOff, if_neg notReading, if_neg notReading]
      exact ⟨rfl, rfl⟩
    · rw [own, queue, load, leftOff, if_pos reading, if_pos reading]
      exact ⟨rfl, rfl⟩
    · rw [playbackOf, playbacks, getAt_setAt_ne _ _ _ _ other]
      rfl
    · rw [filterMap_slots fun _ => ⟨fun _ => rfl, fun _ => rfl, rfl⟩] at nodup mem
      rw [arriveRelease_results comes released nodup mem, value, leftOffEnds, List.map_append, ← List.append_assoc,
        filterMap_slots fun _ => ⟨fun _ => rfl, fun _ => rfl, rfl⟩, filterMap_slots fun _ => ⟨fun _ => rfl, fun _ => rfl, rfl⟩]
      simp only [endsWith, List.map_map]
      rfl

end Sys2Proof.Machine
end

section
/-! SUPPORT. Triggers: an edge examined, and what an enabled one does (R23, R164 to R166). -/

namespace Sys2Proof.Machine

theorem modTrigger_eq (i : Fin 8) (f : Trigger → Trigger) (s : Block) :
    modTrigger i f s = { s with triggers := setAt s.triggers i (f (triggerOf s i)) } := rfl

/-- A trigger replaced twice is replaced once. -/
theorem modTrigger_again (i : Fin 8) (f : Trigger → Trigger) (x : Trigger) (s : Block) :
    modTrigger i f { s with triggers := setAt s.triggers i x } = { s with triggers := setAt s.triggers i (f x) } := by
  simp [modTrigger_eq, triggerOf]

theorem timeInRange_iff (t : Option Nat) : timeInRange t = true ↔ ∀ n, t = some n → n ≤ 3600000 := by
  cases t with
  | none => simp [timeInRange]
  | some n => exact decide_eq_true_iff.trans ⟨fun low m e => Option.some.inj e ▸ low, fun low => low n rfl⟩

/-- A trigger's request that fails its checks is discarded (R23). -/
theorem arriveQueued_trigger_bad {p i : Fin 8} {k : QueuedKind} {s : Block} (h : kindOk s.anchor.bankCount k = false) :
    arriveQueued p (.trigger i) k s = s := by
  rw [arriveQueued, h]
  rfl

/-- A trigger's request that finds no room is dropped and counted (R6). -/
theorem arriveQueued_trigger_full {p i : Fin 8} {k : QueuedKind} {s : Block} (h : kindOk s.anchor.bankCount k = true)
    (full : 4 ≤ (playbackOf s p).queue.length) : arriveQueued p (.trigger i) k s
      = { s with triggers := setAt s.triggers i { triggerOf s i with dropped := countUp (triggerOf s i).dropped } } := by
  rw [arriveQueued, if_pos h, if_neg (show ¬_ < Config.queuePlaces from Nat.not_lt.2 full)]
  rfl

/-- What an enabled edge makes of the part in which it has been counted: its action in RUNNING, and nothing more outside it (R166). -/
def edgeActed (i : Fin 8) (s : Block) : Block :=
  if s.engine.state = .running then performAction i (triggerOf s i).record s else s

/-- The action of an enabled edge, as R23, R81 and R166 give it. -/
theorem theEdgeActs {i : Fin 8} {s : Block} {becomes : Block → Prop} (h : becomes (edgeActed i s)) : TheEdgeActs i s becomes := by
  have acts : ∀ t, edgeActed i s = t → becomes t := fun t e => e ▸ h
  have running : s.engine.state = .running → edgeActed i s = performAction i (triggerOf s i).record s := fun runs => if_pos runs
  unfold TheEdgeActs
  dsimp only
  refine ⟨fun quiet => acts _ ?_, fun runs => ⟨fun toggles => acts _ ?_, fun go bad => acts _ ?_, fun next bad => acts _ ?_,
    fun full => ⟨fun go ok => acts _ ?_, fun next ok => acts _ ?_, fun still => acts _ ?_⟩, fun go => acts _ ?_, fun next => acts _ ?_,
    fun pause => acts _ ?_, fun resume => acts _ ?_, fun release => acts _ ?_⟩⟩
  · rcases quiet with stopped | note
    · exact if_neg stopped
    · simp only [edgeActed, performAction, note, ite_self]
  · rw [running runs]
    simp only [performAction, toggles]
    rfl
  · rw [running runs]
    simp only [performAction, go]
    refine arriveQueued_trigger_bad (Bool.eq_false_iff.2 fun ok => bad ?_)
    simp only [kindOk, Bool.and_eq_true, decide_eq_true_eq, timeInRange_iff] at ok
    obtain ⟨⟨⟨bank, low⟩, high⟩, time⟩ := ok
    exact ⟨bank, low, high, time⟩
  · rw [running runs]
    simp only [performAction, next]
    exact arriveQueued_trigger_bad (decide_eq_false (Nat.not_lt.2 bad))
  · rw [running runs]
    simp only [performAction, go]
    refine arriveQueued_trigger_full ?_ full
    obtain ⟨bank, low, high, time⟩ := ok
    simp only [kindOk, Bool.and_eq_true, decide_eq_true_eq, timeInRange_iff]
    exact ⟨⟨⟨bank, low⟩, high⟩, time⟩
  · rw [running runs]
    simp only [performAction, next]
    exact arriveQueued_trigger_full (decide_eq_true ok) full
  · rw [running runs]
    rcases still with pause | resume
    · simp only [performAction, pause]
      exact arriveQueued_trigger_full rfl full
    · simp only [performAction, resume]
      exact arriveQueued_trigger_full rfl full
  · rw [running runs]
    simp only [performAction, go]
  · rw [running runs]
    simp only [performAction, next]
  · rw [running runs]
    simp only [performAction, pause]
  · rw [running runs]
    simp only [performAction, resume]
  · rw [running runs]
    simp only [performAction, release]

theorem trigger_raised (s : Block) : isRaised .trigger (raiseInt .trigger s) = true := by
  simp [isRaised, raiseInt, IntSource.bit, IntSource.index]

/-- A level settles without an enabled edge (R164, R165). -/
theorem settle_passes {i : Fin 8} {level : Bool} {s : Block} (h : (triggerOf s i).record.edge.enables level = false) :
    settle i level s = { s with triggers := setAt s.triggers i { triggerOf s i with settled := level, timer := none } } := by
  have same : (triggerOf (modTrigger i (fun g => { g with settled := level, timer := none }) s) i).record = (triggerOf s i).record := by
    simp [triggerOf, modTrigger_eq]
  simp only [settle, examineEdge, same, h]
  rfl

/-- A level settles with an enabled edge (R164 to R166). -/
theorem settle_acts {i : Fin 8} {level : Bool} {s : Block} (h : (triggerOf s i).record.edge.enables level = true) :
    settle i level s = edgeActed i (raiseInt .trigger { s with triggers := setAt s.triggers i { triggerOf s i with
      settled := level, timer := none, accepted := countUp (triggerOf s i).accepted } }) := by
  have same : (triggerOf (modTrigger i (fun g => { g with settled := level, timer := none }) s) i).record = (triggerOf s i).record := by
    simp [triggerOf, modTrigger_eq]
  have counted : modTrigger i (fun g => { g with accepted := countUp g.accepted }) (modTrigger i (fun g => { g with settled := level, timer := none }) s)
      = { s with triggers := setAt s.triggers i { triggerOf s i with
          settled := level, timer := none, accepted := countUp (triggerOf s i).accepted } } := modTrigger_again ..
  have record : (triggerOf (raiseInt .trigger { s with triggers := setAt s.triggers i { triggerOf s i with
      settled := level, timer := none, accepted := countUp (triggerOf s i).accepted } }) i).record = (triggerOf s i).record := by
    simp [triggerOf, raiseInt]
  simp only [settle, examineEdge, same, h, counted, edgeActed, record]
  rfl

/-- Settles O28: the pin's level settles. -/
theorem aDebounceExpiryExaminesTheEdge : Obligations.ADebounceExpiryExaminesTheEdge := by
  unfold Obligations.ADebounceExpiryExaminesTheEdge
  intro i b q d clocks timer past
  have taken : exec (.debounceExpiry i) ⟨b, q⟩ = .next ⟨settle i (triggerOf b i).pin b, q⟩ :=
    answer_taken (by simp [clocks, timer, timerDue, past]) (debounceEnds i) b q
  refine ⟨fun passes => ?_, fun enabled => ⟨trigger_raised _, theEdgeActs ?_⟩⟩
  · exact taken.trans (by rw [settle_passes passes])
  · exact taken.trans (by rw [settle_acts enabled])

/-- Settles O27: a pin's change by where the settled level and the debounce time stand. -/
theorem aTriggerPinChangeDebouncesOrSettles : Obligations.ATriggerPinChangeDebouncesOrSettles := by
  unfold Obligations.ATriggerPinChangeDebouncesOrSettles
  intro i level b q clocks moves
  have taken : exec (.triggerPinChange i level) ⟨b, q⟩ = .next ⟨pinChanges i level b, q⟩ := by
    refine (answer_taken (f := if clocked b then pinChanges i level else movePin i level) rfl b q).trans ?_
    rw [if_pos clocks]
  have moved : triggerOf (modTrigger i (fun g => { g with pin := level }) b) i = { triggerOf b i with pin := level } := by
    simp [triggerOf, modTrigger_eq]
  refine ⟨fun away debounce => ?_, fun back => ?_, fun away none passes => ?_, fun away none enabled => ⟨trigger_raised _, theEdgeActs ?_⟩⟩
  · refine taken.trans ?_
    simp only [pinChanges, if_neg moves, if_neg away, if_neg debounce]
    rw [modTrigger_eq i (fun g => { g with pin := level }), modTrigger_again]
  · refine taken.trans ?_
    simp only [pinChanges, if_neg moves, if_pos back]
    rw [modTrigger_eq i (fun g => { g with pin := level }), modTrigger_again]
  · refine taken.trans ?_
    simp only [pinChanges, if_neg moves, if_neg away, if_pos none]
    rw [settle_passes (by rw [moved]; exact passes), moved]
    simp [modTrigger_eq]
  · refine taken.trans ?_
    simp only [pinChanges, if_neg moves, if_neg away, if_pos none]
    rw [settle_acts (by rw [moved]; exact enabled), moved]
    simp [modTrigger_eq]

end Sys2Proof.Machine
end

section
/-! SUPPORT. What the blocks give up on entry into STOPPING or HALTED: the requests that end, and what stays (R97, R98, R110, R124, R155, R180). -/

namespace Sys2Proof.Machine

/-! ### One change after another -/

/-- A relation of a state with itself and along a chain holds along a list of changes. -/
theorem foldl_chain {α : Type} {R : Block → Block → Prop} {f : Block → α → Block} (refl : ∀ s, R s s)
    (trans : ∀ {s t u}, R s t → R t u → R s u) (h : ∀ t x, R t (f t x)) (xs : List α) (s : Block) : R s (xs.foldl f s) := by
  induction xs generalizing s with
  | nil => exact refl s
  | cons x rest ih => exact trans (h s x) (ih (f s x))

/-- Of the parts `get`, those of `is` are changed by `f`, and the requests `g` gives for each end. -/
structure EndsEach {ι α : Type} [DecidableEq ι] (get : Block → ι → α) (f : α → α) (g : α → List (Fin 32 × ResultCode)) (is : List ι)
    (s t : Block) : Prop where
  each : ∀ i, get t i = if i ∈ is then f (get s i) else get s i
  ends : s.engine.state ≠ .halted → Completes (is.flatMap fun i => g (get s i)) s t

namespace EndsEach

theorem nil {ι α : Type} [DecidableEq ι] {get : Block → ι → α} {f : α → α} {g : α → List (Fin 32 × ResultCode)} (s : Block) :
    EndsEach get f g [] s s := ⟨fun _ => (if_neg List.not_mem_nil).symm, fun _ => .of_same rfl rfl⟩

theorem cons {ι α : Type} [DecidableEq ι] {get : Block → ι → α} {f : α → α} {g : α → List (Fin 32 × ResultCode)} {i : ι} {is : List ι}
    {s t u : Block} (h : EndsEach get f g [i] s t) (k : EndsEach get f g is t u) (new : i ∉ is) : EndsEach get f g (i :: is) s u := by
  have other : ∀ j ∈ is, get t j = get s j := fun j hj => by
    rw [h.each, if_neg]
    exact fun e => new (List.mem_singleton.1 e ▸ hj)
  refine ⟨fun j => ?_, fun runs => ?_⟩
  · rw [k.each]
    by_cases later : j ∈ is
    · rw [if_pos later, if_pos (List.mem_cons_of_mem _ later), other j later]
    · rw [if_neg later, h.each]
      simp only [List.mem_cons, List.not_mem_nil, later, or_false]
  · have first := h.ends runs
    have rest := k.ends (first.engine ▸ runs)
    have same : (is.flatMap fun j => g (get t j)) = is.flatMap fun j => g (get s j) :=
      List.flatMap_congr fun j hj => by rw [other j hj]
    rw [same] at rest
    rw [List.flatMap_cons]
    rw [List.flatMap_cons, List.flatMap_nil, List.append_nil] at first
    exact first.trans rest

theorem foldl {ι α : Type} [DecidableEq ι] {get : Block → ι → α} {f : α → α} {g : α → List (Fin 32 × ResultCode)}
    {op : Block → ι → Block} (h : ∀ t i, EndsEach get f g [i] t (op t i)) {is : List ι} (nodup : is.Nodup) (s : Block) :
    EndsEach get f g is s (is.foldl op s) := by
  induction is generalizing s with
  | nil => exact nil s
  | cons i rest ih =>
    obtain ⟨new, others⟩ := List.nodup_cons.1 nodup
    exact (h s i).cons (ih others (op s i)) new

end EndsEach

/-- Requests of a list that end with one code, in its order. -/
theorem Completes.all {α : Type} (slot : α → Fin 32) (code : ResultCode) (xs : List α) {s : Block} (runs : s.engine.state ≠ .halted) :
    Completes (xs.map fun x => (slot x, code)) s (xs.foldl (fun t x => completePlain (slot x) code t) s) := by
  have each := Completes.foldl (f := fun t x => completePlain (slot x) code t) (g := fun x => [(slot x, code)])
    (fun _ _ live => complete live) xs runs
  rwa [← List.map_eq_flatMap] at each

/-! ### The table loader (R97, R98) -/

/-- What is FILLING stays; the rest is EMPTY. -/
def keptStaging (x : Staging) : Staging := match x with | .filling words => .filling words | _ => .empty

def stagingEnds (code : ResultCode) : Staging → List (Fin 32 × ResultCode)
  | .ready slot _ => [(slot, code)]
  | .filling _ => []
  | .empty => []

/-- What is FILLING stays; the rest is EMPTY. -/
def keptShadow (x : Shadow) : Shadow := match x with | .filling points => .filling points | _ => .empty

def shadowEnds (code : ResultCode) : Shadow → List (Fin 32 × ResultCode)
  | .ready slot _ => [(slot, code)]
  | .filling _ => []
  | .empty => []

theorem Completes.endStaging {x : Staging} {code : ResultCode} {s : Block} (runs : s.engine.state ≠ .halted) :
    Completes (stagingEnds code x) s (endStaging x code s) := by
  cases x with
  | ready slot list => exact complete runs
  | filling words => exact of_same rfl rfl
  | empty => exact of_same rfl rfl

theorem Completes.endShadow {x : Shadow} {code : ResultCode} {s : Block} (runs : s.engine.state ≠ .halted) :
    Completes (shadowEnds code x) s (endShadow x code s) := by
  cases x with
  | ready slot list => exact complete runs
  | filling words => exact of_same rfl rfl
  | empty => exact of_same rfl rfl

/-- A shadow ended, and what it keeps of its curve. -/
def endedShadow (code : ResultCode) (t : Block) (k : Fin 7) : Block := setShadow k (keptShadow (shadowOf t k)) (endShadow (shadowOf t k) code t)

theorem endedShadow_rest (code : ResultCode) (t : Block) (k : Fin 7) : endedShadow code t k = { t with
    tables := { t.tables with shadows := setAt t.tables.shadows k (keptShadow (shadowOf t k)) }
    results := (endedShadow code t k).results, port := (endedShadow code t k).port } := by
  have posts := (Posts.endShadow (shadowOf t k) code t).rest
  unfold endedShadow
  rw [posts]
  rfl

theorem endedShadow_each (code : ResultCode) (t : Block) (k : Fin 7) :
    EndsEach shadowOf keptShadow (shadowEnds code) [k] t (endedShadow code t k) := by
  refine ⟨fun j => ?_, fun runs => ?_⟩
  · rw [shadowOf, endedShadow_rest]
    simp only [getAt_setAt_ite, List.mem_singleton]
    split
    · rename_i same
      rw [same]
    · rfl
  · rw [List.flatMap_cons, List.flatMap_nil, List.append_nil]
    exact (Completes.endShadow runs).of_results rfl rfl

/-- The part once the shadows have ended one after another, each read as it stands. -/
def endedShadows (code : ResultCode) (s : Block) : Block := allShadows.foldl (endedShadow code) s

theorem endedShadows_each (code : ResultCode) (s : Block) :
    EndsEach shadowOf keptShadow (shadowEnds code) allShadows s (endedShadows code s) :=
  .foldl (endedShadow_each code) (by decide) s

theorem endedShadows_rest (code : ResultCode) (s : Block) : endedShadows code s = { s with
    tables := { s.tables with shadows := (endedShadows code s).tables.shadows }
    results := (endedShadows code s).results, port := (endedShadows code s).port } := by
  refine foldl_chain (R := fun s t => t = { s with
    tables := { s.tables with shadows := t.tables.shadows }, results := t.results, port := t.port }) (fun _ => rfl) ?_ ?_ allShadows s
  · intro s t u h k
    rw [k, h]
  · intro t k
    rw [endedShadow_rest]

/-- The shadows of a list ended by what they were in `s`, or each by what it is. -/
theorem endShadows_eq (code : ResultCode) (s : Block) {ks : List (Fin 7)} (nodup : ks.Nodup) :
    ∀ t : Block, (∀ k ∈ ks, shadowOf t k = shadowOf s k) →
      ks.foldl (fun t k => setShadow k (keptShadow (shadowOf s k)) (endShadow (shadowOf s k) code t)) t = ks.foldl (endedShadow code) t := by
  induction ks with
  | nil => exact fun _ _ => rfl
  | cons k rest ih =>
    intro t same
    obtain ⟨new, others⟩ := List.nodup_cons.1 nodup
    have first : setShadow k (keptShadow (shadowOf s k)) (endShadow (shadowOf s k) code t) = endedShadow code t k := by
      rw [endedShadow, same k List.mem_cons_self]
    rw [List.foldl_cons, List.foldl_cons, first]
    refine ih others _ fun j hj => ?_
    rw [(endedShadow_each code t k).each, if_neg, same j (List.mem_cons_of_mem _ hj)]
    exact fun e => new (List.mem_singleton.1 e ▸ hj)

/-- The part once the queued jobs and the READY staging have ended. -/
def endedJobs (code : ResultCode) (s : Block) : Block :=
  endStaging s.tables.staging code
    (s.tables.queue.foldl (fun t j => completePlain j.slot code t) { s with tables := { s.tables with queue := [] } })

theorem endedJobs_rest (code : ResultCode) (s : Block) : endedJobs code s = { s with
    tables := { s.tables with queue := [] }, results := (endedJobs code s).results, port := (endedJobs code s).port } :=
  (Posts.trans (Posts.foldl (fun t j => Posts.completePlain (TableJob.slot j) code t) s.tables.queue _)
    (Posts.endStaging s.tables.staging code _)).rest

theorem endedJobs_staged (code : ResultCode) (x : Staging) (s : Block) : setStaging x (endedJobs code s) = { s with
    tables := { s.tables with queue := [], staging := x }, results := (endedJobs code s).results, port := (endedJobs code s).port } := by
  conv_lhs => rw [endedJobs_rest]
  rfl

theorem endedJobs_ends (code : ResultCode) {s : Block} (runs : s.engine.state ≠ .halted) :
    Completes ((s.tables.queue.map fun j => (j.slot, code)) ++ stagingEnds code s.tables.staging) s (endedJobs code s) := by
  have jobs := Completes.all TableJob.slot code s.tables.queue (s := { s with tables := { s.tables with queue := [] } }) runs
  have staging := jobs.trans (Completes.endStaging (x := s.tables.staging) (code := code) (by rw [jobs.engine]; exact runs))
  exact ⟨staging.queue, staging.reserved, staging.engine⟩

/-- All requests the table loader ends (R97, R98). -/
def tableEnds (code : ResultCode) (s : Block) : List (Fin 32 × ResultCode) :=
  (s.tables.queue.map fun j => (j.slot, code)) ++ stagingEnds code s.tables.staging
    ++ allShadows.flatMap fun k => shadowEnds code (shadowOf s k)

theorem endTables_eq (code : ResultCode) (s : Block) :
    endTables code s = endedShadows code (setStaging (keptStaging s.tables.staging) (endedJobs code s)) := by
  refine Eq.trans ?_ (endShadows_eq code s (by decide) _ fun k _ => ?_)
  · rfl
  · rw [shadowOf, shadowOf]
    change getAt (endedJobs code s).tables.shadows k = _
    rw [endedJobs_rest]

/-- Nothing changes but the tables, the results and the port. -/
def OnlyTables (s t : Block) : Prop := t = { s with tables := t.tables, results := t.results, port := t.port }

theorem OnlyTables.trans {s t u : Block} (h : OnlyTables s t) (k : OnlyTables t u) : OnlyTables s u := by
  unfold OnlyTables at h k ⊢
  rw [k, h]

/-- What the table loader keeps (R97, R98). -/
structure TablesEnd (code : ResultCode) (s t : Block) : Prop where
  queue : t.tables.queue = []
  reader : t.tables.reader = s.tables.reader
  staging : t.tables.staging = keptStaging s.tables.staging
  shadows : ∀ k, shadowOf t k = keptShadow (shadowOf s k)
  ends : s.engine.state ≠ .halted → Completes (tableEnds code s) s t
  rest : OnlyTables s t

theorem mem_allShadows (k : Fin 7) : k ∈ allShadows := by
  revert k
  decide

theorem tablesEnd (code : ResultCode) (s : Block) : TablesEnd code s (endTables code s) := by
  have tables : (endTables code s).tables = { s.tables with
      queue := [], staging := keptStaging s.tables.staging, shadows := (endTables code s).tables.shadows } := by
    have shadows := congrArg Block.tables (endedShadows_rest code (setStaging (keptStaging s.tables.staging) (endedJobs code s)))
    rw [← endTables_eq] at shadows
    rw [shadows, endedJobs_staged]
  have before : ∀ k, shadowOf (setStaging (keptStaging s.tables.staging) (endedJobs code s)) k = shadowOf s k := fun k => by
    change getAt (endedJobs code s).tables.shadows k = _
    rw [endedJobs_rest]
    rfl
  refine ⟨?_, ?_, ?_, fun k => ?_, fun runs => ?_, ?_⟩
  · rw [tables]
  · rw [tables]
  · rw [tables]
  · rw [endTables_eq, (endedShadows_each _ _).each, if_pos (mem_allShadows k), before]
  · have jobs := endedJobs_ends code runs
    have set : Completes ((s.tables.queue.map fun j => (j.slot, code)) ++ stagingEnds code s.tables.staging) s
        (setStaging (keptStaging s.tables.staging) (endedJobs code s)) := jobs.of_results rfl rfl
    have shadows := (endedShadows_each code (setStaging (keptStaging s.tables.staging) (endedJobs code s))).ends (set.engine ▸ runs)
    simp only [before] at shadows
    rw [endTables_eq]
    exact set.trans shadows
  · have jobs : OnlyTables s (setStaging (keptStaging s.tables.staging) (endedJobs code s)) := by
      unfold OnlyTables
      rw [endedJobs_staged]
    have shadows : OnlyTables (setStaging (keptStaging s.tables.staging) (endedJobs code s)) (endTables code s) := by
      unfold OnlyTables
      rw [endTables_eq]
      conv_lhs => rw [endedShadows_rest]
      rw [endedShadows_rest]
    exact jobs.trans shadows

/-! ### The lines with talkback (R124, R155, R156) -/

/-- Nothing changes but the lines, the results and the port. -/
def OnlyLines (s t : Block) : Prop := t = { s with lines := t.lines, results := t.results, port := t.port }

theorem OnlyLines.trans {s t u : Block} (h : OnlyLines s t) (k : OnlyLines t u) : OnlyLines s u := by
  unfold OnlyLines at h k ⊢
  rw [k, h]

theorem OnlyLines.modLine {l : Fin 4} {f : Line → Line} {s t : Block} (h : Posts s t) : OnlyLines s (modLine l f t) := by
  unfold OnlyLines
  rw [h.rest]
  rfl

theorem Posts.lines {s t : Block} (h : Posts s t) : t.lines = s.lines := by
  rw [h.rest]
  rfl

/-- One line changed, and requests that end before. -/
theorem endsEach_modLine {f : Line → Line} {g : Line → List (Fin 32 × ResultCode)} {l : Fin 4} {s t : Block} (posts : Posts s t)
    (ends : s.engine.state ≠ .halted → Completes (g (lineOf s l)) s t) : EndsEach lineOf f g [l] s (modLine l f t) := by
  refine ⟨fun m => ?_, fun runs => ?_⟩
  · simp only [lineOf, modLine_lines, modAt_eq, getAt_setAt_ite, posts.lines, List.mem_singleton]
    split
    · rename_i same
      rw [same]
    · rfl
  · rw [List.flatMap_cons, List.flatMap_nil, List.append_nil]
    exact (ends runs).of_results rfl rfl

/-- A line on entry into STOPPING (R155). -/
def stoppedLine (x : Line) : Line := { x with queries := [], inFlight := x.inFlight.map fun f => { f with cancelled := true } }

def queryEnds (code : ResultCode) (x : Line) : List (Fin 32 × ResultCode) := x.queries.map fun q => (q.slot, code)

theorem Completes.endQueries (code : ResultCode) (qs : List Query) {s : Block} (runs : s.engine.state ≠ .halted) :
    Completes (qs.map fun q => (q.slot, code)) s (endQueries code qs s) := .all Query.slot code qs runs

theorem talkbackStop_each (s : Block) : EndsEach lineOf stoppedLine (queryEnds .cancelled) allLines s (talkbackStop s) :=
  .foldl (fun t l => endsEach_modLine (Posts.endQueries .cancelled (lineOf t l).queries t) fun runs => .endQueries _ _ runs) (by decide) s

theorem talkbackStop_rest (s : Block) : OnlyLines s (talkbackStop s) :=
  foldl_chain (R := OnlyLines) (fun _ => rfl) OnlyLines.trans (fun t l => .modLine (Posts.endQueries .cancelled (lineOf t l).queries t)) allLines s

/-- A line with nothing pending (R124). -/
def unpendingLine (x : Line) : Line := { x with pending := none }

def pendingEnds (x : Line) : List (Fin 32 × ResultCode) := match x.pending with | some (_, slot) => [(slot, .cancelled)] | none => []

theorem dropPendingLine_each (t : Block) (l : Fin 4) : EndsEach lineOf unpendingLine pendingEnds [l] t (dropPendingLine l t) := by
  unfold dropPendingLine
  split
  · rename_i c slot pending
    have emptied : EndsEach lineOf unpendingLine (fun _ => []) [l] t (modLine l unpendingLine t) :=
      endsEach_modLine (.refl t) fun _ => .of_same rfl rfl
    refine ⟨fun m => ?_, fun runs => ?_⟩
    · rw [← emptied.each m, lineOf, (Posts.completePlain slot .cancelled _).lines]
      rfl
    · have ends : pendingEnds (lineOf t l) = [(slot, .cancelled)] := by rw [pendingEnds, pending]
      have last := Completes.complete (i := slot) (code := .cancelled) (s := modLine l unpendingLine t) runs
      rw [List.flatMap_cons, List.flatMap_nil, List.append_nil, ends]
      exact ⟨last.queue, last.reserved, last.engine⟩
  · rename_i pending
    refine ⟨fun m => ?_, fun runs => ?_⟩
    · split
      · rename_i same
        rw [List.mem_singleton.1 same, unpendingLine, ← pending]
      · rfl
    · rw [List.flatMap_cons, List.flatMap_nil, List.append_nil, pendingEnds, pending]
      exact .of_same rfl rfl

theorem dropPendingLines_each (s : Block) : EndsEach lineOf unpendingLine pendingEnds allLines s (dropPendingLines s) :=
  .foldl dropPendingLine_each (by decide) s

theorem dropPendingLine_rest (t : Block) (l : Fin 4) : OnlyLines t (dropPendingLine l t) := by
  unfold dropPendingLine
  split
  · rename_i c slot pending
    unfold OnlyLines
    have posts := (Posts.completePlain slot .cancelled (modLine l (fun x => { x with pending := none }) t)).rest
    rw [posts]
    rfl
  · rfl

theorem dropPendingLines_rest (s : Block) : OnlyLines s (dropPendingLines s) :=
  foldl_chain (R := OnlyLines) (fun _ => rfl) OnlyLines.trans dropPendingLine_rest allLines s

/-! ### The frame values and the snapshot (R110, R180) -/

def frameEnds (s : Block) : List (Fin 32 × ResultCode) := match s.time.pending with | some (_, slot) => [(slot, .cancelled)] | none => []

theorem dropPendingFrame_rest (s : Block) : dropPendingFrame s = { s with
    time := { s.time with pending := none }, results := (dropPendingFrame s).results, port := (dropPendingFrame s).port } := by
  unfold dropPendingFrame
  split
  · exact (Posts.completePlain _ _ (modTime (fun t => { t with pending := none }) s)).rest
  · rename_i pending
    rw [← pending]

theorem dropPendingFrame_ends {s : Block} (runs : s.engine.state ≠ .halted) : Completes (frameEnds s) s (dropPendingFrame s) := by
  cases pending : s.time.pending with
  | none =>
    simp only [dropPendingFrame, frameEnds, pending]
    exact .of_same rfl rfl
  | some waiting =>
    simp only [dropPendingFrame, frameEnds, pending]
    have last := Completes.complete (i := waiting.2) (code := .cancelled) (s := modTime (fun t => { t with pending := none }) s) runs
    exact ⟨last.queue, last.reserved, last.engine⟩

/-- A snapshot that waits is gone (R180). -/
def keptSnapshot (x : Option SnapshotJob) : Option SnapshotJob := x.bind fun j => if j.step = .waiting then none else some j

def snapshotEnds (s : Block) : List (Fin 32 × ResultCode) :=
  match s.status.snapshot with | some ⟨slot, _, .waiting⟩ => [(slot, .cancelled)] | _ => []

theorem statusStop_rest (s : Block) : statusStop s = { s with
    status := { s.status with snapshot := keptSnapshot s.status.snapshot }, results := (statusStop s).results, port := (statusStop s).port } := by
  unfold statusStop
  split
  · rename_i slot address waiting
    have gone : keptSnapshot s.status.snapshot = none := by rw [waiting]; rfl
    rw [gone, endSnapshot, waiting]
    exact (Posts.completePlain _ _ (modStatus (fun w => { w with snapshot := none }) s)).rest
  · rename_i other
    have kept : keptSnapshot s.status.snapshot = s.status.snapshot := by
      cases snapshot : s.status.snapshot with
      | none => rfl
      | some j => 
        refine if_neg fun waits => other j.slot j.address ?_
        rw [snapshot, ← waits]
    rw [kept]

theorem statusStop_ends {s : Block} (runs : s.engine.state ≠ .halted) : Completes (snapshotEnds s) s (statusStop s) := by
  unfold statusStop
  split
  · rename_i slot address waiting
    have ends : snapshotEnds s = [(slot, .cancelled)] := by rw [snapshotEnds, waiting]
    rw [ends, endSnapshot, waiting]
    have last := Completes.complete (i := slot) (code := .cancelled) (s := modStatus (fun w => { w with snapshot := none }) s) runs
    exact ⟨last.queue, last.reserved, last.engine⟩
  · rename_i other
    have ends : snapshotEnds s = [] := by
      unfold snapshotEnds
      split
      · exact absurd ‹_› (other _ _)
      · rfl
    rw [ends]
    exact .of_same rfl rfl

end Sys2Proof.Machine
end

section
/-! SUPPORT. The clearing of R24: what it leaves of a playback, of the loader and of the mixer's views (R24, R40, R41, R59). -/

namespace Sys2Proof.Machine

/-- The edit of a playback, as the mixer takes it (R40). -/
def editedMixer (p : Fin 8) (view : PlaybackView) (freed : Nat) (m : Mixer) : Mixer :=
  match m.pass with
  | none => { m with views := setAt m.views p view }
  | some _ => { m with held := m.held ++ [⟨p, view, freed⟩] }

/-- Nothing changes but the playbacks, the loader, the mixer, the results and the port. -/
def OnlyPlaybacks (s t : Block) : Prop :=
  t = { s with playbacks := t.playbacks, loader := t.loader, results := t.results, port := t.port, mixer := t.mixer }

theorem OnlyPlaybacks.trans {s t u : Block} (h : OnlyPlaybacks s t) (k : OnlyPlaybacks t u) : OnlyPlaybacks s u := by
  unfold OnlyPlaybacks at h k ⊢
  rw [k, h]

theorem OnlyPlaybacks.edited (p : Fin 8) (freed : Nat) (x : Playback) (t : Block) : OnlyPlaybacks t (edit p freed (setPlayback p x t)) := by
  unfold OnlyPlaybacks
  rw [edit_eq]
  rfl

/-- A clearing of one playback: what `LeavesOff` says, with the set gone and the edit of it. -/
structure Clears (p : Fin 8) (s t : Block) : Prop where
  playbacks : t.playbacks = setAt s.playbacks p (clearedPlayback (playbackOf s p))
  loader : t.loader = leftLoader p (playbackOf s p).load s.loader
  mixer : t.mixer = editedMixer p (clearedPlayback (playbackOf s p)).view (playbackOf s p).entries.length s.mixer
  ends : s.engine.state ≠ .halted → Completes (leftOffEnds (playbackOf s p)) s t
  rest : OnlyPlaybacks s t

/-- A playback left off, once its set, its timers and its last cue record are cleared. -/
def emptied (x : Playback) : Playback :=
  { x with fade := .idle, remembered := none, entries := [], timing := .cleared, follow := none, lastCue := none }

theorem clearPlayback_eq (p : Fin 8) (s : Block) :
    clearPlayback p s = edit p (playbackOf (cancelAndAbandon p s) p).entries.length
      (setPlayback p (emptied (playbackOf (cancelAndAbandon p s) p)) (cancelAndAbandon p s)) := rfl

theorem clears (p : Fin 8) (s : Block) : Clears p s (clearPlayback p s) := by
  obtain ⟨playbacks, loader, ends, rest⟩ := leavesOff p s
  have mixer : (cancelAndAbandon p s).mixer = s.mixer := by rw [rest]
  have left : playbackOf (cancelAndAbandon p s) p = leftOff (playbackOf s p) := by rw [playbackOf, playbacks, getAt_setAt]
  rw [clearPlayback_eq, left]
  generalize cancelAndAbandon p s = t at *
  have cleared : emptied (leftOff (playbackOf s p)) = clearedPlayback (playbackOf s p) := rfl
  rw [cleared]
  have set : (setPlayback p (clearedPlayback (playbackOf s p)) t).playbacks = setAt s.playbacks p (clearedPlayback (playbackOf s p)) := by
    rw [setPlayback_playbacks, playbacks, setAt_setAt]
  refine ⟨?_, ?_, ?_, fun runs => ?_, ?_⟩
  · rw [edit_playbacks, set]
  · rw [edit_eq]
    exact loader
  · rw [edit_mixer, playbackOf_setPlayback, setPlayback_mixer, mixer]
    rfl
  · exact (ends runs).of_results (by rw [edit_results]; rfl) (by rw [edit_engine]; rfl)
  · have before : OnlyPlaybacks s t := by
      unfold OnlyPlaybacks
      rw [mixer]
      exact rest
    exact before.trans (.edited ..)

theorem clears_each (t : Block) (p : Fin 8) : EndsEach playbackOf clearedPlayback leftOffEnds [p] t (clearPlayback p t) := by
  have h := clears p t
  refine ⟨fun q => ?_, fun runs => ?_⟩
  · simp only [playbackOf, h.playbacks, getAt_setAt_ite, List.mem_singleton]
    split
    · rename_i same
      rw [same]
    · rfl
  · rw [List.flatMap_cons, List.flatMap_nil, List.append_nil]
    exact h.ends runs

/-- The playbacks of `ps` are cleared one after another. -/
structure ClearsAll (ps : List (Fin 8)) (s t : Block) : Prop where
  each : EndsEach playbackOf clearedPlayback leftOffEnds ps s t
  loader : t.loader = ps.foldl (fun l p => leftLoader p (playbackOf s p).load l) s.loader
  mixer : t.mixer = ps.foldl (fun m p => editedMixer p (clearedPlayback (playbackOf s p)).view (playbackOf s p).entries.length m) s.mixer
  rest : OnlyPlaybacks s t

theorem clearsAll {ps : List (Fin 8)} (nodup : ps.Nodup) (s : Block) : ClearsAll ps s (ps.foldl (fun t p => clearPlayback p t) s) := by
  have each := EndsEach.foldl (op := fun t p => clearPlayback p t) clears_each nodup s
  have rest : OnlyPlaybacks s (ps.foldl (fun t p => clearPlayback p t) s) :=
    foldl_chain (R := OnlyPlaybacks) (fun _ => rfl) OnlyPlaybacks.trans (fun t p => (clears p t).rest) ps s
  have parts : (ps.foldl (fun t p => clearPlayback p t) s).loader = ps.foldl (fun l p => leftLoader p (playbackOf s p).load l) s.loader
      ∧ (ps.foldl (fun t p => clearPlayback p t) s).mixer
        = ps.foldl (fun m p => editedMixer p (clearedPlayback (playbackOf s p)).view (playbackOf s p).entries.length m) s.mixer := by
    clear each rest
    induction ps generalizing s with
    | nil => exact ⟨rfl, rfl⟩
    | cons p others ih =>
      obtain ⟨new, nodup⟩ := List.nodup_cons.1 nodup
      have h := clears p s
      have same : ∀ q ∈ others, playbackOf (clearPlayback p s) q = playbackOf s q := fun q hq => by
        rw [playbackOf, h.playbacks, getAt_setAt_ne]
        · rfl
        · exact fun e => new (e ▸ hq)
      obtain ⟨loader, mixer⟩ := ih nodup (clearPlayback p s)
      rw [List.foldl_cons, loader, mixer, h.loader, h.mixer]
      exact ⟨List.foldl_ext _ _ _ fun _ q hq => by rw [same q hq], List.foldl_ext _ _ _ fun _ q hq => by rw [same q hq]⟩
  exact ⟨each, parts.1, parts.2, rest⟩

/-! ### The loader once every playback has left off -/

/-- The loader after the playbacks `ps`, whose load states are `load`, have left off. -/
theorem leftLoader_all (load : Fin 8 → LoadState) (ps : List (Fin 8)) (l : Loader) :
    ps.foldl (fun l p => leftLoader p (load p) l) l = { l with
      queue := l.queue.filter fun j => !(decide (j.playback ∈ ps) && load j.playback == .waiting)
      current := l.current.map fun c =>
        if c.job.playback ∈ ps ∧ load c.job.playback = .reading then { c with abandon := true } else c } := by
  induction ps generalizing l with
  | nil => simp
  | cons p rest ih =>
    rw [List.foldl_cons, ih, leftLoader]
    have queue : (if load p = .waiting then l.queue.filter fun j => j.playback != p else l.queue).filter
          (fun j => !(decide (j.playback ∈ rest) && load j.playback == .waiting))
        = l.queue.filter fun j => !(decide (j.playback ∈ p :: rest) && load j.playback == .waiting) := by
      split
      · rename_i waits
        rw [List.filter_filter]
        refine List.filter_congr fun j _ => ?_
        by_cases same : j.playback = p
        · simp [same, waits]
        · simp [same]
      · rename_i other
        refine List.filter_congr fun j _ => ?_
        by_cases same : j.playback = p
        · simp [same, other]
        · simp [same]
    have current : (if load p = .reading then l.current.map (marked p) else l.current).map
          (fun c => if c.job.playback ∈ rest ∧ load c.job.playback = .reading then { c with abandon := true } else c)
        = l.current.map fun c =>
            if c.job.playback ∈ p :: rest ∧ load c.job.playback = .reading then { c with abandon := true } else c := by
      cases l.current with
      | none => simp
      | some c =>
        by_cases same : c.job.playback = p
        · by_cases reads : load p = .reading
          · simp [marked, same, reads]
          · simp [same, reads]
        · by_cases reads : load p = .reading
          · simp [marked, same, reads]
          · simp [same, reads]
    rw [queue, current]

/-! ### The mixer once every playback is edited -/

theorem editedMixer_all_between (view : Fin 8 → PlaybackView) (freed : Fin 8 → Nat) (ps : List (Fin 8)) {m : Mixer} (between : m.pass = none) :
    ps.foldl (fun m p => editedMixer p (view p) (freed p) m) m = { m with views := ps.foldl (fun v p => setAt v p (view p)) m.views } := by
  induction ps generalizing m with
  | nil => rfl
  | cons p rest ih =>
    have first : editedMixer p (view p) (freed p) m = { m with views := setAt m.views p (view p) } := by rw [editedMixer, between]
    rw [List.foldl_cons, first, ih (m := { m with views := setAt m.views p (view p) }) between]
    rfl

theorem editedMixer_all_during (view : Fin 8 → PlaybackView) (freed : Fin 8 → Nat) (ps : List (Fin 8)) {m : Mixer} (during : m.pass.isSome) :
    ps.foldl (fun m p => editedMixer p (view p) (freed p) m) m
      = { m with held := m.held ++ ps.map fun p => ⟨p, view p, freed p⟩ } := by
  obtain ⟨latch, pass⟩ := Option.isSome_iff_exists.1 during
  clear during
  induction ps generalizing m with
  | nil => simp
  | cons p rest ih =>
    have first : editedMixer p (view p) (freed p) m = { m with held := m.held ++ [⟨p, view p, freed p⟩] } := by rw [editedMixer, pass]
    rw [List.foldl_cons, first, ih (m := { m with held := m.held ++ [⟨p, view p, freed p⟩] }) pass]
    simp

theorem views_all (view : Fin 8 → PlaybackView) (views : Vector PlaybackView 8) :
    allPlaybacks.foldl (fun v p => setAt v p (view p)) views = Vector.ofFn view := by
  have each : ∀ q, getAt (allPlaybacks.foldl (fun v p => setAt v p (view p)) views) q = view q := by
    intro q
    simp only [allPlaybacks, List.foldl_cons, List.foldl_nil, getAt_setAt_ite]
    fin_cases q <;> rfl
  refine Vector.ext fun i low => ?_
  rw [Vector.getElem_ofFn]
  exact each ⟨i, low⟩

theorem mem_allPlaybacks (p : Fin 8) : p ∈ allPlaybacks := by
  revert p
  decide

/-- Every playback cleared: the playbacks, the loader and the mixer (R24). -/
theorem clearPlaybacks_clears (s : Block) :
    (∀ p, playbackOf (clearPlaybacks s) p = clearedPlayback (playbackOf s p))
    ∧ (clearPlaybacks s).loader = { s.loader with
        queue := s.loader.queue.filter fun j => (playbackOf s j.playback).load != .waiting
        current := s.loader.current.map fun c =>
          if (playbackOf s c.job.playback).load = .reading then { c with abandon := true } else c }
    ∧ TheClearingReachesTheMixer s (clearPlaybacks s)
    ∧ (s.engine.state ≠ .halted → Completes (allPlaybacks.flatMap fun p => leftOffEnds (playbackOf s p)) s (clearPlaybacks s))
    ∧ OnlyPlaybacks s (clearPlaybacks s) := by
  obtain ⟨each, loader, mixer, rest⟩ : ClearsAll allPlaybacks s (clearPlaybacks s) := clearsAll (by decide) s
  have cleared : ∀ p, playbackOf (clearPlaybacks s) p = clearedPlayback (playbackOf s p) := fun p => by
    rw [each.each, if_pos (mem_allPlaybacks p)]
  refine ⟨cleared, ?_, ⟨fun between => ?_, fun during => ?_⟩, each.ends, rest⟩
  · rw [loader, leftLoader_all]
    simp only [mem_allPlaybacks, decide_true, Bool.true_and, true_and]
    rfl
  · rw [mixer, editedMixer_all_between _ _ _ between, views_all]
    simp only [cleared]
  · have held : (clearPlaybacks s).mixer = { s.mixer with
        held := s.mixer.held
          ++ allPlaybacks.map fun p => ⟨p, (clearedPlayback (playbackOf s p)).view, (playbackOf s p).entries.length⟩ } := by
      rw [mixer, editedMixer_all_during _ _ _ during]
    refine ⟨_, held, ?_, ?_⟩
    · simp only [cleared]
      exact List.Perm.refl _
    · rw [awaitingLanding, held, List.map_append, List.sum_append, List.map_map]
      rfl

end Sys2Proof.Machine
end

section
/-! # The entry into STOPPING (O11) -/

namespace Sys2Proof.Machine

/-! ### The requests that end -/

theorem mem_endsWith {slot : Fin 32} {c code : ResultCode} {rs : List QueuedRequest} :
    (slot, c) ∈ endsWith code rs ↔ c = code ∧ ∃ r ∈ rs, r.origin = .post slot := by
  induction rs with
  | nil => simp [endsWith, postSlots]
  | cons r rest ih =>
    rw [endsWith_cons, List.mem_append, ih]
    cases origin : r.origin with
    | post i =>
      have one : endsWith code [r] = [(i, code)] := by simp [endsWith, postSlots, origin]
      simp [one, origin, and_or_left, eq_comm, and_comm]
    | trigger t => simp [endsWith, postSlots, origin]
    | follow => simp [endsWith, postSlots, origin]

/-- The requests that entry into STOPPING ends, in its order (R193). -/
def stoppingEnds (b : Block) : List (Fin 32 × ResultCode) :=
  allPlaybacks.flatMap (fun p => leftOffEnds (playbackOf b p)) ++ tableEnds .cancelled b
    ++ allLines.flatMap (fun l => queryEnds .cancelled (lineOf b l)) ++ frameEnds b ++ allLines.flatMap (fun l => pendingEnds (lineOf b l))
    ++ snapshotEnds b

theorem mem_allLines (l : Fin 4) : l ∈ allLines := by
  revert l
  decide

theorem mem_playbackEnds {b : Block} {slot : Fin 32} {c : ResultCode} :
    (slot, c) ∈ allPlaybacks.flatMap (fun p => leftOffEnds (playbackOf b p)) ↔
      c = .cancelled ∧ (∃ p r, r ∈ waitingRequests (playbackOf b p) ∧ r.origin = .post slot)
      ∨ c = .abandoned ∧ AbandonedByStopping b slot := by
  simp only [List.mem_flatMap, mem_allPlaybacks, true_and, leftOffEnds, List.mem_append, mem_endsWith]
  constructor
  · rintro ⟨p, ⟨code, r, hr, origin⟩ | ⟨code, r, hr, origin⟩⟩
    · exact .inl ⟨code, p, r, hr, origin⟩
    · split at hr
      · rename_i waits
        cases queue : (playbackOf b p).queue with
        | nil => simp [queue] at hr
        | cons first rest =>
          rw [queue, List.take_succ_cons, List.take_zero, List.mem_singleton] at hr
          exact .inr ⟨code, p, first, rest, waits, queue, hr ▸ origin⟩
      · simp at hr
  · rintro (⟨code, p, r, hr, origin⟩ | ⟨code, p, r, rest, waits, queue, origin⟩)
    · exact ⟨p, .inl ⟨code, r, hr, origin⟩⟩
    · refine ⟨p, .inr ⟨code, r, ?_, origin⟩⟩
      rw [if_pos waits, queue]
      exact List.mem_cons_self

theorem mem_stagingEnds {slot : Fin 32} {c code : ResultCode} {x : Staging} :
    (slot, c) ∈ stagingEnds code x ↔ c = code ∧ ∃ list, x = .ready slot list := by
  cases x with
  | ready i list => simp [stagingEnds, eq_comm, and_comm]
  | filling words => simp [stagingEnds]
  | empty => simp [stagingEnds]

theorem mem_shadowEnds {slot : Fin 32} {c code : ResultCode} {x : Shadow} :
    (slot, c) ∈ shadowEnds code x ↔ c = code ∧ ∃ points, x = .ready slot points := by
  cases x with
  | ready i points => simp [shadowEnds, eq_comm, and_comm]
  | filling points => simp [shadowEnds]
  | empty => simp [shadowEnds]

theorem mem_tableEnds {b : Block} {slot : Fin 32} {c code : ResultCode} :
    (slot, c) ∈ tableEnds code b ↔ c = code ∧ ((∃ j ∈ b.tables.queue, j.slot = slot) ∨ (∃ list, b.tables.staging = .ready slot list)
      ∨ ∃ k points, getAt b.tables.shadows k = .ready slot points) := by
  have jobs : (slot, c) ∈ b.tables.queue.map (fun j => (j.slot, code)) ↔ c = code ∧ ∃ j ∈ b.tables.queue, j.slot = slot := by
    simp [eq_comm, and_comm, and_left_comm]
  have shadows : (slot, c) ∈ allShadows.flatMap (fun k => shadowEnds code (shadowOf b k))
      ↔ c = code ∧ ∃ k points, getAt b.tables.shadows k = .ready slot points := by
    simp [List.mem_flatMap, mem_allShadows, mem_shadowEnds, shadowOf]
  rw [tableEnds, List.mem_append, List.mem_append, jobs, mem_stagingEnds, shadows, ← and_or_left, ← and_or_left, or_assoc]

theorem mem_queryEnds {b : Block} {slot : Fin 32} {c code : ResultCode} :
    (slot, c) ∈ allLines.flatMap (fun l => queryEnds code (lineOf b l)) ↔ c = code ∧ ∃ l, ∃ x ∈ (lineOf b l).queries, x.slot = slot := by
  have one : ∀ x : Line, (slot, c) ∈ queryEnds code x ↔ c = code ∧ ∃ q ∈ x.queries, q.slot = slot := by
    simp [queryEnds, eq_comm, and_comm, and_left_comm]
  simp [List.mem_flatMap, mem_allLines, one]

theorem mem_frameEnds {b : Block} {slot : Fin 32} {c : ResultCode} :
    (slot, c) ∈ frameEnds b ↔ c = .cancelled ∧ ∃ v, b.time.pending = some (v, slot) := by
  cases pending : b.time.pending with
  | none => simp [frameEnds, pending]
  | some waiting => simp [frameEnds, pending, Prod.ext_iff, eq_comm, and_comm]

theorem mem_pendingEnds {b : Block} {slot : Fin 32} {c : ResultCode} :
    (slot, c) ∈ allLines.flatMap (fun l => pendingEnds (lineOf b l)) ↔ c = .cancelled ∧ ∃ l f, (lineOf b l).pending = some (f, slot) := by
  have one : ∀ x : Line, (slot, c) ∈ pendingEnds x ↔ c = .cancelled ∧ ∃ f, x.pending = some (f, slot) := by
    intro x
    cases pending : x.pending with
    | none => simp [pendingEnds, pending]
    | some waiting => simp [pendingEnds, pending, Prod.ext_iff, eq_comm, and_comm]
  simp [List.mem_flatMap, mem_allLines, one]

theorem mem_snapshotEnds {b : Block} {slot : Fin 32} {c : ResultCode} :
    (slot, c) ∈ snapshotEnds b ↔ c = .cancelled ∧ ∃ a, b.status.snapshot = some ⟨slot, a, .waiting⟩ := by
  unfold snapshotEnds
  split
  · rename_i i address snapshot
    simp [snapshot, eq_comm, and_comm]
  · rename_i other
    simp only [List.not_mem_nil, false_iff, not_and, not_exists]
    exact fun _ a snapshot => other slot a snapshot

/-- What entry into STOPPING ends, by its codes. -/
theorem mem_stoppingEnds {b : Block} {slot : Fin 32} {c : ResultCode} :
    (slot, c) ∈ stoppingEnds b ↔ c = .cancelled ∧ CancelledByStopping b slot ∨ c = .abandoned ∧ AbandonedByStopping b slot := by
  simp only [stoppingEnds, List.mem_append, mem_playbackEnds, mem_tableEnds, mem_queryEnds, mem_frameEnds, mem_pendingEnds, mem_snapshotEnds,
    CancelledByStopping, waitingRequests, and_or_left]
  exact iff_of_eq (by ac_rfl)

/-! ### The entry -/

/-- What entry into STOPPING makes of the part `s`. -/
structure StoppingEntered (s t : Block) : Prop where
  playbacks : ∀ p, playbackOf t p = clearedPlayback (playbackOf s p)
  mixer : TheClearingReachesTheMixer s t
  loader : t.loader = { s.loader with
    queue := s.loader.queue.filter fun j => (playbackOf s j.playback).load != .waiting
    current := s.loader.current.map fun c => if (playbackOf s c.job.playback).load = .reading then { c with abandon := true } else c }
  tables : t.tables = { s.tables with queue := [], staging := keptStaging s.tables.staging, shadows := t.tables.shadows }
  shadows : ∀ k, shadowOf t k = keptShadow (shadowOf s k)
  lines : ∀ l, lineOf t l = unpendingLine (stoppedLine (lineOf s l))
  ends : Completes (stoppingEnds s) { s with engine := { s.engine with state := .stopping } } t
  rest : t = { s with
    engine := { s.engine with state := .stopping }, playbacks := t.playbacks, loader := t.loader, mixer := t.mixer, tables := t.tables
    lines := t.lines, time := { s.time with pending := none }, status := { s.status with snapshot := keptSnapshot s.status.snapshot }
    store := { s.store with hold := true }, results := t.results, port := t.port }

theorem stoppingEntered (s : Block) : StoppingEntered s (enterStopping s) := by
  have steps : enterStopping s = modStore (fun f => { f with hold := true }) (statusStop (dropPendingLines (dropPendingFrame (talkbackStop
      (endTables .cancelled (clearPlaybacks (modEngine (fun e => { e with state := .stopping }) s))))))) := rfl
  rw [steps]
  have stopping : (modEngine (fun e => { e with state := .stopping }) s) = { s with engine := { s.engine with state := .stopping } } := rfl
  rw [stopping]
  generalize entered : ({ s with engine := { s.engine with state := .stopping } } : Block) = s0
  have runs : s0.engine.state ≠ .halted := by
    rw [← entered]
    exact nofun
  obtain ⟨cleared, loader, mixer, ends1, rest1⟩ := clearPlaybacks_clears s0
  generalize clearPlaybacks s0 = s1 at *
  obtain ⟨queue, reader, staging, shadows, ends2, rest2⟩ := tablesEnd .cancelled s1
  generalize endTables .cancelled s1 = s2 at *
  obtain ⟨lines3, ends3⟩ := talkbackStop_each s2
  have rest3 := talkbackStop_rest s2
  generalize talkbackStop s2 = s3 at *
  have rest4 := dropPendingFrame_rest s3
  have ends4 := dropPendingFrame_ends (s := s3)
  generalize dropPendingFrame s3 = s4 at *
  obtain ⟨lines5, ends5⟩ := dropPendingLines_each s4
  have rest5 := dropPendingLines_rest s4
  generalize dropPendingLines s4 = s5 at *
  have rest6 := statusStop_rest s5
  have ends6 := statusStop_ends (s := s5)
  generalize statusStop s5 = s6 at *
  have live1 : s1.engine = s0.engine := by rw [rest1]
  have live2 : s2.engine = s0.engine := by rw [rest2, live1]
  have live3 : s3.engine = s0.engine := by rw [rest3, live2]
  have live4 : s4.engine = s0.engine := by rw [rest4, live3]
  have live5 : s5.engine = s0.engine := by rw [rest5, live4]
  have tables1 : s1.tables = s0.tables := by rw [rest1]
  have lines2 : s2.lines = s0.lines := by rw [rest2, rest1]
  have line2 : ∀ l, lineOf s2 l = lineOf s0 l := fun l => congrArg (getAt · l) lines2
  have line4 : ∀ l, lineOf s4 l = stoppedLine (lineOf s0 l) := fun l => by
    have same : s4.lines = s3.lines := by rw [rest4]
    rw [lineOf, same]
    exact (lines3 l).trans (by rw [if_pos (mem_allLines l), line2])
  have time3 : s3.time = s0.time := by rw [rest3, rest2, rest1]
  have status5 : s5.status = s0.status := by rw [rest5, rest4, rest3, rest2, rest1]
  have all : modStore (fun f => { f with hold := true }) s6 = { s0 with
      playbacks := s1.playbacks, loader := s1.loader, mixer := s1.mixer, tables := s2.tables, lines := s5.lines
      time := { s0.time with pending := none }, status := { s0.status with snapshot := keptSnapshot s0.status.snapshot }
      store := { s0.store with hold := true }, results := s6.results, port := s6.port } := by
    rw [modStore, rest6, status5, rest5, rest4, time3, rest3, rest2, rest1]
  have ended : Completes (stoppingEnds s0) s0 s6 := by
    have frame : frameEnds s3 = frameEnds s0 := by rw [frameEnds, frameEnds, time3]
    have snapshot : snapshotEnds s5 = snapshotEnds s0 := by rw [snapshotEnds, snapshotEnds, status5]
    have tables : tableEnds .cancelled s1 = tableEnds .cancelled s0 := by simp only [tableEnds, shadowOf, tables1]
    have pending : ∀ x : Line, pendingEnds (stoppedLine x) = pendingEnds x := fun _ => rfl
    have last2 := ends2 (by rw [live1]; exact runs)
    have last3 := ends3 (by rw [live2]; exact runs)
    have last4 := ends4 (by rw [live3]; exact runs)
    have last5 := ends5 (by rw [live4]; exact runs)
    have last6 := ends6 (by rw [live5]; exact runs)
    simp only [line2] at last3
    simp only [line4, pending] at last5
    rw [tables] at last2
    rw [frame] at last4
    rw [snapshot] at last6
    exact (((((ends1 runs).trans last2).trans last3).trans last4).trans last5).trans last6
  subst entered
  rw [all]
  refine ⟨cleared, mixer, loader, ?_, fun k => ?_, fun l => ?_, ⟨ended.queue, ended.reserved, rfl⟩, rfl⟩
  · change s2.tables = _
    rw [tables1] at reader staging
    generalize s2.tables = tables2 at *
    cases tables2
    cases queue
    cases reader
    cases staging
    rfl
  · exact (shadows k).trans (by rw [shadowOf, tables1]; rfl)
  · exact (lines5 l).trans (by rw [if_pos (mem_allLines l), line4]; rfl)

/-! ### The command -/

/-- What RUN_SET and RUN_CLEAR make of a word: RUN as they ask, SOFT_RESET 0, the other bits as they are (notes/assumptions/7.md). -/
theorem withRun_getLsbD (run : Bool) (v : Word) (i : Nat) :
    (withRun run v).getLsbD i = if i = 0 then run else if i = 8 then false else v.getLsbD i := by
  rcases Nat.lt_or_ge i 32 with low | high
  · have mask : (0x101#32).getLsbD i = (decide (i = 0) || decide (i = 8)) := by
      revert i
      decide
    have one : (1#32).getLsbD i = decide (i = 0) := by
      revert i
      decide
    unfold withRun
    cases run with
    | true =>
      rw [if_pos rfl, BitVec.getLsbD_or, BitVec.getLsbD_and, BitVec.getLsbD_not, mask, one]
      by_cases zero : i = 0
      · simp [zero]
      · by_cases eight : i = 8
        · simp [eight]
        · simp [zero, eight, low]
    | false =>
      rw [if_neg Bool.false_ne_true, BitVec.getLsbD_and, BitVec.getLsbD_not, mask]
      by_cases zero : i = 0
      · simp [zero]
      · by_cases eight : i = 8
        · simp [eight]
        · simp [zero, eight, low]
  · rw [BitVec.getLsbD_of_ge _ _ high, BitVec.getLsbD_of_ge _ _ high, if_neg (by omega)]
    split <;> rfl

theorem controlTakes_controlOf (run : Bool) (v : Word) : ControlTakes run v (controlOf (withRun run v)) := by
  have wait : (withRun run v >>> 4).setWidth 3 = (v >>> 4).setWidth 3 := by
    refine BitVec.eq_of_getLsbD_eq fun i low => ?_
    rw [BitVec.getLsbD_setWidth, BitVec.getLsbD_setWidth, BitVec.getLsbD_ushiftRight, BitVec.getLsbD_ushiftRight, withRun_getLsbD,
      if_neg (by omega), if_neg (by omega)]
  refine ⟨withRun_getLsbD run v 0, withRun_getLsbD run v 1, withRun_getLsbD run v 2, ?_⟩
  rw [controlOf, wait, BitVec.toNat_setWidth, BitVec.toNat_ushiftRight, Nat.shiftRight_eq_div_pow]

theorem withRun_false (v : Word) : (withRun false v).getLsbD 0 = false := withRun_getLsbD false v 0

theorem runClear_running {v : Word} {done : Nat} {b : Block} {q : List Instr} (phase : b.engine.phase = .released)
    (state : b.engine.state = .running) :
    exec (.runClear ⟨v, done⟩) ⟨b, q⟩ = .next ⟨enterStopping { b with control := controlOf (withRun false v) }, q⟩ := by
  have takes := answer_taken ((live_iff b).2 phase) (writeControl (withRun false v) done) b q
  have enters : writeControl (withRun false v) done b = enterStopping { b with control := controlOf (withRun false v) } := by
    simp only [writeControl, state, withRun_false]
  rw [enters] at takes
  exact takes

/-- Settles O11: STOPPING is entered block by block, and each ends its requests. -/
theorem clearingRunEntersStopping : Obligations.ClearingRunEntersStopping := by
  intro v done b q phase state
  refine ⟨_, runClear_running phase state, ?_⟩
  generalize control : controlOf (withRun false v) = c
  have takes : ControlTakes false v c := control ▸ controlTakes_controlOf false v
  obtain ⟨playbacks, mixer, loader, tables, shadows, lines, ends, rest⟩ := stoppingEntered { b with control := c }
  generalize enterStopping { b with control := c } = t at *
  refine ⟨?_, ?_, playbacks, mixer, loader, ?_, ?_, ?_, ?_⟩
  · rw [rest]
  · rw [rest]
    exact takes
  · rw [tables]
  · rw [tables]
  · rw [tables]
    change keptStaging b.tables.staging = _
    cases b.tables.staging <;> rfl
  · refine ⟨fun k => (shadows k).trans ?_, lines, ?_⟩
    · change keptShadow (getAt b.tables.shadows k) = _
      cases getAt b.tables.shadows k <;> rfl
    · have reports : t.results.queue = b.results.queue ++ completions b.results.reserved (stoppingEnds b) := ends.queue
      refine ⟨by rw [rest], by rw [rest]; rfl, by rw [rest], by rw [rest], by rw [rest], by rw [rest], by rw [rest], by rw [rest],
        by rw [rest], by rw [rest], by rw [rest], _, reports, fun slot reserved ended => ?_, fun c mem => ?_⟩
      · rcases ended with cancelled | abandoned
        · exact completions_covers (x := (slot, .cancelled)) (mem_stoppingEnds.2 (.inl ⟨rfl, cancelled⟩)) reserved
        · exact completions_covers (x := (slot, .abandoned)) (mem_stoppingEnds.2 (.inr ⟨rfl, abandoned⟩)) reserved
      · obtain ⟨ended, v1, v2, v3⟩ := of_mem_completions mem
        exact ⟨v1, v2, v3, mem_stoppingEnds.1 ended⟩

end Sys2Proof.Machine
end

section
/-! SUPPORT. The values of fades, and of a pass by channel, slot and output, as R19, R37 and R68 to R71 tabulate them. -/

namespace Sys2Proof.Machine

/-! ### Fades (R19, R37) -/

/-- A fade within its time stays between its ends, so that its value is no less than 0. -/
theorem interpolate_fades {start goal : Nat} {e : Int} {d : Nat} (begun : 0 ≤ e) (within : e < d) :
    FadesTo start goal e d (interpolate start goal e d) := by
  have long : (0 : Int) < d := lt_of_le_of_lt begun within
  have low : -(start : Int) * d ≤ ((goal : Int) - start) * e := by
    calc -(start : Int) * d ≤ -(start : Int) * e := mul_le_mul_of_nonpos_left within.le (by omega)
      _ ≤ ((goal : Int) - start) * e := mul_le_mul_of_nonneg_right (by omega) begun
  have part : -(start : Int) ≤ Int.tdiv (((goal : Int) - start) * e) d := by
    rcases Int.le_total 0 (((goal : Int) - start) * e) with up | down
    · exact le_trans (by omega) (Int.tdiv_nonneg up long.le)
    · rw [← Int.neg_neg (((goal : Int) - start) * e), Int.neg_tdiv, neg_le_neg_iff, Int.tdiv_eq_ediv_of_nonneg (by omega)]
      exact Int.ediv_le_of_le_mul long (by linarith)
  rw [FadesTo, interpolate, Int.toNat_of_nonneg (by omega)]

theorem masterValue_is (m : FadeRecord) (now : Time) : MasterValueIs m now (m.value now) := by
  unfold MasterValueIs FadeRecord.value
  dsimp only
  generalize showDiff now m.time = e
  refine ⟨fun snap => if_pos snap, fun long before => ?_, fun past => ?_, fun begun within => ?_⟩
  · rw [if_neg (by omega), if_pos before]
  · by_cases zero : m.duration = 0
    · exact if_pos zero
    · rw [if_neg zero, if_neg (by omega), if_pos past]
  · rw [if_neg (by omega), if_neg (by omega), if_neg (by omega)]
    exact interpolate_fades begun.le within

theorem masterValueIs_iff {m : FadeRecord} {now : Time} {v : Nat} : MasterValueIs m now v ↔ v = m.value now := by
  refine ⟨fun h => ?_, fun h => h ▸ masterValue_is m now⟩
  have k := masterValue_is m now
  unfold MasterValueIs at h k
  unfold FadesTo at h k
  dsimp only at h k
  generalize showDiff now m.time = e at *
  obtain ⟨snap, before, past, within⟩ := h
  obtain ⟨snap', before', past', within'⟩ := k
  by_cases zero : m.duration = 0
  · rw [snap zero, snap' zero]
  · rcases le_or_gt e 0 with low | high
    · rw [before (by omega) low, before' (by omega) low]
    · rcases le_or_gt (m.duration : Int) e with done | fading
      · rw [past done, past' done]
      · exact Int.ofNat_inj.1 ((within high fading).trans (within' high fading).symm)

/-- The value of a fade from `start` to `goal` in the time `d`, at the elapsed time `e`, as R37 tabulates it. -/
def TabulatedFade (e : Int) (d start goal v : Nat) : Prop :=
  (e < 0 → v = start) ∧ (0 ≤ e → (d = 0 ∨ (d : Int) ≤ e) → v = goal) ∧ (0 ≤ e → e < d → FadesTo start goal e d v)

theorem fadeValueIs_tabulated {tm : FadeTiming} {now : Time} {x : SetEntry} {v : Nat} :
    FadeValueIs tm now x v ↔ TabulatedFade (tm.elapsed now - tm.delay) (tm.duration x.fadeClass) x.start x.target v := by
  unfold FadeValueIs FadeTiming.elapsed
  cases tm.paused <;> cases x.fadeClass <;> exact Iff.rfl

theorem fadeValue_is (tm : FadeTiming) (now : Time) (x : SetEntry) : FadeValueIs tm now x (fadeValue tm now x) := by
  rw [fadeValueIs_tabulated]
  unfold fadeValue
  dsimp only
  generalize tm.elapsed now - (tm.delay : Int) = e
  generalize tm.duration x.fadeClass = d
  refine ⟨fun before => if_pos before, fun begun past => ?_, fun begun within => ?_⟩
  · rw [if_neg (by omega), if_pos past]
  · rw [if_neg (by omega), if_neg (by omega)]
    exact interpolate_fades begun within

theorem fadeValueIs_iff {tm : FadeTiming} {now : Time} {x : SetEntry} {v : Nat} : FadeValueIs tm now x v ↔ v = fadeValue tm now x := by
  refine ⟨fun h => ?_, fun h => h ▸ fadeValue_is tm now x⟩
  obtain ⟨before, past, within⟩ := fadeValueIs_tabulated.1 h
  obtain ⟨before', past', within'⟩ := fadeValueIs_tabulated.1 (fadeValue_is tm now x)
  rcases lt_or_ge (tm.elapsed now - (tm.delay : Int)) 0 with low | begun
  · rw [before low, before' low]
  · by_cases done : tm.duration x.fadeClass = 0 ∨ (tm.duration x.fadeClass : Int) ≤ tm.elapsed now - tm.delay
    · rw [past begun done, past' begun done]
    · have fading : tm.elapsed now - tm.delay < tm.duration x.fadeClass := by omega
      exact Int.ofNat_inj.1 ((within begun fading).trans (within' begun fading).symm)

/-! ### The largest of a list, and the holder with the largest stamp (R68, R69) -/

theorem foldl_max_spec (xs : List Nat) (a : Nat) :
    a ≤ xs.foldl max a ∧ (∀ x ∈ xs, x ≤ xs.foldl max a) ∧ (xs.foldl max a = a ∨ xs.foldl max a ∈ xs) := by
  induction xs generalizing a with
  | nil => exact ⟨Nat.le_refl a, nofun, .inl rfl⟩
  | cons y rest ih =>
    obtain ⟨first, others, attained⟩ := ih (max a y)
    rw [List.foldl_cons]
    refine ⟨le_trans (Nat.le_max_left a y) first, fun x hx => ?_, ?_⟩
    · rcases List.mem_cons.1 hx with rfl | hx
      · exact le_trans (Nat.le_max_right a x) first
      · exact others x hx
    · rcases attained with same | later
      · rcases Nat.le_total a y with below | above
        · rw [Nat.max_eq_right below] at same ⊢
          rw [same]
          exact .inr List.mem_cons_self
        · rw [Nat.max_eq_left above] at same ⊢
          exact .inl same
      · exact .inr (List.mem_cons_of_mem _ later)

theorem le_largest {xs : List Nat} {x : Nat} (h : x ∈ xs) : x ≤ largest xs := (foldl_max_spec xs 0).2.1 x h

theorem largest_mem {xs : List Nat} (h : xs ≠ []) : largest xs ∈ xs := by
  obtain ⟨-, bound, attained⟩ := foldl_max_spec xs 0
  rcases attained with zero | mem
  · cases xs with
    | nil => exact absurd rfl h
    | cons y rest =>
      have low := bound y List.mem_cons_self
      rw [zero, Nat.le_zero] at low
      change List.foldl max 0 (y :: rest) ∈ _
      rw [zero, low]
      exact List.mem_cons_self
  · exact mem

/-- The latest holder is in the list at a place that no later stamp and no earlier place of the same stamp has. -/
theorem latestHolder_spec {hs : List Holder} {g : Holder} (h : latestHolder hs = some g) :
    ∃ before after, hs = before ++ g :: after ∧ (∀ x ∈ before, x.stamp < g.stamp) ∧ ∀ x ∈ after, x.stamp ≤ g.stamp := by
  induction hs generalizing g with
  | nil => exact nomatch h
  | cons y rest ih =>
    rw [latestHolder] at h
    cases later : latestHolder rest with
    | none =>
      have empty : rest = [] := by
        cases rest with
        | nil => rfl
        | cons z zs =>
          rw [latestHolder] at later
          split at later
          · exact nomatch later
          · split at later <;> exact nomatch later
      rw [later] at h
      cases h
      exact ⟨[], rest, rfl, nofun, empty ▸ nofun⟩
    | some z =>
      rw [later] at h
      obtain ⟨before, after, split, low, rest⟩ := ih later
      dsimp only at h
      split at h
      · cases h
        rename_i less
        refine ⟨y :: before, after, by rw [split]; rfl, fun x hx => ?_, rest⟩
        rcases List.mem_cons.1 hx with rfl | hx
        · exact less
        · exact low x hx
      · cases h
        rename_i notLess
        refine ⟨[], _, rfl, nofun, fun x hx => ?_⟩
        have above : z.stamp ≤ y.stamp := Nat.not_lt.1 notLess
        rw [split, List.mem_append, List.mem_cons] at hx
        rcases hx with hx | rfl | hx
        · exact (low x hx).le.trans above
        · exact above
        · exact (rest x hx).trans above

theorem latestHolder_isSome {hs : List Holder} (h : hs ≠ []) : ∃ g, latestHolder hs = some g := by
  cases hs with
  | nil => exact absurd rfl h
  | cons y rest =>
    rw [latestHolder]
    split
    · exact ⟨y, rfl⟩
    · split
      · exact ⟨_, rfl⟩
      · exact ⟨_, rfl⟩

end Sys2Proof.Machine
end

section
/-! # The end of a pass (O21) -/

namespace Sys2Proof.Machine

/-! ### A channel's value from the playbacks (R68) -/

theorem holdsAs_iff {m : Mixer} {latch : PassLatch} {c : Channel} {p : Fin 8} {n stamp : Nat} :
    HoldsAs m latch c p n stamp ↔ holderIn latch.time c (getAt m.views p) = some ⟨n, stamp⟩ := by
  unfold HoldsAs holderIn entryOf
  simp only [fadeValueIs_iff, masterValueIs_iff, Option.map_eq_some_iff, Holder.mk.injEq, contribution, Config.full]
  constructor
  · rintro ⟨x, v, w, entry, mine, rfl, rfl, rfl⟩
    exact ⟨x, entry, rfl, mine⟩
  · rintro ⟨x, entry, value, mine⟩
    exact ⟨x, _, _, entry, mine, rfl, rfl, value.symm⟩

theorem mem_holdersOf {m : Mixer} {latch : PassLatch} {c : Channel} {h : Holder} :
    h ∈ holdersOf latch.time m.views c ↔ ∃ p, HoldsAs m latch c p h.contribution h.stamp := by
  simp only [holdersOf, List.mem_filterMap, mem_allPlaybacks, true_and, holdsAs_iff]

theorem holdersOf_eq_nil {m : Mixer} {latch : PassLatch} {c : Channel} :
    holdersOf latch.time m.views c = [] ↔ ∀ p n stamp, ¬HoldsAs m latch c p n stamp := by
  rw [List.eq_nil_iff_forall_not_mem]
  exact ⟨fun h p n stamp holds => h ⟨n, stamp⟩ (mem_holdersOf.2 ⟨p, holds⟩), fun h x mem =>
    let ⟨p, holds⟩ := mem_holdersOf.1 mem
    h p _ _ holds⟩

/-- The latest holder comes from the first playback, in ascending number, whose stamp no other exceeds. -/
theorem latestHolder_holds {m : Mixer} {latch : PassLatch} {c : Channel} {g : Holder}
    (h : latestHolder (holdersOf latch.time m.views c) = some g) :
    ∃ p, HoldsAs m latch c p g.contribution g.stamp
      ∧ ∀ p' n' stamp', HoldsAs m latch c p' n' stamp' → stamp' < g.stamp ∨ stamp' = g.stamp ∧ p ≤ p' := by
  obtain ⟨before, after, split, earlier, later⟩ := latestHolder_spec h
  rw [holdersOf, List.filterMap_eq_append_iff] at split
  obtain ⟨lower, upper, all, lowerHolds, upperHolds⟩ := split
  obtain ⟨none, p, above, upperIs, holdNone, holds, aboveHolds⟩ := List.filterMap_eq_cons_iff.1 upperHolds
  refine ⟨p, holdsAs_iff.2 holds, fun p' n' stamp' holds' => ?_⟩
  rw [holdsAs_iff] at holds'
  have ascending : allPlaybacks.Pairwise (· < ·) := by decide
  have mem := mem_allPlaybacks p'
  rw [all, upperIs] at mem ascending
  rw [List.mem_append, List.mem_append, List.mem_cons] at mem
  rcases mem with low | empty | rfl | high
  · have : (⟨n', stamp'⟩ : Holder) ∈ before := lowerHolds ▸ List.mem_filterMap.2 ⟨p', low, holds'⟩
    exact .inl (earlier _ this)
  · rw [holdNone p' empty] at holds'
    exact nomatch holds'
  · rw [holds] at holds'
    cases holds'
    exact .inr ⟨rfl, le_refl p'⟩
  · have : (⟨n', stamp'⟩ : Holder) ∈ after := aboveHolds ▸ List.mem_filterMap.2 ⟨p', high, holds'⟩
    have order : p < p' := (List.pairwise_cons.1 (List.pairwise_append.1 (List.pairwise_append.1 ascending).2.1).2.1).1 p' high
    rcases Nat.lt_or_eq_of_le (later _ this) with less | same
    · exact .inl less
    · exact .inr ⟨same, order.le⟩

theorem playbackValue_is (m : Mixer) (latch : PassLatch) (c : Channel) :
    PlaybackValueIs m latch c (playbackValue (getAt m.patch c).merge (holdersOf latch.time m.views c)) := by
  refine ⟨fun none => ?_, fun ⟨p, n, stamp, holds⟩ => ?_⟩
  · rw [holdersOf_eq_nil.2 none]
    cases (getAt m.patch c).merge <;> rfl
  · have some : holdersOf latch.time m.views c ≠ [] := fun none => holdersOf_eq_nil.1 none p n stamp holds
    refine ⟨fun rule => ?_, fun rule => ?_⟩
    · rw [rule, playbackValue]
      refine ⟨?_, fun p n stamp holds => le_largest (List.mem_map.2 ⟨⟨n, stamp⟩, mem_holdersOf.2 ⟨p, holds⟩, rfl⟩)⟩
      obtain ⟨g, mem, largest⟩ := List.mem_map.1 (largest_mem (mt List.map_eq_nil_iff.1 some))
      obtain ⟨p, holds⟩ := mem_holdersOf.1 mem
      rw [← largest]
      exact ⟨p, g.stamp, holds⟩
    · obtain ⟨g, latest⟩ := latestHolder_isSome some
      obtain ⟨p, holds, first⟩ := latestHolder_holds latest
      rw [rule, playbackValue, latest]
      exact ⟨p, g.stamp, holds, first⟩

/-! ### A channel's value from the input layers (R69) -/

theorem inputOf_eq_some {c : Channel} {v : InputView} {n : Nat} :
    inputOf c v = some n ↔ ∃ i, MapsTo v i c ∧ n = (getAt v.bytes i).toNat * 257 := by
  unfold inputOf MapsTo
  constructor
  · intro h
    split at h
    · rename_i within
      refine ⟨⟨c.val - v.base, within.2⟩, Nat.add_sub_cancel' within.1, (Option.some.inj h).symm⟩
    · exact nomatch h
  · rintro ⟨i, maps, rfl⟩
    have within : v.base ≤ c.val ∧ c.val - v.base < 256 := by omega
    have slot : (⟨c.val - v.base, within.2⟩ : Fin 256) = i := Fin.ext (by dsimp only; omega)
    rw [dif_pos within, slot]

theorem inputValue_is (latch : PassLatch) (c : Channel) : InputValueIs latch c (inputValue latch.inputs c) := by
  unfold inputValue
  refine ⟨fun layer mem i maps => ?_, fun none => ?_, fun ⟨layer, mem, i, maps⟩ => ?_⟩
  · exact le_largest (List.mem_filterMap.2 ⟨layer, mem, inputOf_eq_some.2 ⟨i, maps, rfl⟩⟩)
  · have empty : latch.inputs.filterMap (inputOf c) = [] := by
      rw [List.filterMap_eq_nil_iff]
      intro layer mem
      cases given : inputOf c layer with
      | none => rfl
      | some n =>
        obtain ⟨i, maps, -⟩ := inputOf_eq_some.1 given
        exact absurd maps (none layer mem i)
    rw [empty]
    rfl
  · have some : latch.inputs.filterMap (inputOf c) ≠ [] :=
      List.ne_nil_of_mem (List.mem_filterMap.2 ⟨layer, mem, inputOf_eq_some.2 ⟨i, maps, rfl⟩⟩)
    obtain ⟨layer, mem, given⟩ := List.mem_filterMap.1 (largest_mem some)
    obtain ⟨i, maps, value⟩ := inputOf_eq_some.1 given
    exact ⟨layer, mem, i, maps, value⟩

/-! ### A channel's level (R70) -/

theorem channelLevel_is (m : Mixer) (latch : PassLatch) (c : Channel) : LevelIs m latch c (channelLevel m latch c) := by
  refine ⟨_, _, playbackValue_is m latch c, inputValue_is latch c, fun merged max latestHeld latestFree => ?_⟩
  have level : mergedLevel (getAt m.patch c).merge (holdersOf latch.time m.views c) (inputValue latch.inputs c) = merged := by
    cases rule : (getAt m.patch c).merge with
    | max =>
      rw [max rule, rule]
      rfl
    | latest =>
      rw [mergedLevel]
      by_cases none : holdersOf latch.time m.views c = []
      · rw [latestFree rule (holdersOf_eq_nil.1 none), none]
        rfl
      · have held : ∃ p n stamp, HoldsAs m latch c p n stamp := by
          by_contra absent
          push Not at absent
          exact none (holdersOf_eq_nil.2 absent)
        rw [latestHeld rule held, if_neg (by simpa using none), rule]
  rw [channelLevel, level]
  rfl

/-! ### Slots and outputs (R71) -/

theorem destinationByte_eq_none {v : Nat} {l : Fin 4} {i : Fin 256} {d : Destination} (h : ¬Reaches d l i) : destinationByte v l i d = none := by
  cases d with
  | output n => rfl
  | line l' first wide =>
    unfold destinationByte
    dsimp only
    rw [if_neg, if_neg]
    · rintro ⟨rfl, both, next⟩
      exact h ⟨first, wide, rfl, .inr ⟨both, next⟩⟩
    · rintro ⟨rfl, same⟩
      exact h ⟨first, wide, rfl, .inl same⟩

theorem findSome_destination {v : Nat} {l : Fin 4} {i : Fin 256} {before after : List Destination} {d : Destination}
    (h : ∀ d' ∈ before, ¬Reaches d' l i) {byte : Byte} (k : destinationByte v l i d = some byte) :
    (before ++ d :: after).findSome? (destinationByte v l i) = some byte := by
  have none : before.findSome? (destinationByte v l i) = none :=
    List.findSome?_eq_none_iff.2 fun d' mem => destinationByte_eq_none (h d' mem)
  rw [List.findSome?_append, none, Option.none_or, List.findSome?_cons, k]

theorem imageOf_is (m : Mixer) (latch : PassLatch) : IsTheImageOf m latch (imageOf m latch) := by
  have output : ∀ c : Channel, (if (getAt m.patch c).intensity && latch.blackout then 0
      else curveValue (curveOf m (getAt m.patch c).curve) (getAt (imageOf m latch).levels c)) = outputValue m latch c := fun c => by
    rw [imageOf, getAt_ofFn]
    rfl
  unfold IsTheImageOf
  dsimp only
  refine ⟨fun c => ?_, fun l i free => ?_, fun l i c before d after owned destinations first => ?_, fun n free => ?_, fun n c owned => ?_⟩
  · rw [imageOf, getAt_ofFn]
    exact channelLevel_is m latch c
  · rw [imageOf, getAt_ofFn, getAt_ofFn, imageSlot, free]
  · have slot : getAt (getAt (imageOf m latch).slots l) i
        = ((before ++ d :: after).findSome? (destinationByte (outputValue m latch c) l i)).getD 0 := by
      rw [imageOf, getAt_ofFn, getAt_ofFn, imageSlot, owned, ← destinations]
    rw [slot, output]
    refine ⟨fun wide here => ?_, fun low here next => ?_⟩
    · have byte : destinationByte (outputValue m latch c) l i d = some (BitVec.ofNat 8 (outputValue m latch c / 256)) := by
        rw [here, destinationByte, if_pos ⟨rfl, rfl⟩]
      rw [findSome_destination first byte, Option.getD_some, BitVec.toNat_ofNat]
    · have other : low ≠ i := fun same => by
        rw [same] at next
        omega
      have byte : destinationByte (outputValue m latch c) l i d = some (BitVec.ofNat 8 (outputValue m latch c % 256)) := by
        rw [here, destinationByte, if_neg fun h => other h.2, if_pos ⟨rfl, rfl, next⟩]
      rw [findSome_destination first byte, Option.getD_some, BitVec.toNat_ofNat]
      exact Nat.mod_mod _ _
  · rw [imageOf, getAt_ofFn, imageOutput, free]
  · rw [output, imageOf, getAt_ofFn, imageOutput, owned]

/-! ### The commits of the waiting frames (R135, R138) -/

/-- A line once its COMPLETE staging frame, if it has one, is committed. -/
def committed (now : Time) (x : Line) : Line := match x.staging with | .complete bytes => committedLine now bytes x | _ => x

/-- Whether a commit changes the signal state of a line. -/
def gainsSignal (x : Line) : Prop := ∃ bytes, x.staging = .complete bytes ∧ x.signal ≠ .present

theorem isRaised_raiseInt {src other : IntSource} {s : Block} : isRaised other (raiseInt src s) = true ↔ isRaised other s = true ∨ other = src := by
  simp only [isRaised, raiseInt, IntSource.bit, BitVec.getLsbD_or, Bool.or_eq_true, BitVec.getLsbD_twoPow]
  cases other <;> cases src <;> simp [IntSource.index]

/-- Every line of `ls` has committed its waiting frame. -/
structure Commits (ls : List (Fin 4)) (s t : Block) : Prop where
  each : ∀ l, lineOf t l = if l ∈ ls then committed s.time.clock (lineOf s l) else lineOf s l
  raised : ∀ src, isRaised src t = true ↔ isRaised src s = true ∨ src = .line ∧ ∃ l ∈ ls, gainsSignal (lineOf s l)
  rest : t = { s with lines := t.lines, intStatus := t.intStatus }

theorem lineOf_modLine_ite (l m : Fin 4) (f : Line → Line) (s : Block) :
    lineOf (modLine l f s) m = if m = l then f (lineOf s l) else lineOf s m := by
  simp only [lineOf, modLine_lines, modAt_eq, getAt_setAt_ite]

theorem committed_of_waits {now : Time} {x : Line} (h : ∀ bytes, x.staging ≠ .complete bytes) : committed now x = x := by
  unfold committed
  split
  · exact absurd ‹_› (h _)
  · rfl

theorem committed_of_complete {now : Time} {x : Line} {bytes : List Byte} (h : x.staging = .complete bytes) :
    committed now x = committedLine now bytes x := by rw [committed, h]

/-- A line without a waiting frame stays, and has no part in LINE. -/
theorem commits_of_waits {l : Fin 4} {s : Block} (h : ∀ bytes, (lineOf s l).staging ≠ .complete bytes) : Commits [l] s s := by
  refine ⟨fun m => ?_, fun src => ?_, rfl⟩
  · split
    · rename_i here
      rw [List.mem_singleton.1 here, committed_of_waits h]
    · rfl
  · simp [gainsSignal, h]

theorem commits_commit (l : Fin 4) (s : Block) : Commits [l] s (commit l s) := by
  unfold commit
  dsimp only
  split
  · rename_i bytes staging
    have line : ∀ m, lineOf (modLine l (committedLine s.time.clock bytes) s) m
        = if m ∈ [l] then committed s.time.clock (lineOf s m) else lineOf s m := fun m => by
      rw [lineOf_modLine_ite, ← committed_of_complete staging]
      simp only [List.mem_singleton]
      split
      · rename_i here
        rw [here]
      · rfl
    split
    · rename_i present
      refine ⟨line, fun src => ?_, rfl⟩
      simp [gainsSignal, present]
      rfl
    · rename_i absent
      refine ⟨line, fun src => ?_, rfl⟩
      have gains : gainsSignal (lineOf s l) := ⟨bytes, staging, absent⟩
      rw [isRaised_raiseInt]
      simp [gains]
      rfl
  · rename_i waits
    exact commits_of_waits waits

theorem Commits.cons {l : Fin 4} {ls : List (Fin 4)} {s t u : Block} (h : Commits [l] s t) (k : Commits ls t u) (new : l ∉ ls) :
    Commits (l :: ls) s u := by
  have time : t.time = s.time := by rw [h.rest]
  have other : ∀ m ∈ ls, lineOf t m = lineOf s m := fun m hm => by
    rw [h.each, if_neg]
    exact fun e => new (List.mem_singleton.1 e ▸ hm)
  refine ⟨fun m => ?_, fun src => ?_, ?_⟩
  · rw [k.each, time]
    by_cases later : m ∈ ls
    · rw [if_pos later, if_pos (List.mem_cons_of_mem _ later), other m later]
    · rw [if_neg later, h.each]
      simp only [List.mem_cons, List.not_mem_nil, later, or_false]
  · have same : (∃ m ∈ ls, gainsSignal (lineOf t m)) ↔ ∃ m ∈ ls, gainsSignal (lineOf s m) :=
      exists_congr fun m => and_congr_right fun hm => by rw [other m hm]
    rw [k.raised, h.raised, same]
    simp only [List.mem_cons, List.not_mem_nil, or_false, exists_eq_left, exists_eq_or_imp, or_assoc, ← and_or_left]
  · rw [k.rest, h.rest]

theorem commits {ls : List (Fin 4)} (nodup : ls.Nodup) (s : Block) : Commits ls s (ls.foldl (fun t l => commit l t) s) := by
  induction ls generalizing s with
  | nil => exact ⟨fun _ => rfl, fun _ => by simp, rfl⟩
  | cons l rest ih =>
    obtain ⟨new, others⟩ := List.nodup_cons.1 nodup
    exact (commits_commit l s).cons (ih others (commit l s)) new

/-! ### The event -/

theorem putWorking_working (f : FrameStore) (x : Image) : (f.putWorking x).working = x := by
  unfold FrameStore.putWorking FrameStore.working
  by_cases a : f.aPresented = true <;> simp [a]

theorem putWorking_presented (f : FrameStore) (x : Image) : (f.putWorking x).presented = f.presented := by
  unfold FrameStore.putWorking FrameStore.presented
  by_cases a : f.aPresented = true <;> simp [a]

theorem putWorking_flags (f : FrameStore) (x : Image) :
    (f.putWorking x).aPresented = f.aPresented ∧ (f.putWorking x).hold = f.hold := by
  unfold FrameStore.putWorking
  by_cases a : f.aPresented = true <;> simp [a]

/-- Settles O21: the pass ends with its image, and the commits change nothing but the lines and LINE. -/
theorem mixCompleteMarksTheImageAndLandsEdits : Obligations.MixCompleteMarksTheImageAndLandsEdits := by
  intro b q latch phase pass
  have ends : endPass b = mixCompletes latch b := by rw [endPass, pass]
  have taken : exec .mixComplete ⟨b, q⟩ = .next ⟨mixCompletes latch b, q⟩ :=
    ends ▸ answer_taken (by rw [(live_iff b).2 phase, pass]; rfl) endPass b q
  refine ⟨_, taken, ?_⟩
  obtain ⟨each, raised, rest⟩ : Commits allLines (passEnds latch b) (mixCompletes latch b) := commits (by decide) _
  generalize mixCompletes latch b = t at *
  have store : t.store = { b.store.putWorking (imageOf b.mixer latch) with
      complete := if latch.restarted then b.store.complete else true } := by rw [rest]; rfl
  have mixer : t.mixer = { b.mixer with pass := none, held := [], views := landEdits b.mixer.views b.mixer.held } := by rw [rest]; rfl
  have playbacks : t.playbacks = b.playbacks := by rw [rest]; rfl
  have line : ∀ l, lineOf t l = committed b.time.clock (lineOf b l) := fun l => (each l).trans (if_pos (mem_allLines l))
  obtain ⟨aPresented, hold⟩ := putWorking_flags b.store (imageOf b.mixer latch)
  have used : poolInUse t = poolInUse b := by simp only [poolInUse, playbackOf, playbacks]
  have landed : awaitingLanding t = 0 := by rw [awaitingLanding, mixer]; rfl
  refine ⟨?_, ?_, ?_, ?_, ?_, mixer, landed, used, ?_, fun l bytes complete => ?_, fun l waits => ?_, ?_, fun src other => ?_, ?_⟩
  · rw [store]
    exact aPresented
  · rw [store]
    exact hold
  · rw [store]
    exact putWorking_presented ..
  · have working : t.store.working = imageOf b.mixer latch := by
      rw [store]
      exact putWorking_working ..
    rw [working]
    exact imageOf_is ..
  · rw [store]
    cases latch.restarted <;> rfl
  · change 3072 - (poolInUse t + awaitingLanding t) = _
    rw [used, landed, Nat.add_zero]
  · rw [line, committed_of_complete complete]
    rfl
  · rw [line, committed_of_waits waits]
  · rw [raised]
    simp only [true_and, mem_allLines]
    rfl
  · have same : isRaised src t = true ↔ isRaised src b = true := by
      rw [raised]
      simp only [other, false_and, or_false]
      rfl
    exact Bool.eq_iff_iff.2 same
  · rw [store, mixer]
    exact rest

end Sys2Proof.Machine
end

section
/-! SUPPORT. A queue served to its end, as `servedQueue` tabulates it (R7, R9, R12 to R15, R25). -/

namespace Sys2Proof.Machine

/-! ### Edits handed to the mixer (R40) -/

/-- The mixer, handed a list of edits: they land at once between passes, and are held during one. -/
def handed (m : Mixer) (es : List HeldEdit) : Mixer :=
  match m.pass with
  | none => { m with views := landEdits m.views es }
  | some _ => { m with held := m.held ++ es }

theorem landEdits_append (views : Vector PlaybackView 8) (es fs : List HeldEdit) :
    landEdits views (es ++ fs) = landEdits (landEdits views es) fs := by
  induction es generalizing views with
  | nil => rfl
  | cons e rest ih => exact ih _

theorem handed_nil (m : Mixer) : handed m [] = m := by
  unfold handed
  split
  · rfl
  · rw [List.append_nil]

theorem handed_pass (m : Mixer) (es : List HeldEdit) : (handed m es).pass = m.pass := by
  unfold handed
  split <;> rfl

theorem handed_append (m : Mixer) (es fs : List HeldEdit) : handed (handed m es) fs = handed m (es ++ fs) := by
  conv_lhs => rw [handed, handed_pass]
  unfold handed
  cases m.pass with
  | none =>
    dsimp only
    rw [landEdits_append]
  | some latch =>
    dsimp only
    rw [List.append_assoc]

theorem edit_handed (p : Fin 8) (freed : Nat) (s : Block) : (edit p freed s).mixer = handed s.mixer [⟨p, (playbackOf s p).view, freed⟩] := by
  rw [edit_mixer]
  rfl

/-! ### A request that leaves the head -/

/-- What serving a queue makes when its head leaves with a code. -/
def servedAfter (o : Origin) (code : ResultCode) (v : Int) (edits : List PlaybackView) (late : Bool) (later : Served) : Served :=
  ⟨later.playback, completionsOf o code (BitVec.ofInt 32 v) 0 ++ later.ended, edits ++ later.edits, later.job, late || later.late⟩

/-- The requests of a queue each have a place of the result queue of their own (R172). -/
def Reserved (rs : List QueuedRequest) (s : Block) : Prop := (postSlots rs).Nodup ∧ ∀ i ∈ postSlots rs, i ∈ s.results.reserved

/-- The head of the queue `r :: rest` of playback `p` has left from `s` to `t`, with the edits `edits` and the playback `y`. -/
structure HeadLeaves (p : Fin 8) (r : QueuedRequest) (rest : List QueuedRequest) (code : ResultCode) (v1 v2 : Word) (y : Playback)
    (edits : List HeldEdit) (s t : Block) : Prop where
  playbacks : t.playbacks = setAt s.playbacks p { y with queue := rest }
  loader : t.loader = s.loader
  mixer : t.mixer = handed s.mixer edits
  results : s.engine.state ≠ .halted → Reserved (r :: rest) s →
    t.results.queue = s.results.queue ++ completionsOf r.origin code v1 v2 ∧ Reserved rest t
  rest : OnlyPlaybacks s t

theorem postSlots_cons_post (i : Fin 32) (k : QueuedKind) (rest : List QueuedRequest) :
    postSlots (⟨.post i, k⟩ :: rest) = i :: postSlots rest := rfl

/-- A completion to its origin, for a request that has its place. -/
theorem completeOrigin_reserved {r : QueuedRequest} {rest : List QueuedRequest} {s : Block} (code : ResultCode) (v1 v2 : Word)
    (runs : s.engine.state ≠ .halted) (reserved : Reserved (r :: rest) s) :
    (completeOrigin r.origin code v1 v2 s).results.queue = s.results.queue ++ completionsOf r.origin code v1 v2
      ∧ Reserved rest (completeOrigin r.origin code v1 v2 s) := by
  obtain ⟨origin, kind⟩ := r
  cases origin with
  | post i =>
    obtain ⟨nodup, mem⟩ := reserved
    rw [postSlots_cons_post] at nodup mem
    obtain ⟨new, others⟩ := List.nodup_cons.1 nodup
    have place : s.results.reserved.contains i = true := List.contains_iff_mem.2 (mem i List.mem_cons_self)
    refine ⟨complete_reserved_queue place runs .., others, fun j hj => ?_⟩
    rw [completeOrigin, complete_results, if_pos place, if_neg runs]
    exact (List.mem_erase_of_ne fun e : j = i => new (e ▸ hj)).2 (mem j (List.mem_cons_of_mem _ hj))
  | trigger t => exact ⟨(List.append_nil _).symm, reserved⟩
  | follow => exact ⟨(List.append_nil _).symm, reserved⟩

/-- The head completes in a part whose playback has become `y`, and whose mixer has its edits. -/
theorem headLeaves {p : Fin 8} {r : QueuedRequest} {rest : List QueuedRequest} {y : Playback} {edits : List HeldEdit} {s u : Block}
    (code : ResultCode) (v1 v2 : Word) (playbacks : u.playbacks = setAt s.playbacks p { y with queue := r :: rest })
    (loader : u.loader = s.loader) (mixer : u.mixer = handed s.mixer edits) (results : u.results = s.results) (only : OnlyPlaybacks s u) :
    HeadLeaves p r rest code v1 v2 y edits s (finishHead p code v1 v2 u) := by
  have own : playbackOf u p = { y with queue := r :: rest } := by rw [playbackOf, playbacks, getAt_setAt]
  have engine : u.engine = s.engine := by rw [only]
  rw [finishHead_cons (r := r) (rest := rest) (by rw [own]), own]
  refine ⟨?_, ?_, ?_, fun runs reserved => ?_, ?_⟩
  · rw [completeOrigin_playbacks, setPlayback_playbacks, playbacks, setAt_setAt]
  · rw [completeOrigin_loader]
    exact loader
  · rw [completeOrigin_mixer]
    exact mixer
  · have ended := completeOrigin_reserved (r := r) (rest := rest) (s := setPlayback p { y with queue := rest } u) code v1 v2
      (by rw [setPlayback_engine, engine]; exact runs) (by unfold Reserved; rw [setPlayback_results, results]; exact reserved)
    rw [setPlayback_results, results] at ended
    exact ended
  · refine only.trans ?_
    have posts := (Posts.completeOrigin r.origin code v1 v2 (setPlayback p { y with queue := rest } u)).rest
    unfold OnlyPlaybacks
    rw [posts]
    rfl

/-- A head that leaves without an edit. -/
theorem headLeaves_plain {p : Fin 8} {r : QueuedRequest} {rest : List QueuedRequest} {y : Playback} {s : Block} (code : ResultCode)
    (v1 v2 : Word) : HeadLeaves p r rest code v1 v2 y [] s (finishHead p code v1 v2 (setPlayback p { y with queue := r :: rest } s)) :=
  headLeaves code v1 v2 (setPlayback_playbacks ..) rfl (handed_nil _).symm rfl rfl

/-- A head that leaves with an edit of its playback. -/
theorem headLeaves_edited {p : Fin 8} {r : QueuedRequest} {rest : List QueuedRequest} {y : Playback} {s : Block} (code : ResultCode)
    (v1 v2 : Word) : HeadLeaves p r rest code v1 v2 y [⟨p, y.view, 0⟩] s
      (finishHead p code v1 v2 (edit p 0 (setPlayback p { y with queue := r :: rest } s))) := by
  refine headLeaves code v1 v2 ?_ ?_ ?_ ?_ (.edited ..)
  · rw [edit_playbacks, setPlayback_playbacks]
  · rw [edit_eq]
    rfl
  · rw [edit_handed, playbackOf_setPlayback]
    rfl
  · rw [edit_results]
    rfl

theorem setPlayback_own (p : Fin 8) (s : Block) : setPlayback p (playbackOf s p) s = s := by
  rw [setPlayback, playbackOf, setAt_getAt]

/-! ### One head -/

/-- How one head is served: it leaves, `servedQueue` going on with the rest, or it submits its load and stays. -/
inductive ServesHead (halted : Bool) (p : Fin 8) (r : QueuedRequest) (rest : List QueuedRequest) (x : Playback) (s : Block) : Prop
  | leaves (code : ResultCode) (v : Int) (y : Playback) (edits : List PlaybackView) (late : Bool) (load : y.load = x.load)
      (served : servedQueue halted s.time.clock (r :: rest) x = servedAfter r.origin code v edits late (servedQueue halted s.time.clock rest y))
      (step : late = false → HeadLeaves p r rest code (BitVec.ofInt 32 v) 0 y (edits.map fun e => ⟨p, e, 0⟩) s (serveHead p s))
  | submits (bank : Nat) (search : Search) (runs : halted = false)
      (served : servedQueue halted s.time.clock (r :: rest) x
        = ⟨{ x with queue := r :: rest, follow := none, load := .waiting }, [], [], some (bank, search), false⟩)
      (step : serveHead p s = submitLoad p bank search (setPlayback p { x with queue := r :: rest, follow := none } s))

section

variable {halted : Bool} {p : Fin 8} {o : Origin} {rest : List QueuedRequest} {x : Playback} {s : Block}

theorem serveLoad_leaves {k : QueuedKind} {choice : Option (Nat × Search)} {code : ResultCode}
    (own : playbackOf s p = { x with queue := ⟨o, k⟩ :: rest }) (head : serveHead p s = serveLoad p choice s)
    (ends : s.engine.state = .halted ∧ code = .busFault ∨ s.engine.state ≠ .halted ∧ choice = none ∧ code = .cueMissing)
    (served : servedQueue halted s.time.clock (⟨o, k⟩ :: rest) x
      = servedAfter o code 0 [] false (servedQueue halted s.time.clock rest { x with follow := none })) :
    ServesHead halted p ⟨o, k⟩ rest x s := by
  refine .leaves code 0 { x with follow := none } [] false rfl served fun _ => ?_
  have finish : serveHead p s = finishHead p code 0 0 (setPlayback p { x with queue := ⟨o, k⟩ :: rest, follow := none } s) := by
    rw [head]
    unfold serveLoad
    rw [modPlayback_eq, own]
    rcases ends with ⟨halts, rfl⟩ | ⟨runs, rfl, rfl⟩
    · exact if_pos halts
    · exact if_neg runs
  rw [finish]
  exact headLeaves_plain (r := ⟨o, k⟩) (rest := rest) (y := { x with follow := none }) code 0 0

theorem serveLoad_submits {k : QueuedKind} {bank : Nat} {search : Search} (own : playbackOf s p = { x with queue := ⟨o, k⟩ :: rest })
    (head : serveHead p s = serveLoad p (some (bank, search)) s) (runs : halted = false) (live : s.engine.state ≠ .halted)
    (served : servedQueue halted s.time.clock (⟨o, k⟩ :: rest) x
        = ⟨{ x with queue := ⟨o, k⟩ :: rest, follow := none, load := .waiting }, [], [], some (bank, search), false⟩) :
    ServesHead halted p ⟨o, k⟩ rest x s := by
  refine .submits bank search runs served ?_
  rw [head]
  unfold serveLoad
  rw [modPlayback_eq, own]
  exact if_neg live

theorem serveLoad_serves {k : QueuedKind} {bank : Nat} {search : Search} (own : playbackOf s p = { x with queue := ⟨o, k⟩ :: rest })
    (head : serveHead p s = serveLoad p (some (bank, search)) s) (state : halted = decide (s.engine.state = .halted))
    (served : servedQueue halted s.time.clock (⟨o, k⟩ :: rest) x = if halted
        then servedAfter o .busFault 0 [] false (servedQueue halted s.time.clock rest { x with follow := none })
        else ⟨{ x with queue := ⟨o, k⟩ :: rest, follow := none, load := .waiting }, [], [], some (bank, search), false⟩) :
    ServesHead halted p ⟨o, k⟩ rest x s := by
  by_cases halts : s.engine.state = .halted
  · have yes : halted = true := state.trans (decide_eq_true halts)
    rw [if_pos yes] at served
    exact serveLoad_leaves own head (.inl ⟨halts, rfl⟩) served
  · have no : halted = false := state.trans (decide_eq_false halts)
    rw [if_neg (by rw [no]; decide)] at served
    exact serveLoad_submits own head no halts served

theorem servesHead_go {bank cue : Nat} {time : Option Nat} (own : playbackOf s p = { x with queue := ⟨o, .go bank cue time⟩ :: rest })
    (state : halted = decide (s.engine.state = .halted)) : ServesHead halted p ⟨o, .go bank cue time⟩ rest x s :=
  serveLoad_serves own (serveHead_go (o := o) (time := time) (rest := rest) (by rw [own])) state (by cases halted <;> rfl)

theorem servesHead_goNext {given : Option Nat} (own : playbackOf s p = { x with queue := ⟨o, .goNext given⟩ :: rest })
    (state : halted = decide (s.engine.state = .halted)) : ServesHead halted p ⟨o, .goNext given⟩ rest x s := by
  have head : serveHead p s = serveLoad p (nextTarget x.lastCue given) s := by
    rw [serveHead_goNext (o := o) (rest := rest) (by rw [own]), own]
  cases last : x.lastCue with
  | some c =>
    have target : nextTarget x.lastCue given = some (c.bank, if c.follow = .link then .exactly c.linkCue else .above c.cue) := by
      rw [last, nextTarget]
      split <;> rfl
    rw [target] at head
    refine serveLoad_serves own head state ?_
    simp only [servedQueue, last]
    cases halted <;> rfl
  | none =>
    cases given with
    | some bank =>
      rw [last] at head
      refine serveLoad_serves own head state ?_
      simp only [servedQueue, last]
      cases halted <;> rfl
    | none =>
      rw [last] at head
      by_cases halts : s.engine.state = .halted
      · have yes : halted = true := state.trans (decide_eq_true halts)
        refine serveLoad_leaves own head (.inl ⟨halts, rfl⟩) ?_
        simp only [servedQueue, last, yes]
        rfl
      · have no : halted = false := state.trans (decide_eq_false halts)
        refine serveLoad_leaves own head (.inr ⟨halts, rfl, rfl⟩) ?_
        simp only [servedQueue, last, no]
        rfl

/-- A PAUSE that freezes. -/
theorem servesHead_freezes {st : Remembered} {v : Int} (own : playbackOf s p = { x with queue := ⟨o, .pause⟩ :: rest })
    (freezes : Freezes x s.time.clock st v) : ServesHead halted p ⟨o, .pause⟩ rest x s := by
  refine .leaves .ok v { x with fade := .paused, remembered := some st, timing := { x.timing with paused := some v } }
    [({ x with fade := .paused, remembered := some st, timing := { x.timing with paused := some v } } : Playback).view] false rfl ?_ fun _ => ?_
  · rcases freezes with ⟨fade, rfl, rfl⟩ | ⟨fade, rfl, rfl⟩ | ⟨d, fade, follow, rfl, rfl⟩
    · simp only [servedQueue, fade, servedAfter, Bool.false_or]
    · simp only [servedQueue, fade, servedAfter, Bool.false_or]
    · simp only [servedQueue, fade, follow, servedAfter, Bool.false_or]
  · have head : serveHead p s = servePause p s := by
      unfold serveHead
      dsimp only
      rw [own]
    have same : Freezes (playbackOf s p) s.time.clock st v := by
      rw [own]
      exact freezes
    rw [head, servePause_freezes same, own]
    exact headLeaves_edited (r := ⟨o, .pause⟩) (rest := rest) (y := { x with
      fade := .paused, remembered := some st, timing := { x.timing with paused := some v } }) .ok _ 0

/-- A PAUSE that finds nothing to freeze (R14). -/
theorem servesHead_pauseBad (own : playbackOf s p = { x with queue := ⟨o, .pause⟩ :: rest })
    (bad : x.fade = .idle ∨ x.fade = .paused ∨ x.fade = .holding ∧ x.follow = none) : ServesHead halted p ⟨o, .pause⟩ rest x s := by
  refine .leaves .badState 0 x [] false rfl ?_ fun _ => ?_
  · rcases bad with fade | fade | ⟨fade, follow⟩
    · simp only [servedQueue, fade, servedAfter, Bool.false_or]
    · simp only [servedQueue, fade, servedAfter, Bool.false_or]
    · simp only [servedQueue, fade, follow, servedAfter, Bool.false_or]
  · have head : serveHead p s = servePause p s := by
      unfold serveHead
      dsimp only
      rw [own]
    rw [head, servePause_badState (by rw [own]; exact bad)]
    have same : s = setPlayback p { x with queue := ⟨o, .pause⟩ :: rest } s := by rw [← own, setPlayback_own]
    have plain := headLeaves_plain (p := p) (s := s) (r := ⟨o, .pause⟩) (rest := rest) (y := x) .badState (BitVec.ofInt 32 0) 0
    rw [← same] at plain
    exact plain

theorem servesHead_pause (own : playbackOf s p = { x with queue := ⟨o, .pause⟩ :: rest }) : ServesHead halted p ⟨o, .pause⟩ rest x s := by
  cases fade : x.fade with
  | idle => exact servesHead_pauseBad own (.inl fade)
  | fading => exact servesHead_freezes own (.inl ⟨fade, rfl, rfl⟩)
  | holding =>
    cases follow : x.follow with
    | none => exact servesHead_pauseBad own (.inr (.inr ⟨fade, follow⟩))
    | some d => exact servesHead_freezes own (.inr (.inr ⟨d, fade, follow, rfl, rfl⟩))
  | paused => exact servesHead_pauseBad own (.inr (.inl fade))
  | releasing => exact servesHead_freezes own (.inr (.inl ⟨fade, rfl, rfl⟩))

end

end Sys2Proof.Machine
end

section
/-! SUPPORT. A queue served to its end (continued): RESUME, and the whole queue. -/

namespace Sys2Proof.Machine

section

variable {halted : Bool} {p : Fin 8} {o : Origin} {rest : List QueuedRequest} {x : Playback} {s : Block}

theorem serveHead_resume {k : List QueuedRequest} (own : playbackOf s p = { x with queue := ⟨o, .resume⟩ :: k }) :
    serveHead p s = serveResume p s := by
  unfold serveHead
  dsimp only
  rw [own]

/-- What a head that leaves shows of its playback. -/
theorem HeadLeaves.playback {r : QueuedRequest} {code : ResultCode} {v1 v2 : Word} {y : Playback} {edits : List HeldEdit} {s t : Block}
    (h : HeadLeaves p r rest code v1 v2 y edits s t) : playbackOf t p = { y with queue := rest } := by
  rw [playbackOf, h.playbacks, getAt_setAt]

theorem HeadLeaves.time {r : QueuedRequest} {code : ResultCode} {v1 v2 : Word} {y : Playback} {edits : List HeldEdit} {s t : Block}
    (h : HeadLeaves p r rest code v1 v2 y edits s t) : t.time = s.time := by rw [h.rest]

theorem HeadLeaves.engine {r : QueuedRequest} {code : ResultCode} {v1 v2 : Word} {y : Playback} {edits : List HeldEdit} {s t : Block}
    (h : HeadLeaves p r rest code v1 v2 y edits s t) : t.engine = s.engine := by rw [h.rest]

/-- A fade end that lies ahead is not taken. -/
theorem HeadLeaves.fadeAhead {r : QueuedRequest} {code : ResultCode} {v1 v2 : Word} {y : Playback} {edits : List HeldEdit} {s t : Block}
    (h : HeadLeaves p r rest code v1 v2 y edits s t) (fade : y.fade = .fading ∨ y.fade = .releasing)
    (ahead : reached s.time.clock y.timing.fadeEnd = false) : fadeEndIfDue p t = t := by
  rw [fadeEndIfDue_of_timer (by rw [h.playback]; exact fade), h.playback, h.time, ahead]
  exact if_neg Bool.false_ne_true

/-- A follow that lies ahead does not expire. -/
theorem HeadLeaves.followAhead {r : QueuedRequest} {code : ResultCode} {v1 v2 : Word} {y : Playback} {edits : List HeldEdit} {s t : Block}
    {d : Time} (h : HeadLeaves p r rest code v1 v2 y edits s t) (timer : y.followTimer = some d)
    (ahead : reached s.time.clock d = false) : followIfDue p t = t := by
  have same : ({ y with queue := rest } : Playback).followTimer = some d := timer
  rw [followIfDue, h.playback, h.time, same, timerDue, ahead]
  exact if_neg Bool.false_ne_true

/-- A RESUME after which a fade goes on. -/
theorem servesHead_resumeFades {st : FadeState} (own : playbackOf s p = { x with queue := ⟨o, .resume⟩ :: rest }) (paused : x.fade = .paused)
    (was : x.remembered = some .fading ∧ st = .fading ∨ x.remembered = some .releasing ∧ st = .releasing) :
    ServesHead halted p ⟨o, .resume⟩ rest x s := by
  refine .leaves .ok 0 (resumedAs x s.time.clock st) [(resumedAs x s.time.clock st).view]
    (reached s.time.clock (resumedAs x s.time.clock st).timing.fadeEnd) rfl ?_ fun ahead => ?_
  · rcases was with ⟨remembered, rfl⟩ | ⟨remembered, rfl⟩
    · simp only [servedQueue, paused, remembered, servedAfter]
      rfl
    · simp only [servedQueue, paused, remembered, servedAfter]
      rfl
  · have leaves := headLeaves_edited (p := p) (s := s) (r := ⟨o, .resume⟩) (rest := rest) (y := resumedAs x s.time.clock st) .ok
      (BitVec.ofInt 32 0) 0
    have fade : (resumedAs x s.time.clock st).fade = .fading ∨ (resumedAs x s.time.clock st).fade = .releasing := was.imp And.right And.right
    rw [serveHead_resume own, serveResume_fades (st := st) (by rw [own]; exact paused) (by rw [own]; exact was), own]
    exact (leaves.fadeAhead fade ahead).symm ▸ leaves

/-- A RESUME after which a playback holds. -/
theorem servesHead_resumeHolds (own : playbackOf s p = { x with queue := ⟨o, .resume⟩ :: rest }) (paused : x.fade = .paused)
    (remembered : x.remembered = some .holding) : ServesHead halted p ⟨o, .resume⟩ rest x s := by
  refine .leaves .ok 0 (resumedHolding x s.time.clock) [(resumedHolding x s.time.clock).view]
    (reached s.time.clock (s.time.clock + BitVec.ofInt 32 (x.timing.paused.getD 0))) rfl ?_ fun ahead => ?_
  · simp only [servedQueue, paused, remembered, servedAfter]
    rfl
  · have leaves := headLeaves_edited (p := p) (s := s) (r := ⟨o, .resume⟩) (rest := rest) (y := resumedHolding x s.time.clock) .ok
      (BitVec.ofInt 32 0) 0
    rw [serveHead_resume own, serveResume_holds (by rw [own]; exact paused) (by rw [own]; exact remembered), own]
    exact (leaves.followAhead (d := s.time.clock + BitVec.ofInt 32 (x.timing.paused.getD 0)) rfl ahead).symm ▸ leaves

/-- A RESUME that finds nothing to resume (R15). -/
theorem servesHead_resumeBad (own : playbackOf s p = { x with queue := ⟨o, .resume⟩ :: rest })
    (bad : x.fade ≠ .paused ∨ x.remembered = none) : ServesHead halted p ⟨o, .resume⟩ rest x s := by
  have finish : serveHead p s = finishHead p .badState 0 0 s := by
    rw [serveHead_resume own]
    rcases bad with fade | remembered
    · exact serveResume_badState (by rw [own]; exact fade)
    · unfold serveResume
      rw [own]
      cases x.fade <;> simp only [remembered]
  refine .leaves .badState 0 x [] false rfl ?_ fun _ => ?_
  · rcases bad with fade | remembered
    · cases state : x.fade with
      | paused => exact absurd state fade
      | idle => simp only [servedQueue, state, servedAfter, Bool.false_or]
      | fading => simp only [servedQueue, state, servedAfter, Bool.false_or]
      | holding => simp only [servedQueue, state, servedAfter, Bool.false_or]
      | releasing => simp only [servedQueue, state, servedAfter, Bool.false_or]
    · cases state : x.fade <;> simp only [servedQueue, state, remembered, servedAfter, Bool.false_or]
  · have same : s = setPlayback p { x with queue := ⟨o, .resume⟩ :: rest } s := by rw [← own, setPlayback_own]
    have plain := headLeaves_plain (p := p) (s := s) (r := ⟨o, .resume⟩) (rest := rest) (y := x) .badState (BitVec.ofInt 32 0) 0
    rw [← same] at plain
    rw [finish]
    exact plain

theorem servesHead_resume (own : playbackOf s p = { x with queue := ⟨o, .resume⟩ :: rest }) : ServesHead halted p ⟨o, .resume⟩ rest x s := by
  by_cases paused : x.fade = .paused
  · cases remembered : x.remembered with
    | none => exact servesHead_resumeBad own (.inr remembered)
    | some st =>
      cases st with
      | fading => exact servesHead_resumeFades own paused (.inl ⟨remembered, rfl⟩)
      | holding => exact servesHead_resumeHolds own paused remembered
      | releasing => exact servesHead_resumeFades own paused (.inr ⟨remembered, rfl⟩)
  · exact servesHead_resumeBad own (.inl paused)

end

theorem servesHead {halted : Bool} {p : Fin 8} {r : QueuedRequest} {rest : List QueuedRequest} {x : Playback} {s : Block}
    (own : playbackOf s p = { x with queue := r :: rest }) (state : halted = decide (s.engine.state = .halted)) :
    ServesHead halted p r rest x s := by
  obtain ⟨o, kind⟩ := r
  cases kind with
  | go bank cue time => exact servesHead_go own state
  | goNext given => exact servesHead_goNext own state
  | pause => exact servesHead_pause own
  | resume => exact servesHead_resume own

/-! ### The whole queue -/

/-- The job that serving a queue has submitted, as it joins the loader queue. -/
def submittedJobs (p : Fin 8) (job : Option (Nat × Search)) : List LoadJob := job.toList.map fun j => ⟨p, j.1, j.2, 0, false⟩

/-- From `s` to `u` playback `p`, otherwise `x`, has served the queue `rs`; a job it submitted waits in the loader queue. -/
structure ServesTo (S : Served) (p : Fin 8) (rs : List QueuedRequest) (s u : Block) : Prop where
  playbacks : u.playbacks = setAt s.playbacks p S.playback
  loader : u.loader = { s.loader with queue := s.loader.queue ++ submittedJobs p S.job }
  mixer : u.mixer = handed s.mixer (S.edits.map fun v => ⟨p, v, 0⟩)
  results : s.engine.state ≠ .halted → Reserved rs s → u.results.queue = s.results.queue ++ S.ended
  rest : OnlyPlaybacks s u

/-- A playback with no load under way serves its queue as `servedQueue` says, the loader taking a job last. -/
theorem serve_servesTo {halted : Bool} {p : Fin 8} (rs : List QueuedRequest) {x : Playback} {s : Block}
    (own : playbackOf s p = { x with queue := rs }) (load : x.load = .none) (state : halted = decide (s.engine.state = .halted))
    (prompt : (servedQueue halted s.time.clock rs x).late = false) :
    ∃ u, ServesTo (servedQueue halted s.time.clock rs x) p rs s u
      ∧ serve p s = if (servedQueue halted s.time.clock rs x).job.isSome then takeLoadJob u else u := by
  induction rs generalizing x s with
  | nil =>
    refine ⟨s, ⟨?_, ?_, (handed_nil _).symm, fun _ _ => (List.append_nil _).symm, rfl⟩, serve_stop _ _ (.inr (by rw [own]))⟩
    · have same : (servedQueue halted s.time.clock [] x).playback = playbackOf s p := own.symm
      rw [same, playbackOf, setAt_getAt]
    · change s.loader = { s.loader with queue := s.loader.queue ++ [] }
      rw [List.append_nil]
  | cons r rest ih =>
    have next : serve p s = serve p (serveHead p s) := serve_serveHead (by rw [own]; exact load) (by rw [own]; exact List.cons_ne_nil _ _)
    rcases servesHead (halted := halted) own state with ⟨code, v, y, edits, late, sameLoad, served, step⟩ | ⟨bank, search, runs, served, step⟩
    · rw [served] at prompt ⊢
      obtain ⟨notLate, later⟩ := Bool.or_eq_false_iff.1 prompt
      have leaves := step notLate
      obtain ⟨u, ⟨playbacks, loader, mixer, results, only⟩, goes⟩ := ih (x := y) (s := serveHead p s) leaves.playback (sameLoad.trans load)
        (by rw [leaves.engine]; exact state) (by rw [leaves.time]; exact later)
      rw [leaves.time] at playbacks loader mixer results goes
      refine ⟨u, ⟨?_, ?_, ?_, fun runs reserved => ?_, leaves.rest.trans only⟩, next.trans goes⟩
      · rw [playbacks, leaves.playbacks, setAt_setAt]
        rfl
      · rw [loader, leaves.loader]
        rfl
      · rw [mixer, leaves.mixer, handed_append, ← List.map_append]
        rfl
      · obtain ⟨first, others⟩ := leaves.results runs reserved
        rw [results (by rw [leaves.engine]; exact runs) others, first, List.append_assoc]
        rfl
    · rw [served]
      refine ⟨modPlayback p (fun y => { y with load := .waiting }) { setPlayback p { x with queue := r :: rest, follow := none } s with
        loader := { s.loader with queue := s.loader.queue ++ [⟨p, bank, search, 0, false⟩] } }, ⟨?_, rfl, (handed_nil _).symm,
        fun _ _ => (List.append_nil _).symm, rfl⟩, ?_⟩
      · simp [modAt_eq]
      · rw [next, step, serve_stop _ _ (.inl (submitLoad_load p _ _ _))]
        rfl

end Sys2Proof.Machine
end

section
/-! SUPPORT. Requests that stand at the port, the job an IDLE loader takes, and the end of a tenure (R48, R183, R188). -/

namespace Sys2Proof.Machine

/-! ### A request that stands (R188) -/

/-- Client `c`'s request stands at a port that is busy with it, or with which it waits. -/
def Stands (c : Client) (k : TenureKind) (p : Port) : Prop :=
  p.state ≠ .idle ∧ p.current = some ⟨c, k, 0, none⟩ ∨ p.waitingOf c = some k

theorem Stands.asks {c : Client} {k : TenureKind} {s : Block} (h : Stands c k s.port) : Asks c k s := h.imp_left And.right

theorem stands_ask (c : Client) (k : TenureKind) {s : Block} (runs : s.engine.state ≠ .halted) : Stands c k (ask c k s).port := by
  by_cases idle : s.port.state = .idle ∧ s.port.nextClient = none
  · rw [ask_idle runs idle.1 idle.2]
    exact .inl ⟨nofun, rfl⟩
  · rw [ask_waits runs (by tauto)]
    exact .inr (getAt_setAt ..)

theorem index_injective {c d : Client} (h : c.index = d.index) : c = d := by
  rw [← ofIndex_index c, h, ofIndex_index]

/-- A tenure that begins leaves the other clients' requests. -/
theorem stands_start {c d : Client} {k k' : TenureKind} {p : Port} (h : p.waitingOf c = some k) (same : c = d → k = k') :
    Stands c k (p.start d k') := by
  by_cases e : c = d
  · subst e
    rw [same rfl]
    exact .inl ⟨nofun, rfl⟩
  · refine .inr ?_
    rw [Port.waitingOf, Port.start, getAt_setAt_ne _ _ _ _ fun i => e (index_injective i)]
    exact h

theorem stands_arbitrate {c : Client} {k : TenureKind} {p : Port} (h : Stands c k p) : Stands c k p.arbitrate := by
  unfold Port.arbitrate
  split
  · rename_i idle
    have waits : p.waitingOf c = some k := h.resolve_left fun busy => busy.1 idle
    split
    · rename_i d k' next
      refine stands_start waits fun e => ?_
      subst e
      have found : p.nextClient = some (c, k') := next
      rw [Port.nextClient, List.findSome?_eq_some_iff] at found
      obtain ⟨_, e, _, _, there, -⟩ := found
      obtain ⟨kind, wait, pair⟩ := Option.map_eq_some_iff.1 there
      cases pair
      rw [waits] at wait
      exact Option.some.inj wait
    · exact h
  · exact h

theorem stands_serveNext {c : Client} {k : TenureKind} {s : Block} (h : Stands c k s.port) : Stands c k (serveNext s).port := stands_arbitrate h

/-- Another client's request does not move it. -/
theorem Stands.ask {c d : Client} {k k' : TenureKind} {s : Block} (h : Stands c k s.port) (other : c ≠ d) :
    Stands c k (ask d k' s).port := by
  by_cases runs : s.engine.state = .halted
  · rw [ask_halted runs]
    exact h
  · by_cases idle : s.port.state = .idle ∧ s.port.nextClient = none
    · have waits : s.port.waitingOf c = some k := h.resolve_left fun busy => busy.1 idle.1
      rw [(nextClient_none s.port).1 idle.2 c] at waits
      exact nomatch waits
    · rw [ask_waits runs (by tauto)]
      refine h.imp_right fun waits => ?_
      rw [Port.waitingOf, getAt_setAt_ne _ _ _ _ fun i => other (index_injective i)]
      exact waits

/-! ### The job an IDLE loader takes (R48) -/

theorem takeLoadJob_waits {s : Block} (h : ∀ j ∈ s.loader.queue, j.deferred = true) : takeLoadJob s = s := by
  have none : s.loader.queue.find? (fun j => !j.deferred) = none := List.find?_eq_none.2 fun j mem => by simp [h j mem]
  unfold takeLoadJob
  rw [none]
  split
  · rfl
  · split
    · exact absurd ‹_› (by simp)
    · rfl

theorem takeLoadJob_busy {s : Block} (h : s.loader.current.isSome = true) : takeLoadJob s = s := by
  obtain ⟨c, current⟩ := Option.isSome_iff_exists.1 h
  unfold takeLoadJob
  rw [current]
  split <;> rfl

theorem takeLoadJob_takes {s : Block} {before after : List LoadJob} {j : LoadJob} (runs : s.engine.state ≠ .halted)
    (idle : s.loader.current = none) (queue : s.loader.queue = before ++ j :: after) (deferred : ∀ k ∈ before, k.deferred = true)
    (eligible : j.deferred = false) :
    takeLoadJob s = ask .loader (.modify (s.anchor.banks[j.bank]?.getD 0) 0 2) { s with
      loader := { s.loader with queue := before ++ after, current := some ⟨j, .lock, false, false, none, none⟩ }
      playbacks := setAt s.playbacks j.playback { playbackOf s j.playback with load := .reading } } := by
  have none : ∀ k ∈ before, ¬(!k.deferred) = true := fun k mem => by simp [deferred k mem]
  have found : s.loader.queue.find? (fun k => !k.deferred) = some j := by
    rw [queue, List.find?_append, List.find?_eq_none.2 none, List.find?_cons_of_pos (by simp [eligible])]
    rfl
  have left : s.loader.queue.eraseP (fun k => !k.deferred) = before ++ after := by
    rw [queue, List.eraseP_append_right _ none, List.eraseP_cons_of_pos (by simp [eligible])]
  simp only [takeLoadJob, if_neg runs, idle, found, left]
  rfl

/-- Taking twice takes once. -/
theorem takeLoadJob_again {s : Block} : takeLoadJob (takeLoadJob s) = takeLoadJob s := by
  by_cases halts : s.engine.state = .halted
  · have stays : takeLoadJob s = s := by
      unfold takeLoadJob
      exact if_pos halts
    rw [stays, stays]
  · by_cases busy : s.loader.current.isSome = true
    · rw [takeLoadJob_busy busy, takeLoadJob_busy busy]
    · cases found : s.loader.queue.find? fun j => !j.deferred with
      | none =>
        have deferred : ∀ j ∈ s.loader.queue, j.deferred = true := fun j mem => by simpa using List.find?_eq_none.1 found j mem
        rw [takeLoadJob_waits deferred, takeLoadJob_waits deferred]
      | some j =>
        obtain ⟨eligible, before, after, queue, earlier⟩ := List.find?_eq_some_iff_append.1 found
        rw [takeLoadJob_takes halts (by simpa using busy) queue (fun k mem => by simpa using earlier k mem) (by simpa using eligible)]
        exact takeLoadJob_busy (by simp)

/-- The part `s`, its loader IDLE, takes a job and the arbiter serves the next: `TheLoaderTakesFrom` of what `s` has. -/
theorem theLoaderTakes {b s : Block} {queue : List LoadJob} {stuck : Nat} (runs : s.engine.state ≠ .halted) (anchor : s.anchor = b.anchor)
    (loader : s.loader = { b.loader with queue := queue, current := none, stuck := stuck }) :
    TheLoaderTakesFrom queue s.playbacks stuck b (serveNext (takeLoadJob s)) := by
  refine ⟨fun deferred => ?_, fun before j after split earlier eligible => ?_⟩
  · rw [takeLoadJob_waits (by rw [loader]; exact deferred)]
    exact ⟨loader, rfl⟩
  · rw [takeLoadJob_takes (j := j) (before := before) (after := after) runs (by rw [loader]) (by rw [loader]; exact split) earlier eligible,
      anchor]
    refine ⟨?_, ?_, Stands.asks (stands_serveNext ?_)⟩
    · rw [serveNext_loader, ask_loader, loader]
    · rw [serveNext_playbacks, ask_playbacks]
      rfl
    · exact stands_ask _ _ runs

/-! ### The queue goes on after a report of the loader -/

/-- The part `s` in which the loader has reported the end of playback `p`'s load. -/
structure Reported (p : Fin 8) (x : Playback) (rest : List QueuedRequest) (first : List Completion) (edits : List HeldEdit) (m : Mixer)
    (stuck : Nat) (b s : Block) : Prop where
  playbacks : s.playbacks = setAt b.playbacks p { x with queue := rest }
  loader : s.loader = { b.loader with current := none, stuck := stuck }
  mixer : s.mixer = handed m edits
  queue : s.results.queue = b.results.queue ++ first
  reserved : Reserved rest s
  time : s.time = b.time
  engine : s.engine = b.engine
  anchor : s.anchor = b.anchor

theorem Reported.goesOn {p : Fin 8} {x : Playback} {rest : List QueuedRequest} {first : List Completion} {edits : List HeldEdit} {m : Mixer}
    {stuck : Nat} {b s : Block} (h : Reported p x rest first edits m stuck b s) (load : x.load = .none) (runs : b.engine.state ≠ .halted)
    (pass : m.pass = b.mixer.pass) :
    TheQueueGoesOn p x rest first edits m stuck b (serveNext (takeLoadJob (serve p s))) := by
  obtain ⟨playbacks, loader, mixer, queue, reserved, time, engine, anchor⟩ := h
  have own : playbackOf s p = { x with queue := rest } := by rw [playbackOf, playbacks, getAt_setAt]
  have live : s.engine.state ≠ .halted := by rw [engine]; exact runs
  unfold TheQueueGoesOn
  dsimp only
  intro prompt
  rw [← time] at prompt ⊢
  obtain ⟨u, ⟨uPlaybacks, uLoader, uMixer, uResults, only⟩, goes⟩ :=
    serve_servesTo (halted := false) rest own load (decide_eq_false live).symm prompt
  have taken : takeLoadJob (serve p s) = takeLoadJob u := by
    rw [goes]
    split
    · exact takeLoadJob_again
    · rfl
  rw [taken]
  have taking := takeLoadJob_rest u
  have takenMixer : (takeLoadJob u).mixer = handed m (edits ++ (servedQueue false s.time.clock rest x).edits.map fun v => ⟨p, v, 0⟩) := by
    rw [taking, uMixer, mixer, handed_append]
  have liveU : u.engine.state ≠ .halted := by rw [only]; exact live
  refine ⟨?_, fun between => ?_, fun during => ?_, ?_⟩
  · change (takeLoadJob u).results.queue = _
    rw [taking, uResults live reserved, queue]
  · change (takeLoadJob u).mixer = _
    rw [takenMixer, handed, pass, between]
  · obtain ⟨latch, some⟩ := Option.isSome_iff_exists.1 during
    change (takeLoadJob u).mixer = _
    rw [takenMixer, handed, pass, some]
  · have final : u.playbacks = setAt b.playbacks p (servedQueue false s.time.clock rest x).playback := by rw [uPlaybacks, playbacks, setAt_setAt]
    rw [← final]
    refine theLoaderTakes liveU (by rw [only, anchor]) ?_
    rw [uLoader, loader]
    rfl

end Sys2Proof.Machine
end

section
/-! SUPPORT. The end of a tenure of the cue loader: what the loader goes on to (R49 to R59, R183). -/

namespace Sys2Proof.Machine

/-! ### TENURE_END (R183, R184) -/

/-- The words that a whole tenure hands to its client (R183). -/
def wordsOf (k : TenureKind) (m : Memory) : List Word :=
  match k with
  | .read a n => m.readBurst a n
  | .write _ _ => []
  | .modify a _ _ => [m.load (wordAddress a)]

/-- The part that a client is handed at the end of its tenure: the words performed, the port free (R183, R184, R189). -/
def handedOver (k : TenureKind) (b : Block) : Block :=
  { perform k (tenureLength k b.mem) b with port := { b.port.release with consecutive := 0 } }

theorem tenureLength_modify (a expect put : Word) (m : Memory) : tenureLength (.modify a expect put) m ≠ 0 := by
  unfold tenureLength
  dsimp only
  split
  · exact Nat.succ_ne_zero 1
  · exact Nat.succ_ne_zero 0

theorem endDone_eq {c : Client} {k : TenureKind} {done : Nat} {value : Option Word} (b : Block) :
    endDone ⟨c, k, done, value⟩ b = serveNext (clientDone c (wordsOf k b.mem) (handedOver k b)) := by
  have whole : (Tenure.reach ⟨c, k, done, value⟩ (tenureLength k b.mem) b.mem).wordsRead b.mem = wordsOf k b.mem := by
    cases k with
    | read a n =>
      change b.mem.readBurst a (min n n) = _
      rw [Nat.min_self]
      rfl
    | write a ws => rfl
    | modify a expect put =>
      have some : min (tenureLength (.modify a expect put) b.mem) (tenureLength (.modify a expect put) b.mem) ≠ 0 := by
        rw [Nat.min_self]
        exact tenureLength_modify a expect put b.mem
      simp only [Tenure.reach, Tenure.wordsRead, if_neg some, wordsOf, Option.toList_some]
  have performed : (Tenure.reach ⟨c, k, done, value⟩ (tenureLength k b.mem) b.mem).done = tenureLength k b.mem := Nat.min_self _
  unfold endDone
  dsimp only
  rw [whole, performed]
  rfl

/-- The cue loader's tenure ends Done in RUNNING or STOPPING. -/
theorem endsWith_loader {k : TenureKind} {b : Block} {P : Block → Prop} (ends : EndsDone .loader k b)
    (state : b.engine.state = .running ∨ b.engine.state = .stopping) (h : P (serveNext (loaderDone (wordsOf k b.mem) (handedOver k b)))) :
    EndsWith b P := by
  obtain ⟨phase, transfers, aborting, done, value, current⟩ := ends
  intro q
  have event : (live b && transferring b) = true := by simp [live, transferring, phase, transfers, aborting]
  have ended : endTenure b = serveNext (loaderDone (wordsOf k b.mem) (handedOver k b)) := by
    have started : (handedOver k b).engine.state ≠ .starting := by
      change b.engine.state ≠ .starting
      rcases state with state | state <;> rw [state] <;> decide
    rw [endTenure, current]
    dsimp only
    rw [endDone_eq, clientDone, if_neg started]
  exact ⟨_, ended ▸ answer_taken event endTenure b q, h⟩

theorem runs_of_state {b : Block} (state : b.engine.state = .running ∨ b.engine.state = .stopping) : b.engine.state ≠ .halted := by
  rcases state with state | state <;> rw [state] <;> decide

/-! ### A job that ends -/

/-- The loader's report of a load that has ended with its head gone: what the playback then serves from. -/
theorem HeadLeaves.reported {p : Fin 8} {r : QueuedRequest} {rest : List QueuedRequest} {code : ResultCode} {v1 v2 : Word} {y : Playback}
    {edits earlier : List HeldEdit} {m : Mixer} {stuck : Nat} {b s t : Block} (h : HeadLeaves p r rest code v1 v2 y edits s t)
    (playbacks : s.playbacks = b.playbacks) (loader : s.loader = { b.loader with current := none, stuck := stuck })
    (mixer : s.mixer = handed m earlier) (results : s.results = b.results) (time : s.time = b.time) (engine : s.engine = b.engine)
    (anchor : s.anchor = b.anchor) (runs : b.engine.state ≠ .halted) (reserved : Reserved (r :: rest) b) :
    Reported p y rest (completionsOf r.origin code v1 v2) (earlier ++ edits) m stuck b t := by
  obtain ⟨queue, others⟩ := h.results (by rw [engine]; exact runs) (by unfold Reserved; rw [results]; exact reserved)
  refine ⟨?_, ?_, ?_, ?_, others, ?_, ?_, ?_⟩
  · rw [h.playbacks, playbacks]
  · rw [h.loader, loader]
  · rw [h.mixer, mixer, handed_append]
  · rw [queue, results]
  · rw [h.rest, time]
  · rw [h.rest, engine]
  · rw [h.rest, anchor]

theorem modPlayback_setPlayback_loader (p : Fin 8) (f : Playback → Playback) (y : Playback) (l : Loader) (s : Block) :
    modPlayback p f { setPlayback p y s with loader := l } = setPlayback p (f y) { s with loader := l } := by
  simp [modPlayback, modAt_eq, setPlayback]

/-- The current job ends without completing, its list and reservation freed (R57, R59). -/
theorem endUnfinished_ends {c : CurrentLoad} {code final : ResultCode} {stuck : Nat} {b s : Block} (is : endCode c code = final)
    (runs : b.engine.state ≠ .halted) (reserved : QueueIsReserved c.job.playback b)
    (same : s = { b with
      loader := { b.loader with stuck := stuck }, mem := s.mem, scanner := s.scanner, port := s.port }) :
    EndsTheJobWith stuck c final b (serveNext (endUnfinished c code (freeLoad c.job.playback s))) := by
  unfold EndsTheJobWith
  dsimp only
  intro r rest queue
  have own : playbackOf s c.job.playback = playbackOf b c.job.playback := by rw [same]; rfl
  have idled : modPlayback c.job.playback (fun x => { x with load := .none })
        { freeLoad c.job.playback s with loader := { (freeLoad c.job.playback s).loader with current := none } }
      = setPlayback c.job.playback
          { { playbackOf b c.job.playback with load := .none, incoming := [], reservation := 0 } with queue := r :: rest }
          { s with loader := { s.loader with current := none } } := by
    have freed : freeLoad c.job.playback s
        = setPlayback c.job.playback { playbackOf b c.job.playback with incoming := [], reservation := 0 } s := by
      rw [freeLoad, modPlayback_eq, own]
    rw [freed, ← queue]
    exact modPlayback_setPlayback_loader ..
  have leaves := headLeaves_plain (p := c.job.playback) (r := r) (rest := rest)
    (y := { playbackOf b c.job.playback with load := .none, incoming := [], reservation := 0 })
    (s := { s with loader := { s.loader with current := none } }) final 0 0
  have reserves : Reserved (r :: rest) b := by
    rw [← queue]
    exact reserved
  have reported := leaves.reported (b := b) (earlier := []) (m := b.mixer) (stuck := stuck) (by rw [same]) (by rw [same])
    (by rw [handed_nil, same]) (by rw [same]) (by rw [same]) (by rw [same]) (by rw [same]) runs reserves
  rw [endUnfinished, endJob, loadEnded, is, idled]
  exact reported.goesOn rfl runs rfl

/-! ### A job that goes on -/

theorem readBank_reads {c : CurrentLoad} {stage : LoadStage} {k words : Nat} {b s : Block} (runs : s.engine.state ≠ .halted)
    (loader : { s.loader with current := none } = { b.loader with current := none }) (anchor : s.anchor = b.anchor) :
    ReadsOn c stage k words b (serveNext (readBank c stage k words s)) := by
  have address : bankBase s c.job.bank = b.anchor.banks[c.job.bank]?.getD 0 := by rw [bankBase, anchor]
  refine ⟨?_, Stands.asks (stands_serveNext ?_)⟩
  · rw [serveNext_loader, readBank, ask_loader]
    exact congrArg (fun l : Loader => { l with current := some { c with stage := stage } }) loader
  · rw [readBank, address]
    exact stands_ask _ _ runs

theorem enterUnlock_asks {c : CurrentLoad} {b s : Block} (runs : s.engine.state ≠ .halted)
    (loader : { s.loader with current := none } = { b.loader with current := none }) (anchor : s.anchor = b.anchor) :
    (serveNext (enterUnlock c s)).loader = { b.loader with current := some { c with stage := .unlock } }
      ∧ Asks .loader (.write (b.anchor.banks[c.job.bank]?.getD 0) [0]) (serveNext (enterUnlock c s)) := by
  have address : bankBase s c.job.bank = b.anchor.banks[c.job.bank]?.getD 0 := by rw [bankBase, anchor]
  refine ⟨?_, Stands.asks (stands_serveNext ?_)⟩
  · rw [serveNext_loader, enterUnlock, ask_loader]
    exact congrArg (fun l : Loader => { l with current := some { c with stage := .unlock } }) loader
  · rw [enterUnlock, address]
    exact stands_ask _ _ runs

/-- A job that holds its lock fails: its playback's list and reservation, whatever they were, are freed (R57). -/
theorem failLoad_releases {c : CurrentLoad} {code : ResultCode} {b s : Block} (runs : s.engine.state ≠ .halted)
    (held : c.lockHeld = true) (failed : c.failed = none)
    (loader : { s.loader with current := none } = { b.loader with current := none }) (anchor : s.anchor = b.anchor)
    (playbacks : setAt s.playbacks c.job.playback { playbackOf s c.job.playback with incoming := [], reservation := 0 }
      = setAt b.playbacks c.job.playback { playbackOf b c.job.playback with incoming := [], reservation := 0 }) :
    Releases c code b (serveNext (failLoad c code s)) := by
  have unlocks : failLoad c code s = enterUnlock { c with failed := some code } (freeLoad c.job.playback s) := by
    rw [failLoad, if_pos held, failed]
    rfl
  obtain ⟨current, asks⟩ := enterUnlock_asks (c := { c with failed := some code }) (b := b) (s := freeLoad c.job.playback s)
    runs loader anchor
  rw [unlocks]
  refine ⟨current, ?_, asks⟩
  rw [serveNext_playbacks, enterUnlock, ask_playbacks]
  exact playbacks

end Sys2Proof.Machine
end

section
/-! SUPPORT. The end of a load's release write, and of its acquire (R49, R50, R57, R59). -/

namespace Sys2Proof.Machine

/-- The job ends with the code of its failure, or ABANDONED (R57, R59). -/
theorem aReleaseWriteEndsTheJob : AReleaseWriteEndsTheJob := by
  intro b c k state ends current stage reserved
  have runs := runs_of_state state
  have done : loaderDone (wordsOf k b.mem) (handedOver k b) = unlockDone c (handedOver k b) := by
    have same : (handedOver k b).loader.current = some c := current
    rw [loaderDone, same]
    dsimp only
    rw [stage]
  refine ⟨fun abandon => ?_, fun code abandon failed => ?_⟩
  · refine endsWith_loader ends state ?_
    have unfinished : unlockDone c (handedOver k b) = endUnfinished c .abandoned (freeLoad c.job.playback (handedOver k b)) := by
      rw [unlockDone, abandon]
    rw [done, unfinished]
    exact endUnfinished_ends (by rw [endCode, if_pos abandon]) runs reserved rfl
  · refine endsWith_loader ends state ?_
    have unfinished : unlockDone c (handedOver k b) = endUnfinished c .abandoned (freeLoad c.job.playback (handedOver k b)) := by
      rw [unlockDone, abandon, failed]
    rw [done, unfinished]
    exact endUnfinished_ends (by rw [endCode, abandon, failed]; rfl) runs reserved rfl

theorem lockDone_free {c : CurrentLoad} {value : Word} {s : Block} (read : value = 0) : lockDone c value s
    = if c.abandon then failLoad { c with lockHeld := true } .abandoned s else readBank { c with lockHeld := true } .seekCount 1 1 s :=
  if_pos read

theorem lockDone_held {c : CurrentLoad} {value : Word} {s : Block} (read : value ≠ 0) : lockDone c value s
    = if c.abandon then failLoad c .abandoned s else if c.job.attempts < 7 then putBack c s else failLoad c .bankBusy s :=
  if_neg read

theorem loaderDone_lock {b : Block} {c : CurrentLoad} {a : Word} (current : b.loader.current = some c) (stage : c.stage = .lock) :
    loaderDone (wordsOf (.modify a 0 2) b.mem) (handedOver (.modify a 0 2) b)
      = lockDone c (b.mem.load (wordAddress a)) (handedOver (.modify a 0 2) b) := by
  have same : (handedOver (.modify a 0 2) b).loader.current = some c := current
  rw [loaderDone, same]
  dsimp only
  rw [stage]
  rfl

section

variable {b : Block} {c : CurrentLoad} {a : Word} (state : b.engine.state = .running ∨ b.engine.state = .stopping)
  (current : b.loader.current = some c) (failed : c.failed = none) (reserved : QueueIsReserved c.job.playback b) (stage : c.stage = .lock)
  (free : c.lockHeld = false) (ends : EndsDone .loader (.modify a 0 2) b)

include state current failed stage ends

/-- The bank was free (R49, R51, R59). -/
theorem lock_taken (read : b.mem.load (wordAddress a) = 0) :
    (c.abandon = false → EndsWith b (ReadsOn { c with lockHeld := true } .seekCount 1 1 b))
      ∧ (c.abandon = true → EndsWith b (Releases { c with lockHeld := true } .abandoned b)) := by
  have runs := runs_of_state state
  refine ⟨fun abandon => endsWith_loader ends state ?_, fun abandon => endsWith_loader ends state ?_⟩
  · rw [loaderDone_lock current stage, lockDone_free read, abandon]
    exact readBank_reads runs rfl rfl
  · rw [loaderDone_lock current stage, lockDone_free read, abandon]
    exact failLoad_releases runs rfl failed rfl rfl rfl

include reserved free

/-- The bank was held (R50, R59). -/
theorem lock_missed (read : b.mem.load (wordAddress a) ≠ 0) :
    (c.abandon = true → EndsWith b (EndsTheJob c .abandoned b))
      ∧ (c.abandon = false → 7 ≤ c.job.attempts → EndsWith b (EndsTheJob c .bankBusy b))
      ∧ (c.abandon = false → c.job.attempts < 7 → EndsWith b
          (TheLoaderTakesFrom (b.loader.queue ++ [{ c.job with attempts := c.job.attempts + 1, deferred := true }])
            (setAt b.playbacks c.job.playback { playbackOf b c.job.playback with load := .waiting }) b.loader.stuck b)) := by
  have runs := runs_of_state state
  have ended : ∀ code final, endCode c code = final →
      EndsTheJob c final b (serveNext (failLoad c code (handedOver (.modify a 0 2) b))) := fun code final is => by
    rw [failLoad, if_neg (by rw [free]; exact Bool.false_ne_true)]
    exact endUnfinished_ends is runs reserved rfl
  refine ⟨fun abandon => endsWith_loader ends state ?_, fun abandon last => endsWith_loader ends state ?_,
    fun abandon more => endsWith_loader ends state ?_⟩
  · rw [loaderDone_lock current stage, lockDone_held read, if_pos abandon]
    exact ended _ _ (by rw [endCode, if_pos abandon])
  · rw [loaderDone_lock current stage, lockDone_held read, abandon, if_neg Bool.false_ne_true, if_neg (Nat.not_lt.2 last)]
    exact ended _ _ (by rw [endCode, abandon, failed]; rfl)
  · rw [loaderDone_lock current stage, lockDone_held read, abandon, if_neg Bool.false_ne_true, if_pos more]
    exact theLoaderTakes runs rfl rfl

end

end Sys2Proof.Machine
end

section
/-! SUPPORT. The loader's reads of a bank: the cue count, the directory, the header and the entries (R51 to R55, R59). -/

namespace Sys2Proof.Machine

/-! ### The lists of a playback, entry by entry (R29, R33) -/

theorem find_putIncoming (e : IncomingEntry) (xs : List IncomingEntry) (c : Channel) :
    (putIncoming e xs).find? (fun y => y.channel == c) = if e.channel = c then some e else xs.find? fun y => y.channel == c := by
  induction xs with
  | nil => by_cases own : e.channel = c <;> simp [putIncoming, own]
  | cons y ys ih =>
    unfold putIncoming
    by_cases own : e.channel = c
    · subst own
      split
      · simp
      · split
        · simp
        · rename_i other
          rw [List.find?_cons_of_neg (by simpa using Ne.symm other), ih, if_pos rfl, if_pos rfl]
    · rw [if_neg own] at ih ⊢
      split
      · rw [List.find?_cons_of_neg (by simpa using own)]
      · split
        · rename_i same
          rw [List.find?_cons_of_neg (by simpa using own), List.find?_cons_of_neg (by simpa [← same] using own)]
        · rw [List.find?_cons, List.find?_cons, ih]

/-- An entry word whose channel is in range. -/
theorem incomingOf_eq {w : Word} (h : w.toNat / 65536 % 32768 < 1024) :
    incomingOf w = some ⟨⟨w.toNat / 65536 % 32768, h⟩, w.toNat % 65536, w.getLsbD 31⟩ := by
  have channel : field w 16 15 = w.toNat / 65536 % 32768 := rfl
  have level : field w 0 16 = w.toNat % 65536 := by simp [field]
  rw [incomingOf, dif_pos (by rw [channel]; exact h), level]
  rfl

theorem incomingOf_none {w : Word} (h : 1024 ≤ w.toNat / 65536 % 32768) : incomingOf w = none := by
  have channel : field w 16 15 = w.toNat / 65536 % 32768 := rfl
  rw [incomingOf, dif_neg (by rw [channel]; omega)]

/-- The burst's entries are taken to the end exactly when all their channels are in range (R55). -/
theorem takeEntries_all (words : List Word) (x : Playback) :
    (takeEntries x words).2 = decide (∀ w ∈ words, w.toNat / 65536 % 32768 < 1024) := by
  induction words generalizing x with
  | nil => simp [takeEntries]
  | cons w rest ih =>
    rw [takeEntries]
    rcases lt_or_ge (w.toNat / 65536 % 32768) 1024 with low | high
    · rw [incomingOf_eq low]
      dsimp only
      rw [ih]
      simp [low]
    · rw [incomingOf_none high]
      simp [Nat.not_lt.2 high]

/-- Taking entries changes a playback's incoming list and its reservation alone (R29). -/
theorem takeEntries_rest (words : List Word) (x : Playback) : (takeEntries x words).1
    = { x with incoming := (takeEntries x words).1.incoming, reservation := (takeEntries x words).1.reservation } := by
  induction words generalizing x with
  | nil => rfl
  | cons w rest ih =>
    rw [takeEntries]
    split
    · rw [ih]
      rfl
    · rfl

theorem takeEntries_takes (words : List Word) (x : Playback) (low : ∀ w ∈ words, w.toNat / 65536 % 32768 < 1024) :
    TakesTheWords x.incoming (takeEntries x words).1.incoming words := by
  induction words generalizing x with
  | nil => exact fun c => rfl
  | cons w rest ih =>
    have first := low w List.mem_cons_self
    intro c
    rw [takeEntries, incomingOf_eq first]
    dsimp only
    have later := ih (insertIncoming x ⟨⟨w.toNat / 65536 % 32768, first⟩, w.toNat % 65536, w.getLsbD 31⟩)
      (fun v hv => low v (List.mem_cons_of_mem _ hv)) c
    rw [later, List.reverse_cons, List.find?_append]
    cases rest.reverse.find? fun w => w.toNat / 65536 % 32768 == c.val with
    | some v => rfl
    | none =>
      rw [insertIncoming, find_putIncoming, Option.none_or, List.find?_singleton]
      by_cases own : w.toNat / 65536 % 32768 = c.val
      · have channel : (⟨w.toNat / 65536 % 32768, first⟩ : Channel) = c := Fin.ext own
        rw [if_pos channel, if_pos (by simpa using own), channel]
      · rw [if_neg fun e => own (congrArg Fin.val e), if_neg (by simpa using own)]

/-- Each new channel takes one of the reserved entries (R27, R29). -/
theorem takeEntries_counts (words : List Word) (x : Playback) (order : Ascending x.incoming) :
    x.incoming.length ≤ (takeEntries x words).1.incoming.length
      ∧ (takeEntries x words).1.reservation = x.reservation - ((takeEntries x words).1.incoming.length - x.incoming.length) := by
  induction words generalizing x with
  | nil => exact ⟨Nat.le_refl _, by simp [takeEntries]⟩
  | cons w rest ih =>
    rw [takeEntries]
    split
    · rename_i e _
      obtain ⟨ascending, length⟩ := putIncoming_ascending e x.incoming order
      obtain ⟨more, reserves⟩ := ih (insertIncoming x e) ascending
      have grown : (insertIncoming x e).incoming.length = x.incoming.length + if x.incoming.any (fun y => y.channel == e.channel) then 0 else 1 :=
        length
      have left : (insertIncoming x e).reservation
          = if x.incoming.any (fun y => y.channel == e.channel) then x.reservation else x.reservation - 1 := rfl
      rw [reserves, left]
      rw [grown] at more ⊢
      split at more
      · rename_i present
        rw [if_pos present, if_pos present]
        exact ⟨more, by rw [Nat.add_zero]⟩
      · rename_i absent
        rw [if_neg absent, if_neg absent]
        exact ⟨by omega, by omega⟩
    · exact ⟨Nat.le_refl _, by simp⟩

/-! ### The header (R53) -/

theorem followModeOf_eq (n : Nat) : followModeOf n = [FollowMode.manual, .auto, .link][n]? := by
  unfold followModeOf
  split
  · rfl
  · rfl
  · rfl
  · rename_i zero one two
    rw [List.getElem?_eq_none]
    have : n ≠ 0 := fun e => zero e
    have : n ≠ 1 := fun e => one e
    have : n ≠ 2 := fun e => two e
    simp only [List.length_cons, List.length_nil]
    omega

theorem headerIs_iff {number : Nat} {ws : List Word} {h : CueHeader} : HeaderIs number ws h ↔ cueHeaderOf number ws = some h := by
  have cue : field (wordAt ws 0) 0 16 = (wordAt ws 0).toNat % 65536 := by simp [field]
  have mode : field (wordAt ws 0) 16 8 = (wordAt ws 0).toNat / 65536 % 256 := rfl
  unfold cueHeaderOf
  dsimp only
  rw [cue, mode, followModeOf_eq]
  unfold HeaderIs
  dsimp only
  change h.cue = (wordAt ws 0).toNat % 65536 ∧ _ ∧ _ ∧ _
      ∧ [FollowMode.manual, .auto, .link][(wordAt ws 0).toNat / 65536 % 256]? = some h.follow
      ∧ h.count = (wordAt ws 1).toNat ∧ h.up = (wordAt ws 2).toNat ∧ h.down = (wordAt ws 3).toNat ∧ h.delay = (wordAt ws 4).toNat
      ∧ h.hold = (wordAt ws 5).toNat ∧ h.linkCue = (wordAt ws 6).toNat ∧ _ ↔ _
  constructor
  · rintro ⟨cueIs, number, zero, top, follow, count, up, down, delay, hold, link, upLow, downLow, holdLow, delayLow, countLow, linked⟩
    obtain ⟨hCue, hFollow, hCount, hUp, hDown, hDelay, hHold, hLink⟩ := h
    dsimp only at *
    subst cueIs count up down delay hold link
    rw [follow]
    dsimp only
    rw [if_pos ⟨number, zero, top, upLow, downLow, holdLow, delayLow, countLow, linked⟩]
  · intro found
    split at found
    · exact nomatch found
    · rename_i follow is
      split at found
      · rename_i checks
        obtain ⟨number, zero, top, upLow, downLow, holdLow, delayLow, countLow, linked⟩ := checks
        cases found
        exact ⟨rfl, number, zero, top, is, rfl, rfl, rfl, rfl, rfl, rfl, upLow, downLow, holdLow, delayLow, countLow, linked⟩
      · exact nomatch found

/-! ### The stages -/

section

variable {c : CurrentLoad} {words : List Word} {s : Block} (current : s.loader.current = some c)

include current

theorem loaderDone_abandoned (abandon : c.abandon = true) (lock : c.stage ≠ .lock) (unlock : c.stage ≠ .unlock) :
    loaderDone words s = failLoad c .abandoned s := by
  rw [loaderDone, current]
  dsimp only
  cases stage : c.stage with
  | lock => exact absurd stage lock
  | unlock => exact absurd stage unlock
  | seekCount => exact if_pos abandon
  | seekDirectory count position => exact if_pos abandon
  | header number offset count => exact if_pos abandon
  | entries offset position => exact if_pos abandon

variable (abandon : c.abandon = false)

include abandon

theorem loaderDone_seekCount (stage : c.stage = .seekCount) : loaderDone words s = countRead c (wordAt words 0).toNat s := by
  simp only [loaderDone, current, stage, abandon, Bool.false_eq_true, if_false]

theorem loaderDone_seekDirectory {count position : Nat} (stage : c.stage = .seekDirectory count position) :
    loaderDone words s = directoryRead c count position words s := by
  simp only [loaderDone, current, stage, abandon, Bool.false_eq_true, if_false]

theorem loaderDone_header {number offset count : Nat} (stage : c.stage = .header number offset count) :
    loaderDone words s = headerRead c number offset words s := by
  simp only [loaderDone, current, stage, abandon, Bool.false_eq_true, if_false]

theorem loaderDone_entries {offset position : Nat} (stage : c.stage = .entries offset position) :
    loaderDone words s = entriesRead c offset position words s := by
  simp only [loaderDone, current, stage, abandon, Bool.false_eq_true, if_false]

end

theorem readBurst_length (m : Memory) (a : Word) (n : Nat) : (m.readBurst a n).length = n := by simp [Memory.readBurst]

theorem stopsAt_iff {search : Search} {w : Word} : stopsAt search w = true ↔ MeetsSearch search w := by
  have cue : directoryCue w = w.toNat % 65536 := by simp [directoryCue, field]
  cases search with
  | exactly n => simp [stopsAt, MeetsSearch, cue]
  | above n => simp [stopsAt, MeetsSearch, cue]
  | first => simp [stopsAt, MeetsSearch]

section

variable {b : Block} {c : CurrentLoad} {a : Word} {n : Nat} (state : b.engine.state = .running ∨ b.engine.state = .stopping)
  (current : b.loader.current = some c) (failed : c.failed = none) (held : c.lockHeld = true)
  (ends : EndsDone .loader (.read a n) b)

include state failed held

theorem handedOver_fails (k : TenureKind) (code : ResultCode) : Releases c code b (serveNext (failLoad c code (handedOver k b))) :=
  failLoad_releases (runs_of_state state) held failed rfl rfl rfl

include current ends

/-- An abandoned job stops in whatever stage it stands (R59). -/
theorem read_abandoned (abandon : c.abandon = true) (lock : c.stage ≠ .lock) (unlock : c.stage ≠ .unlock) :
    EndsWith b (Releases c .abandoned b) := by
  refine endsWith_loader ends state ?_
  rw [loaderDone_abandoned (c := c) (s := handedOver (.read a n) b) current abandon lock unlock]
  exact handedOver_fails state failed held ..

omit state current failed held ends in
theorem countRead_eq (c : CurrentLoad) (m : Nat) (s : Block) : countRead c m s
    = if 4096 < m then failLoad c .badCue s else if m = 0 then failLoad c .cueMissing s
      else readBank c (.seekDirectory m 0) 2 (burstLength m) s := rfl

/-- The cue count has been read (R51, R52). -/
theorem read_count (abandon : c.abandon = false) (stage : c.stage = .seekCount) (m : Nat)
    (is : (wordAt (b.mem.readBurst a n) 0).toNat = m) :
    (m = 0 → EndsWith b (Releases c .cueMissing b)) ∧ (4096 < m → EndsWith b (Releases c .badCue b))
      ∧ (1 ≤ m → m ≤ 4096 → EndsWith b (ReadsOn c (.seekDirectory m 0) 2 (min 16 m) b)) := by
  have done : loaderDone (wordsOf (.read a n) b.mem) (handedOver (.read a n) b) = countRead c m (handedOver (.read a n) b) := by
    rw [loaderDone_seekCount (c := c) (s := handedOver (.read a n) b) current abandon stage, ← is]
    rfl
  refine ⟨fun zero => endsWith_loader ends state ?_, fun many => endsWith_loader ends state ?_,
    fun some few => endsWith_loader ends state ?_⟩
  · rw [done, countRead_eq, if_neg (by rw [zero]; exact Nat.not_lt_zero _), if_pos zero]
    exact handedOver_fails state failed held ..
  · rw [done, countRead_eq, if_pos many]
    exact handedOver_fails state failed held ..
  · rw [done, countRead_eq, if_neg (Nat.not_lt.2 few), if_neg (by omega)]
    exact readBank_reads (runs_of_state state) rfl rfl

section

variable {count position : Nat} (abandon : c.abandon = false) (stage : c.stage = .seekDirectory count position)

include abandon stage

/-- The search has stopped at a word (R51, R52). -/
theorem read_directory_stops {earlier later : List Word} {stop : Word} (words : b.mem.readBurst a n = earlier ++ stop :: later)
    (before : ∀ y ∈ earlier, ¬MeetsSearch c.job.search y) (meets : MeetsSearch c.job.search stop) :
    ((∃ m, c.job.search = .exactly m ∧ stop.toNat % 65536 ≠ m) → EndsWith b (Releases c .cueMissing b))
      ∧ ((∀ m, c.job.search = .exactly m → stop.toNat % 65536 = m) →
        (stop.toNat / 65536 < 2 + count → EndsWith b (Releases c .badCue b))
        ∧ (2 + count ≤ stop.toNat / 65536 →
          EndsWith b (ReadsOn c (.header (stop.toNat % 65536) (stop.toNat / 65536) count) (stop.toNat / 65536) 8 b))) := by
  have cue : directoryCue stop = stop.toNat % 65536 := by simp [directoryCue, field]
  have offset : directoryOffset stop = stop.toNat / 65536 := by
    have low : stop.toNat < 2 ^ 32 := stop.isLt
    simp only [directoryOffset, field]
    omega
  have found : (b.mem.readBurst a n).find? (stopsAt c.job.search) = some stop := by
    rw [words, List.find?_append, List.find?_eq_none.2 fun y hy => mt stopsAt_iff.1 (before y hy),
      List.find?_cons_of_pos (stopsAt_iff.2 meets), Option.none_or]
  have done : loaderDone (wordsOf (.read a n) b.mem) (handedOver (.read a n) b)
      = if foundAt c.job.search stop then
          if stop.toNat / 65536 < 2 + count then failLoad c .badCue (handedOver (.read a n) b)
          else readBank c (.header (stop.toNat % 65536) (stop.toNat / 65536) count) (stop.toNat / 65536) 8 (handedOver (.read a n) b)
        else failLoad c .cueMissing (handedOver (.read a n) b) := by
    rw [loaderDone_seekDirectory (c := c) (s := handedOver (.read a n) b) current abandon stage, ← offset, ← cue]
    change directoryRead c count position (b.mem.readBurst a n) _ = _
    rw [directoryRead, found]
  refine ⟨fun ⟨m, exactly, other⟩ => endsWith_loader ends state ?_, fun same => ⟨fun low => endsWith_loader ends state ?_,
    fun high => endsWith_loader ends state ?_⟩⟩
  · have missed : ¬foundAt c.job.search stop = true := by simpa [foundAt, exactly, cue] using other
    rw [done, if_neg missed]
    exact handedOver_fails state failed held ..
  all_goals
    have hit : foundAt c.job.search stop = true := by
      cases search : c.job.search with
      | exactly m => simpa [foundAt, cue] using same m search
      | above m => rfl
      | first => rfl
  · rw [done, if_pos hit, if_pos low]
    exact handedOver_fails state failed held ..
  · rw [done, if_pos hit, if_neg (Nat.not_lt.2 high)]
    exact readBank_reads (runs_of_state state) rfl rfl

/-- The search has not stopped in this burst (R51, R52). -/
theorem read_directory_passes (none : ∀ y ∈ b.mem.readBurst a n, ¬MeetsSearch c.job.search y) :
    (count ≤ position + n → EndsWith b (Releases c .cueMissing b))
      ∧ (position + n < count → EndsWith b
        (ReadsOn c (.seekDirectory count (position + n)) (2 + (position + n)) (min 16 (count - (position + n))) b)) := by
  have found : (b.mem.readBurst a n).find? (stopsAt c.job.search) = Option.none :=
    List.find?_eq_none.2 fun y hy => mt stopsAt_iff.1 (none y hy)
  have done : loaderDone (wordsOf (.read a n) b.mem) (handedOver (.read a n) b)
      = if position + n < count then
          readBank c (.seekDirectory count (position + n)) (2 + (position + n)) (burstLength (count - (position + n)))
            (handedOver (.read a n) b)
        else failLoad c .cueMissing (handedOver (.read a n) b) := by
    rw [loaderDone_seekDirectory (c := c) (s := handedOver (.read a n) b) current abandon stage]
    change directoryRead c count position (b.mem.readBurst a n) _ = _
    rw [directoryRead, found]
    dsimp only
    rw [readBurst_length]
  refine ⟨fun last => endsWith_loader ends state ?_, fun more => endsWith_loader ends state ?_⟩
  · rw [done, if_neg (Nat.not_lt.2 last)]
    exact handedOver_fails state failed held ..
  · rw [done, if_pos more]
    exact readBank_reads (runs_of_state state) rfl rfl

end

/-- The header has been read (R30, R53, R54). -/
theorem read_header {number offset count : Nat} (abandon : c.abandon = false) (stage : c.stage = .header number offset count) :
    ((∀ h, ¬HeaderIs number (b.mem.readBurst a n) h) → EndsWith b (Releases c .badCue b))
      ∧ ∀ h, HeaderIs number (b.mem.readBurst a n) h →
        (poolFree b < h.count → EndsWith b (Releases c .noRoom b))
        ∧ (h.count ≤ poolFree b → EndsWith b fun t =>
          t.playbacks = setAt b.playbacks c.job.playback { playbackOf b c.job.playback with reservation := h.count }
          ∧ (h.count ≠ 0 → ReadsOn { c with header := some h } (.entries offset 0) (offset + 8) (min 16 h.count) b t)
          ∧ (h.count = 0 → t.loader = { b.loader with current := some { c with header := some h, stage := .unlock } }
            ∧ Asks .loader (.write (b.anchor.banks[c.job.bank]?.getD 0) [0]) t)) := by
  have done : loaderDone (wordsOf (.read a n) b.mem) (handedOver (.read a n) b)
      = headerRead c number offset (b.mem.readBurst a n) (handedOver (.read a n) b) := by
    rw [loaderDone_header (c := c) (s := handedOver (.read a n) b) current abandon stage]
    rfl
  refine ⟨fun none => endsWith_loader ends state ?_, fun h is => ⟨fun full => endsWith_loader ends state ?_,
    fun room => endsWith_loader ends state ?_⟩⟩
  · have bad : cueHeaderOf number (b.mem.readBurst a n) = Option.none := by
      cases found : cueHeaderOf number (b.mem.readBurst a n) with
      | none => rfl
      | some h => exact absurd (headerIs_iff.2 found) (none h)
    rw [done, headerRead, bad]
    exact handedOver_fails state failed held ..
  · have low : ¬h.count ≤ poolFree (handedOver (.read a n) b) := Nat.not_le.2 full
    rw [done, headerRead, headerIs_iff.1 is]
    dsimp only
    rw [if_neg low]
    exact handedOver_fails state failed held ..
  · have fits : h.count ≤ poolFree (handedOver (.read a n) b) := room
    rw [done, headerRead, headerIs_iff.1 is]
    dsimp only
    rw [if_pos fits]
    split
    · rename_i zero
      obtain ⟨loader, asks⟩ := enterUnlock_asks (c := { c with header := some h }) (b := b)
        (s := modPlayback c.job.playback (fun x => { x with reservation := h.count }) (handedOver (.read a n) b))
        (runs_of_state state) rfl rfl
      refine ⟨?_, fun some => absurd zero some, fun _ => ⟨loader, asks⟩⟩
      rw [serveNext_playbacks, enterUnlock, ask_playbacks]
      rfl
    · rename_i some
      refine ⟨?_, fun _ => readBank_reads (runs_of_state state) rfl rfl, fun zero => absurd zero some⟩
      rw [serveNext_playbacks, readBank, ask_playbacks]
      rfl

end

end Sys2Proof.Machine
end

section
/-! SUPPORT. The loader's last read of a bank, the entries of a cue, and the stages together (R49 to R55). -/

namespace Sys2Proof.Machine

section

variable {b : Block} {c : CurrentLoad} {h : CueHeader} {a : Word} {n offset position : Nat}
  (state : b.engine.state = .running ∨ b.engine.state = .stopping)
  (current : b.loader.current = some c) (failed : c.failed = none) (held : c.lockHeld = true)
  (ends : EndsDone .loader (.read a n) b) (abandon : c.abandon = false) (stage : c.stage = .entries offset position)
  (header : c.header = some h)

include current abandon stage header

/-- The entries of one burst taken (R55): the list filled as far as they go, then the next burst, the release, or the failure. -/
theorem loaderDone_takeEntries (x : Playback) (good : Bool)
    (taken : takeEntries (playbackOf b c.job.playback) ((b.mem.readBurst a n).take (h.count - position)) = (x, good)) :
    loaderDone (wordsOf (.read a n) b.mem) (handedOver (.read a n) b)
      = if good then
          if position + n < h.count then
            readBank c (.entries offset (position + n)) (offset + 8 + (position + n)) (burstLength (h.count - (position + n)))
              (setPlayback c.job.playback x (handedOver (.read a n) b))
          else enterUnlock c (setPlayback c.job.playback x (handedOver (.read a n) b))
        else failLoad c .badCue (setPlayback c.job.playback x (handedOver (.read a n) b)) := by
  have same : takeEntries (playbackOf (handedOver (.read a n) b) c.job.playback)
      ((b.mem.readBurst a n).take (h.count - position)) = (x, good) := taken
  rw [loaderDone_entries (c := c) (s := handedOver (.read a n) b) current abandon stage]
  change entriesRead c offset position (b.mem.readBurst a n) _ = _
  rw [entriesRead, header]
  dsimp only [Option.map_some, Option.getD_some]
  simp only [same, readBurst_length]

include state ends

/-- An entry names no channel (R55, R57). -/
theorem read_entries_fails (held : c.lockHeld = true) (failed : c.failed = none)
    (bad : ∃ y ∈ (b.mem.readBurst a n).take (h.count - position), 1024 ≤ y.toNat / 65536 % 32768) :
    EndsWith b (Releases c .badCue b) := by
  refine endsWith_loader ends state ?_
  obtain ⟨y, mem, high⟩ := bad
  have stops : (takeEntries (playbackOf b c.job.playback) ((b.mem.readBurst a n).take (h.count - position))).2 = false := by
    rw [takeEntries_all]
    exact decide_eq_false fun low => absurd (low y mem) (Nat.not_lt.2 high)
  rw [loaderDone_takeEntries current abandon stage header _ _ rfl, stops, if_neg Bool.false_ne_true, takeEntries_rest]
  refine failLoad_releases (runs_of_state state) held failed rfl rfl ?_
  rw [playbackOf_setPlayback]
  simp only [setPlayback, setAt_setAt]
  rfl

/-- The entries are taken (R29, R55). -/
theorem read_entries_goes (low : ∀ y ∈ (b.mem.readBurst a n).take (h.count - position), y.toNat / 65536 % 32768 < 1024) :
    EndsWith b fun t =>
      (∃ incoming reservation,
        t.playbacks = setAt b.playbacks c.job.playback
          { playbackOf b c.job.playback with incoming := incoming, reservation := reservation }
        ∧ TakesTheWords (playbackOf b c.job.playback).incoming incoming ((b.mem.readBurst a n).take (h.count - position))
        ∧ (((playbackOf b c.job.playback).incoming.map IncomingEntry.channel).Pairwise (· < ·) →
          (incoming.map IncomingEntry.channel).Pairwise (· < ·) ∧ (playbackOf b c.job.playback).incoming.length ≤ incoming.length
          ∧ reservation = (playbackOf b c.job.playback).reservation
              - (incoming.length - (playbackOf b c.job.playback).incoming.length)
          ∧ (incoming.length ≤ (playbackOf b c.job.playback).incoming.length + (playbackOf b c.job.playback).reservation →
              poolInUse t = poolInUse b)))
      ∧ (position + n < h.count →
        ReadsOn c (.entries offset (position + n)) (offset + 8 + (position + n)) (min 16 (h.count - (position + n))) b t)
      ∧ (h.count ≤ position + n → t.loader = { b.loader with current := some { c with stage := .unlock } }
        ∧ Asks .loader (.write (b.anchor.banks[c.job.bank]?.getD 0) [0]) t) := by
  refine endsWith_loader ends state ?_
  have whole : (takeEntries (playbackOf b c.job.playback) ((b.mem.readBurst a n).take (h.count - position))).2 = true := by
    rw [takeEntries_all]
    exact decide_eq_true low
  have runs := runs_of_state state
  have fills : ∀ t : Block,
      t.playbacks = setAt b.playbacks c.job.playback
        (takeEntries (playbackOf b c.job.playback) ((b.mem.readBurst a n).take (h.count - position))).1 →
      ∃ incoming reservation,
        t.playbacks = setAt b.playbacks c.job.playback
          { playbackOf b c.job.playback with incoming := incoming, reservation := reservation }
        ∧ TakesTheWords (playbackOf b c.job.playback).incoming incoming ((b.mem.readBurst a n).take (h.count - position))
        ∧ (((playbackOf b c.job.playback).incoming.map IncomingEntry.channel).Pairwise (· < ·) →
          (incoming.map IncomingEntry.channel).Pairwise (· < ·) ∧ (playbackOf b c.job.playback).incoming.length ≤ incoming.length
          ∧ reservation = (playbackOf b c.job.playback).reservation
              - (incoming.length - (playbackOf b c.job.playback).incoming.length)
          ∧ (incoming.length ≤ (playbackOf b c.job.playback).incoming.length + (playbackOf b c.job.playback).reservation →
              poolInUse t = poolInUse b)) := fun t playbacks => by
    generalize (b.mem.readBurst a n).take (h.count - position) = words at low playbacks ⊢
    refine ⟨_, _, playbacks.trans (congrArg _ (takeEntries_rest words _)), takeEntries_takes words _ low, fun order => ?_⟩
    obtain ⟨more, reserves⟩ := takeEntries_counts words (playbackOf b c.job.playback) order
    refine ⟨takeEntries_ascending words _ order, more, reserves, fun room => poolInUse_congr fun q => ?_⟩
    have other : playbackOf t q = playbackOf (setPlayback c.job.playback (takeEntries (playbackOf b c.job.playback) words).1 b) q := by
      rw [playbackOf, playbacks]
      rfl
    rw [other]
    rcases eq_or_ne q c.job.playback with same | different
    · rw [same, playbackOf_setPlayback]
      have entries : (takeEntries (playbackOf b c.job.playback) words).1.entries = (playbackOf b c.job.playback).entries := by
        rw [takeEntries_rest]
      simp only [Playback.held, entries]
      omega
    · rw [playbackOf_setPlayback_ne _ _ _ _ different]
  rw [loaderDone_takeEntries current abandon stage header _ _ rfl, whole, if_pos rfl]
  split
  · rename_i more
    refine ⟨fills _ ?_, fun _ => readBank_reads runs rfl rfl, fun last => absurd more (Nat.not_lt.2 last)⟩
    rw [serveNext_playbacks, readBank, ask_playbacks]
    rfl
  · rename_i last
    refine ⟨fills _ ?_, fun more => absurd more last, fun _ => enterUnlock_asks runs rfl rfl⟩
    rw [serveNext_playbacks, enterUnlock, ask_playbacks]
    rfl

end

theorem theLoadersStagesLeadOn : TheLoadersStagesLeadOn := by
  intro b c state current failed reserved
  refine ⟨fun a stage free ends => ⟨?_, ?_⟩, fun a n ends held => ⟨?_, ?_, ?_, ?_, ?_⟩⟩
  · exact lock_taken state current failed stage ends
  · exact lock_missed state current failed reserved stage free ends
  · exact read_abandoned state current failed held ends
  · intro abandon stage
    exact read_count state current failed held ends abandon stage _ rfl
  · intro count position abandon stage
    refine ⟨fun earlier stop later words before meets => ?_, read_directory_passes state current failed held ends abandon stage⟩
    exact read_directory_stops state current failed held ends abandon stage words before meets
  · intro number offset count abandon stage
    exact read_header state current failed held ends abandon stage
  · intro offset position h abandon stage header
    exact ⟨read_entries_fails state current ends abandon stage header held failed,
      read_entries_goes state current ends abandon stage header⟩

end Sys2Proof.Machine
end

section
/-! SUPPORT. The crossfade build, channel by channel (R28, R33). -/

namespace Sys2Proof.Machine

theorem entryOf_putEntry (e : SetEntry) (xs : List SetEntry) (c : Channel) :
    entryOf (putEntry e xs) c = if e.channel = c then some e else entryOf xs c := by
  unfold entryOf
  induction xs with
  | nil => by_cases own : e.channel = c <;> simp [putEntry, own]
  | cons y ys ih =>
    unfold putEntry
    by_cases own : e.channel = c
    · subst own
      split
      · simp
      · split
        · simp
        · rename_i other
          rw [List.find?_cons_of_neg (by simpa using Ne.symm other), ih, if_pos rfl, if_pos rfl]
    · rw [if_neg own] at ih ⊢
      split
      · rw [List.find?_cons_of_neg (by simpa using own)]
      · split
        · rename_i same
          rw [List.find?_cons_of_neg (by simpa using own), List.find?_cons_of_neg (by simpa [← same] using own)]
        · rw [List.find?_cons, List.find?_cons, ih]

/-- Entries put in place leave a channel that none of them has. -/
theorem entryOf_puts_absent (f : IncomingEntry → SetEntry) (own : ∀ i, (f i).channel = i.channel) {c : Channel}
    {incoming : List IncomingEntry} (absent : ∀ i ∈ incoming, i.channel ≠ c) (acc : List SetEntry) :
    entryOf (incoming.foldl (fun acc i => putEntry (f i) acc) acc) c = entryOf acc c := by
  induction incoming generalizing acc with
  | nil => rfl
  | cons i rest ih =>
    rw [List.foldl_cons, ih (fun j hj => absent j (List.mem_cons_of_mem _ hj)), entryOf_putEntry, own,
      if_neg (absent i List.mem_cons_self)]

/-- Of entries with distinct channels, each is found in its place. -/
theorem entryOf_puts_present (f : IncomingEntry → SetEntry) (own : ∀ i, (f i).channel = i.channel) {incoming : List IncomingEntry}
    (order : Ascending incoming) {i : IncomingEntry} (mem : i ∈ incoming) (acc : List SetEntry) :
    entryOf (incoming.foldl (fun acc i => putEntry (f i) acc) acc) i.channel = some (f i) := by
  induction incoming generalizing acc with
  | nil => exact nomatch mem
  | cons j rest ih =>
    obtain ⟨below, order⟩ := List.pairwise_cons.1 order
    rw [List.foldl_cons]
    rcases List.mem_cons.1 mem with rfl | later
    · have absent : ∀ k ∈ rest, k.channel ≠ i.channel := fun k hk => ne_of_gt (below k.channel (List.mem_map_of_mem hk))
      rw [entryOf_puts_absent f own absent, entryOf_putEntry, if_pos (own i)]
    · exact ih order later _

theorem entryOf_map (f : SetEntry → SetEntry) (own : ∀ e, (f e).channel = e.channel) (xs : List SetEntry) (c : Channel) :
    entryOf (xs.map f) c = (entryOf xs c).map f := by
  unfold entryOf
  rw [List.find?_map]
  congr 1
  exact congrArg (fun g => xs.find? g) (funext fun e => by rw [Function.comp, own])

theorem entryOf_channel {xs : List SetEntry} {c : Channel} {e : SetEntry} (h : entryOf xs c = some e) : e.channel = c :=
  beq_iff_eq.1 (List.find?_some (p := fun x : SetEntry => x.channel == c) h)

theorem startLevel_found {tm : FadeTiming} {now : Time} {old : List SetEntry} {c : Channel} {e : SetEntry} (h : entryOf old c = some e) :
    startLevel tm now old c = fadeValue tm now e := by
  rw [startLevel, h]

theorem startLevel_absent {tm : FadeTiming} {now : Time} {old : List SetEntry} {c : Channel} (h : entryOf old c = none) :
    startLevel tm now old c = 0 := by
  rw [startLevel, h]

/-- The build is the one that R33 tabulates. -/
theorem crossfadeSet_is (x : Playback) (now : Time) (stamp : Nat) :
    IsTheCrossfadeOf x now stamp (crossfadeSet x.timing now stamp x.entries x.incoming) := by
  intro entries incoming
  refine ⟨crossfadeSet_ascending _ _ _ _ entries, fun c => ⟨fun i mem own => ?_, fun absent => ?_⟩⟩
  · subst own
    refine ⟨startLevel x.timing now x.entries i.channel, fun old found => ?_, fun none => startLevel_absent none, ?_⟩
    · rw [startLevel_found found]
      exact fadeValue_is ..
    · exact entryOf_puts_present (fun i => takenEntry (startLevel x.timing now x.entries i.channel) stamp i) (fun _ => rfl) incoming mem _
  · have kept : entryOf (crossfadeSet x.timing now stamp x.entries x.incoming) c
        = (entryOf x.entries c).map fun e => leavingEntry (fadeValue x.timing now e) e := by
      rw [← entryOf_map (fun e => leavingEntry (fadeValue x.timing now e) e) fun _ => rfl]
      exact entryOf_puts_absent (fun i => takenEntry (startLevel x.timing now x.entries i.channel) stamp i) (fun _ => rfl) absent _
    refine ⟨fun none => ?_, fun old found => ⟨fadeValue x.timing now old, fadeValue_is .., ?_⟩⟩
    · exact kept.trans (congrArg _ none)
    · refine kept.trans ((congrArg _ found).trans ?_)
      rw [Option.map_some, leavingEntry, entryOf_channel found]

end Sys2Proof.Machine
end

section
/-! SUPPORT. A queue that is served at an instant at which no timer of its playback is due finds none due after any of its requests (R7,
R14, R15, R102). -/

namespace Sys2Proof.Machine

/-- No timer that the playback runs, or a RESUME would arm, has been reached. -/
def Prompt (now : Time) (x : Playback) : Prop :=
  let left := BitVec.ofInt 32 (x.timing.paused.getD 0)
  match x.fade, x.remembered with
  | .idle, _ => True
  | .fading, _ => reached now x.timing.fadeEnd = false
  | .releasing, _ => reached now x.timing.fadeEnd = false
  | .holding, _ => ∀ d, x.follow = some d → reached now d = false
  | .paused, some .holding => reached now (now + left) = false
  | .paused, some _ => reached now (x.timing.fadeEnd + (now - left - x.timing.start)) = false
  | .paused, none => True

theorem ofInt_showDiff (a b : Time) : BitVec.ofInt 32 (showDiff a b) = a - b := by rw [showDiff, BitVec.ofInt_toInt]

/-- A follow that is disarmed is not due. -/
theorem Prompt.disarmed {now : Time} {x : Playback} (h : Prompt now x) : Prompt now { x with follow := none } := by
  unfold Prompt at h ⊢
  dsimp only at h ⊢
  cases fade : x.fade with
  | holding => exact fun d armed => absurd armed (by simp)
  | idle => trivial
  | fading => simpa only [fade] using h
  | releasing => simpa only [fade] using h
  | paused =>
    rw [fade] at h
    cases was : x.remembered with
    | none => trivial
    | some st => cases st <;> simpa only [was] using h

/-- A pause and a resume at one instant leave the fade end where it was. -/
theorem sub_elapsed (now start : Time) : now - (now - start) - start = 0#32 := by bv_omega

theorem servedQueue_prompt {now : Time} (rs : List QueuedRequest) {x : Playback} (h : Prompt now x) :
    (servedQueue false now rs x).late = false := by
  induction rs generalizing x with
  | nil => rfl
  | cons r rest ih =>
    obtain ⟨origin, kind⟩ := r
    cases kind with
    | go bank cue time => rfl
    | goNext given =>
      cases last : x.lastCue with
      | some c => simp only [servedQueue, last, Bool.false_eq_true, if_false]
      | none =>
        cases given with
        | some bank => simp only [servedQueue, last, Bool.false_eq_true, if_false]
        | none =>
          simp only [servedQueue, last, Bool.false_eq_true, if_false, Bool.false_or]
          exact ih h.disarmed
    | pause =>
      cases fade : x.fade with
      | idle => simpa only [servedQueue, fade, Bool.false_or] using ih h
      | paused => simpa only [servedQueue, fade, Bool.false_or] using ih h
      | fading =>
        simp only [servedQueue, fade, Bool.false_or]
        refine ih ?_
        simpa only [Prompt, fade, Option.getD_some, ofInt_showDiff, sub_elapsed, BitVec.add_zero] using h
      | releasing =>
        simp only [servedQueue, fade, Bool.false_or]
        refine ih ?_
        simpa only [Prompt, fade, Option.getD_some, ofInt_showDiff, sub_elapsed, BitVec.add_zero] using h
      | holding =>
        cases follow : x.follow with
        | none =>
          simp only [servedQueue, fade, follow, Bool.false_or]
          exact ih h
        | some d =>
          simp only [servedQueue, fade, follow, Bool.false_or]
          refine ih ?_
          have ahead : ∀ d, x.follow = some d → reached now d = false := by simpa only [Prompt, fade] using h
          have back : now + (d - now) = d := by rw [BitVec.add_comm, BitVec.sub_add_cancel]
          simpa only [Prompt, Option.getD_some, ofInt_showDiff, back] using ahead d follow
    | resume =>
      cases fade : x.fade with
      | idle => simpa only [servedQueue, fade, Bool.false_or] using ih h
      | fading => simpa only [servedQueue, fade, Bool.false_or] using ih h
      | releasing => simpa only [servedQueue, fade, Bool.false_or] using ih h
      | holding => simpa only [servedQueue, fade, Bool.false_or] using ih h
      | paused =>
        cases was : x.remembered with
        | none => simpa only [servedQueue, fade, was, Bool.false_or] using ih h
        | some st =>
          cases st with
          | fading =>
            simp only [Prompt, fade, was] at h
            simp only [servedQueue, fade, was, h, Bool.false_or]
            exact ih h
          | releasing =>
            simp only [Prompt, fade, was] at h
            simp only [servedQueue, fade, was, h, Bool.false_or]
            exact ih h
          | holding =>
            simp only [Prompt, fade, was] at h
            simp only [servedQueue, fade, was, h, Bool.false_or]
            exact ih fun d armed => Option.some.inj armed ▸ h

end Sys2Proof.Machine
end

section
/-! SUPPORT. A load that completes: the crossfade is built, a fade end and a follow that are due are taken, and the queue goes on (R7, R8, R10,
R20 to R22). -/

namespace Sys2Proof.Machine

/-! ### What follows a report of the loader -/

section

variable {p : Fin 8} {x : Playback} {rest : List QueuedRequest} {first : List Completion} {edits : List HeldEdit} {m : Mixer} {stuck : Nat}
  {b s : Block}

theorem Reported.playback (h : Reported p x rest first edits m stuck b s) : playbackOf s p = { x with queue := rest } := by
  rw [playbackOf, h.playbacks, getAt_setAt]

/-- The fade end of a playback that the report has left FADING, before its follow is looked at (R20). -/
theorem Reported.fadeEnded (h : Reported p x rest first edits m stuck b s) (freed : Nat) :
    Reported p x.toHolding rest first (edits ++ [⟨p, x.toHolding.view, freed⟩]) m stuck b
      (Machine.fadeEnded p { x.toHolding with queue := rest } freed s) := by
  have only := fadeEnded_rest p { x.toHolding with queue := rest } freed s
  obtain ⟨playbacks, loader, mixer, queue, reserved, time, engine, anchor⟩ := h
  refine ⟨?_, ?_, ?_, ?_, ?_, ?_, ?_, ?_⟩
  · rw [fadeEnded_playbacks, playbacks, setAt_setAt]
  · rw [only, loader]
  · change (edit p freed (setPlayback p { x.toHolding with queue := rest } s)).mixer = _
    rw [edit_handed, setPlayback_mixer, playbackOf_setPlayback, mixer, handed_append]
    rfl
  · rw [fadeEnded_results, queue]
  · unfold Reserved
    rw [fadeEnded_results]
    exact reserved
  · rw [fadeEnded_time, time]
  · rw [fadeEnded_engine, engine]
  · rw [only, anchor]

/-- Another playback in the place of the one reported. -/
theorem Reported.replaced (h : Reported p x rest first edits m stuck b s) (y : Playback) (others : List QueuedRequest)
    (reserved : Reserved others s) : Reported p y others first edits m stuck b (setPlayback p { y with queue := others } s) := by
  obtain ⟨playbacks, loader, mixer, queue, _, time, engine, anchor⟩ := h
  refine ⟨?_, loader, mixer, queue, reserved, time, engine, anchor⟩
  rw [setPlayback_playbacks, playbacks, setAt_setAt]

theorem reserved_follow (s : Block) : Reserved [followRequest] s := ⟨List.nodup_nil, fun _ mem => nomatch mem⟩

/-- A follow that expires after the report is served next, or is superseded (R22). -/
theorem Reported.followEnd (h : Reported p x rest first edits m stuck b s) :
    Reported p { x with follow := none } (if rest = [] then [followRequest] else rest) first edits m stuck b (Machine.followEnd p s)
      ∧ (Machine.followEnd p s).intStatus = s.intStatus ∧ (Machine.followEnd p s).mem = s.mem
      ∧ (Machine.followEnd p s).superseded = if rest = [] then s.superseded else countUp s.superseded := by
  by_cases empty : rest = []
  · subst empty
    rw [followEnd_empty (by rw [h.playback]), h.playback, if_pos rfl, if_pos rfl]
    exact ⟨h.replaced { x with follow := none } _ (reserved_follow s), rfl, rfl, rfl⟩
  · rw [followEnd_superseded (by rw [h.playback]; exact empty), h.playback, if_neg empty, if_neg empty]
    obtain ⟨playbacks, loader, mixer, queue, reserved, time, engine, anchor⟩ := h.replaced { x with follow := none } _ h.reserved
    exact ⟨⟨playbacks, loader, mixer, queue, reserved, time, engine, anchor⟩, rfl, rfl, rfl⟩

/-- Serving the queue, the loader and the arbiter touch the playbacks, the loader, the results, the port and the mixer alone. -/
theorem Reported.goesOn_rest (h : Reported p x rest first edits m stuck b s) (load : x.load = .none) (runs : b.engine.state ≠ .halted)
    (prompt : Prompt b.time.clock x) : OnlyPlaybacks s (serveNext (takeLoadJob (serve p s))) := by
  have live : s.engine.state ≠ .halted := by rw [h.engine]; exact runs
  obtain ⟨u, served, goes⟩ := serve_servesTo (halted := false) rest h.playback load (decide_eq_false live).symm
    (servedQueue_prompt rest (by rw [h.time]; exact prompt))
  have only := served.rest
  have taking : OnlyPlaybacks s (takeLoadJob (serve p s)) := by
    have taken : takeLoadJob (serve p s) = takeLoadJob u := by
      rw [goes]
      split
      · exact takeLoadJob_again
      · rfl
    unfold OnlyPlaybacks at only ⊢
    rw [taken, takeLoadJob_rest, only]
  unfold OnlyPlaybacks at taking ⊢
  rw [serveNext, taking]
  rfl

end

/-! ### The crossfade build's part -/

/-- The mixer with its take stamp counter moved on (R32). -/
def stampedMixer (m : Mixer) : Mixer := { m with takeStamp := nextStamp m.takeStamp }

/-- The crossfade is built and its request completes, at a whole tenure's end (R10, R56). -/
theorem built_reported {b : Block} {c : CurrentLoad} {r : QueuedRequest} {rest : List QueuedRequest} {k : TenureKind} {x y : Playback}
    {freed : Nat} (code : ResultCode) (v1 v2 : Word) (runs : b.engine.state ≠ .halted) (queue : (playbackOf b c.job.playback).queue = r :: rest)
    (reserved : QueueIsReserved c.job.playback b) (own : y.queue = r :: rest) :
    ∃ s, Reported c.job.playback y rest (completionsOf r.origin code v1 v2) [⟨c.job.playback, y.view, freed⟩] (stampedMixer b.mixer)
        b.loader.stuck b s
      ∧ s.intStatus = b.intStatus ∧ s.superseded = b.superseded ∧ s.mem = (handedOver k b).mem
      ∧ s = finishHead c.job.playback code v1 v2 (edit c.job.playback freed (setPlayback c.job.playback y
          { setPlayback c.job.playback x { handedOver k b with loader := { b.loader with current := none } } with
            mixer := stampedMixer b.mixer })) := by
  have same : { y with queue := r :: rest } = y := by rw [← own]
  have leaves := headLeaves (p := c.job.playback) (r := r) (rest := rest) (y := y) (edits := [⟨c.job.playback, y.view, freed⟩])
    (s := { handedOver k b with loader := { b.loader with current := none }, mixer := stampedMixer b.mixer })
    (u := edit c.job.playback freed (setPlayback c.job.playback y
          { setPlayback c.job.playback x { handedOver k b with loader := { b.loader with current := none } } with
            mixer := stampedMixer b.mixer }))
    code v1 v2
    (by
      rw [edit_playbacks, setPlayback_playbacks, same]
      exact setAt_setAt ..)
    (by rw [edit_eq]; rfl)
    (by rw [edit_handed, playbackOf_setPlayback]; rfl)
    (by rw [edit_results]; rfl)
    (by
      unfold OnlyPlaybacks
      rw [edit_eq]
      rfl)
  have reserves : Reserved (r :: rest) b := by
    rw [← queue]
    exact reserved
  have only := leaves.rest
  refine ⟨_, ?_, by rw [only]; rfl, by rw [only]; rfl, by rw [only], rfl⟩
  exact leaves.reported (b := b) (earlier := []) (m := stampedMixer b.mixer) (stuck := b.loader.stuck) rfl rfl (handed_nil _).symm rfl rfl rfl
    rfl runs reserves

section

variable {b : Block} {c : CurrentLoad} {h : CueHeader} {k : TenureKind} (current : b.loader.current = some c) (stage : c.stage = .unlock)
  (abandon : c.abandon = false) (failed : c.failed = none) (header : c.header = some h)

include current stage abandon failed header

/-- The release write of a job that has its cue (R10, R56). -/
theorem loaderDone_completed :
    loaderDone (wordsOf k b.mem) (handedOver k b) = takeLoadJob (loadCompleted c.job.playback c.job.bank h
      (setPlayback c.job.playback { playbackOf b c.job.playback with reservation := 0 }
        { handedOver k b with loader := { b.loader with current := none } })) := by
  have same : (handedOver k b).loader.current = some c := current
  have unlock : loaderDone (wordsOf k b.mem) (handedOver k b) = unlockDone c (handedOver k b) := by
    rw [loaderDone, same]
    dsimp only
    rw [stage]
  have completed : unlockDone c (handedOver k b) = endJob (loadCompleted c.job.playback c.job.bank h)
      (modPlayback c.job.playback (fun x => { x with reservation := 0 }) (handedOver k b)) := by
    rw [unlockDone, abandon, failed, header]
  rw [unlock, completed, modPlayback_eq]
  rfl

end

end Sys2Proof.Machine
end

section
/-! SUPPORT. A load that completes (continued): the fade end and the follow taken at once, and the queue after them (R10, R20 to R22). -/

namespace Sys2Proof.Machine

/-- What the last tenure of a load ends with: the queue goes on, and INTSTATUS, the superseded count and the memory are what they were. -/
theorem Reported.ends {p : Fin 8} {x : Playback} {rest : List QueuedRequest} {first : List Completion} {edits : List HeldEdit} {m : Mixer}
    {stuck : Nat} {b s : Block} (h : Reported p x rest first edits m stuck b s) (load : x.load = .none) (runs : b.engine.state ≠ .halted)
    (prompt : Prompt b.time.clock x) (pass : m.pass = b.mixer.pass) :
    TheQueueGoesOn p x rest first edits m stuck b (serveNext (takeLoadJob (serve p s)))
      ∧ isRaised .playback (serveNext (takeLoadJob (serve p s))) = isRaised .playback s
      ∧ (serveNext (takeLoadJob (serve p s))).superseded = s.superseded ∧ (serveNext (takeLoadJob (serve p s))).mem = s.mem := by
  have only := h.goesOn_rest load runs prompt
  refine ⟨h.goesOn load runs pass, ?_, by rw [only], by rw [only]⟩
  rw [isRaised, only]
  rfl

/-- The follow that a playback's fade end arms when it is taken at once. -/
def followNow (now : Time) (x : Playback) : Option Time := if reached now x.timing.fadeEnd then FollowArmed x else none

/-- A FADING playback at once after its report: its fade end taken when it is due, and a follow that is due gone. -/
def settledNow (now : Time) (x : Playback) : Playback :=
  { if reached now x.timing.fadeEnd then { x with fade := .holding, entries := settledSet x.entries } else x with
    follow := if timerDue now (followNow now x) then none else followNow now x }

/-- The edits of a FADING playback at once after its report. -/
def settlingEdits (p : Fin 8) (now : Time) (x : Playback) : List HeldEdit :=
  if reached now x.timing.fadeEnd then [⟨p, x.toHolding.view, (x.entries.filter fun e => e.leaving).length⟩] else []

theorem settledNow_ahead {now : Time} {x : Playback} (ahead : reached now x.timing.fadeEnd = false) (follow : x.follow = none) :
    settledNow now x = x := by
  have none : followNow now x = none := if_neg (by rw [ahead]; exact Bool.false_ne_true)
  have same : { x with follow := Option.none } = x := by rw [← follow]
  rw [settledNow, none, if_neg (by rw [ahead]; exact Bool.false_ne_true)]
  exact same

theorem followNow_due {now : Time} {x : Playback} (due : reached now x.timing.fadeEnd = true) : followNow now x = FollowArmed x := if_pos due

theorem settledNow_holds {now : Time} {x : Playback} (due : reached now x.timing.fadeEnd = true) (later : timerDue now (FollowArmed x) = false) :
    settledNow now x = x.toHolding := by
  rw [settledNow, followNow_due due, if_pos due, later]
  rfl

theorem settledNow_expires {now : Time} {x : Playback} (due : reached now x.timing.fadeEnd = true)
    (expires : timerDue now (FollowArmed x) = true) : settledNow now x = { x.toHolding with follow := none } := by
  rw [settledNow, followNow_due due, if_pos due, expires]
  rfl

/-- A playback that the report has left FADING: its fade end and its follow are taken when they are due, and the queue goes on (R10, R20
to R22). -/
theorem Reported.settles {p : Fin 8} {x : Playback} {rest : List QueuedRequest} {first : List Completion} {edits : List HeldEdit} {m : Mixer}
    {stuck : Nat} {b s t : Block} (h : Reported p x rest first edits m stuck b s) (fading : x.fade = .fading) (load : x.load = .none)
    (follow : x.follow = none) (runs : b.engine.state ≠ .halted) (pass : m.pass = b.mixer.pass)
    (is : t = serveNext (takeLoadJob (serve p (fadeEndIfDue p s)))) :
    (TheQueueGoesOn p (settledNow b.time.clock x)
        (if timerDue b.time.clock (followNow b.time.clock x) ∧ rest = [] then [⟨.follow, .goNext none⟩] else rest) first
        (edits ++ settlingEdits p b.time.clock x) m stuck b t
      ∧ isRaised .playback t = (isRaised .playback s || reached b.time.clock x.timing.fadeEnd)
      ∧ t.superseded = if timerDue b.time.clock (followNow b.time.clock x) ∧ rest ≠ [] then countUp s.superseded else s.superseded)
    ∧ t.mem = s.mem := by
  subst is
  have timer : fadeEndIfDue p s = if reached b.time.clock x.timing.fadeEnd then fadeEnds p s else s := by
    rw [fadeEndIfDue_of_timer (by rw [h.playback]; exact .inl fading), h.playback, h.time]
  cases due : reached b.time.clock x.timing.fadeEnd with
  | false =>
    have none : followNow b.time.clock x = none := if_neg (by rw [due]; exact Bool.false_ne_true)
    have notDue : ¬timerDue b.time.clock Option.none = true := Bool.false_ne_true
    rw [timer, due, if_neg Bool.false_ne_true, settledNow_ahead due follow, none, settlingEdits, due, if_neg Bool.false_ne_true,
      List.append_nil, if_neg fun both => notDue both.1, if_neg fun both => notDue both.1, Bool.or_false]
    obtain ⟨goes, raised, superseded, mem⟩ := h.ends load runs (by simpa only [Prompt, fading] using due) pass
    exact ⟨⟨goes, raised, superseded⟩, mem⟩
  | true =>
    have ended := h.fadeEnded (x.entries.filter fun e => e.leaving).length
    have ends : fadeEnds p s = if timerDue b.time.clock (FollowArmed x)
        then Machine.followEnd p (Machine.fadeEnded p { x.toHolding with queue := rest } (x.entries.filter fun e => e.leaving).length s)
        else Machine.fadeEnded p { x.toHolding with queue := rest } (x.entries.filter fun e => e.leaving).length s := by
      rw [fadeEnds_fading (by rw [h.playback]; exact fading), followIfDue_fadeEnded, h.playback, h.time]
      rfl
    have raisedNow := fadeEnded_raised p { x.toHolding with queue := rest } (x.entries.filter fun e => e.leaving).length s
    have supersededNow := fadeEnded_superseded p { x.toHolding with queue := rest } (x.entries.filter fun e => e.leaving).length s
    have memNow : (Machine.fadeEnded p { x.toHolding with queue := rest } (x.entries.filter fun e => e.leaving).length s).mem = s.mem := by
      rw [fadeEnded_rest]
    rw [timer, due, if_pos rfl, ends, followNow_due due, settlingEdits, due, if_pos rfl, Bool.or_true]
    cases expires : timerDue b.time.clock (FollowArmed x) with
    | false =>
      rw [settledNow_holds due expires, if_neg Bool.false_ne_true, if_neg fun both => Bool.false_ne_true both.1,
        if_neg fun both => Bool.false_ne_true both.1]
      have prompt : Prompt b.time.clock x.toHolding := fun d armed => by
        have same : FollowArmed x = some d := armed
        rw [same] at expires
        exact expires
      obtain ⟨goes, raised, superseded, mem⟩ := ended.ends load runs prompt pass
      exact ⟨⟨goes, raised.trans raisedNow, superseded.trans supersededNow⟩, mem.trans memNow⟩
    | true =>
      rw [settledNow_expires due expires, if_pos rfl]
      obtain ⟨followed, followedRaised, followedMem, followedCount⟩ := ended.followEnd
      obtain ⟨goes, raised, superseded, mem⟩ := followed.ends load runs (fun d armed => nomatch armed) pass
      refine ⟨⟨?_, raised.trans ?_, superseded.trans ?_⟩, mem.trans (followedMem.trans memNow)⟩
      · simp only [true_and]
        exact goes
      · rw [isRaised, followedRaised]
        exact raisedNow
      · rw [followedCount, supersededNow]
        by_cases empty : rest = []
        · rw [if_pos empty, if_neg fun both => both.2 empty]
        · rw [if_neg empty, if_pos ⟨rfl, empty⟩]

end Sys2Proof.Machine
end

section
/-! SUPPORT. A load that completes (continued): the whole tenure end, and the obligation about the crossfade (R10, R33, R35, R56). -/

namespace Sys2Proof.Machine

/-- The playback after the crossfade build, with the time override of its request (R10, R33, R35). -/
def crossfadedBy (x : Playback) (now : Time) (stamp bank : Nat) (h : CueHeader) (override : Option Nat) : Playback :=
  { x with
    fade := .fading
    remembered := none
    load := .none
    entries := crossfadeSet x.timing now stamp x.entries x.incoming
    incoming := []
    reservation := 0
    timing := crossfadeTiming now h.delay (override.getD h.up) (override.getD h.down) (crossfadeSet x.timing now stamp x.entries x.incoming)
    follow := none
    lastCue := some (h.lastCue bank) }

theorem crossfaded_eq {x : Playback} {override : Option Nat} (given : overrideOf x = override) (now : Time) (stamp bank : Nat)
    (h : CueHeader) : ({ x with reservation := 0 } : Playback).crossfaded now stamp bank h = crossfadedBy x now stamp bank h override := by
  subst given
  rfl

/-- The entries that the crossfade build frees. -/
def crossfadeSpare (x : Playback) (now : Time) (stamp : Nat) : Nat :=
  x.entries.length + x.incoming.length - (crossfadeSet x.timing now stamp x.entries x.incoming).length

/-- The release write of a load job that has its cue ends (R10, R56). -/
theorem completed_ends {b : Block} {c : CurrentLoad} {h : CueHeader} {r : QueuedRequest} {rest : List QueuedRequest} {k : TenureKind}
    {override : Option Nat} {x y : Playback} (running : b.engine.state = .running) (ends : EndsDone .loader k b)
    (current : b.loader.current = some c) (stage : c.stage = .unlock) (abandon : c.abandon = false) (failed : c.failed = none)
    (header : c.header = some h) (own : playbackOf b c.job.playback = x) (queue : x.queue = r :: rest)
    (reserved : QueueIsReserved c.job.playback b) (given : overrideOf x = override)
    (is : crossfadedBy x b.time.clock b.mixer.takeStamp c.job.bank h override = y) :
    EndsWith b fun t =>
      (TheQueueGoesOn c.job.playback (settledNow b.time.clock y)
          (if timerDue b.time.clock (followNow b.time.clock y) ∧ rest = [] then [⟨.follow, .goNext none⟩] else rest)
          (completionsOf r.origin .ok (BitVec.ofNat 32 h.cue) (BitVec.ofNat 32 y.entries.length))
          ([⟨c.job.playback, y.view, crossfadeSpare x b.time.clock b.mixer.takeStamp⟩] ++ settlingEdits c.job.playback b.time.clock y)
          (stampedMixer b.mixer) b.loader.stuck b t
        ∧ isRaised .playback t = (isRaised .playback b || reached b.time.clock y.timing.fadeEnd)
        ∧ t.superseded = if timerDue b.time.clock (followNow b.time.clock y) ∧ rest ≠ [] then countUp b.superseded else b.superseded)
      ∧ t.mem = (handedOver k b).mem := by
  subst own
  refine endsWith_loader ends (.inl running) ?_
  have runs : b.engine.state ≠ .halted := by rw [running]; decide
  obtain ⟨s, reported, raised, superseded, mem, finished⟩ := built_reported (k := k)
    (x := { playbackOf b c.job.playback with reservation := 0 }) (y := y)
    (freed := crossfadeSpare (playbackOf b c.job.playback) b.time.clock b.mixer.takeStamp) .ok (BitVec.ofNat 32 h.cue)
    (BitVec.ofNat 32 y.entries.length) runs queue reserved (by rw [← is]; exact queue)
  have completed : loadCompleted c.job.playback c.job.bank h
      (setPlayback c.job.playback { playbackOf b c.job.playback with reservation := 0 }
        { handedOver k b with loader := { b.loader with current := none } }) = serve c.job.playback (fadeEndIfDue c.job.playback s) := by
    rw [finished, ← is, ← crossfaded_eq given, loadCompleted, playbackOf_setPlayback]
    rfl
  have settles := reported.settles (by rw [← is]; rfl) (by rw [← is]; rfl) (by rw [← is]; rfl) runs rfl
    (t := serveNext (loaderDone (wordsOf k b.mem) (handedOver k b)))
    (by rw [loaderDone_completed current stage abandon failed header, completed])
  have raisedBefore : isRaised .playback s = isRaised .playback b := by rw [isRaised, raised, isRaised]
  rw [superseded, mem, raisedBefore] at settles
  exact settles

theorem aBuiltLoadLetsTheQueueGoOn : ABuiltLoadLetsTheQueueGoOn := by
  intro b c h r rest k running ends current stage abandon failed header queue reserved
  obtain ⟨origin, kind⟩ := r
  dsimp only
  refine ⟨_, crossfadeSet_is _ _ _, fun q => ?_⟩
  obtain ⟨t, taken, goes, mem⟩ := completed_ends running ends current stage abandon failed header rfl queue reserved
    (override := overrideOf (playbackOf b c.job.playback)) rfl rfl q
  refine ⟨t, taken, ?_⟩
  rw [overrideOf, queue] at goes
  cases kind <;> exact goes

end Sys2Proof.Machine
end

section
/-! SUPPORT. A completed load with no other request behind it (R10, R56). -/

namespace Sys2Proof.Machine

/-- The job that the loader takes is not the playback's own. -/
theorem takesFrom_playback {queue : List LoadJob} {playbacks : Vector Playback 8} {stuck : Nat} {b t : Block} {p : Fin 8}
    (h : TheLoaderTakesFrom queue playbacks stuck b t) (others : ∀ j ∈ queue, j.playback ≠ p) : playbackOf t p = getAt playbacks p := by
  obtain ⟨waits, takes⟩ := h
  cases found : queue.find? fun j => !j.deferred with
  | none =>
    rw [playbackOf, (waits fun j mem => by simpa using List.find?_eq_none.1 found j mem).2]
  | some j =>
    obtain ⟨eligible, before, after, split, earlier⟩ := List.find?_eq_some_iff_append.1 found
    obtain ⟨_, playbacks, _⟩ := takes before j after split (fun k mem => by simpa using earlier k mem) (by simpa using eligible)
    rw [playbackOf, playbacks, getAt_setAt_ne _ _ _ _ (others j (List.mem_of_find?_eq_some found)).symm]

section

variable {p : Fin 8} {x : Playback} {first : List Completion} {edits : List HeldEdit} {m : Mixer} {stuck : Nat} {b t : Block}
  (h : TheQueueGoesOn p x [] first edits m stuck b t)

include h

/-- With no request behind it the playback idles with an empty queue. -/
theorem queueGoesOn_empties (others : ∀ j ∈ b.loader.queue, j.playback ≠ p) :
    playbackOf t p = { x with queue := [] } ∧ t.results.queue = b.results.queue ++ first
      ∧ (b.mixer.pass = none → t.mixer = { m with views := landEdits m.views edits })
      ∧ (b.mixer.pass.isSome = true → t.mixer = { m with held := m.held ++ edits }) := by
  obtain ⟨results, between, during, takes⟩ := h rfl
  have none : edits ++ List.map (fun v => (⟨p, v, 0⟩ : HeldEdit)) [] = edits := List.append_nil edits
  refine ⟨?_, results.trans (List.append_nil _), fun pass => ?_, fun pass => ?_⟩
  · rw [takesFrom_playback takes fun j mem => others j ((List.mem_append.1 mem).elim id nofun), getAt_setAt]
    rfl
  · rw [between pass]
    exact congrArg (fun es => { m with views := landEdits m.views es }) none
  · rw [during pass]
    exact congrArg (fun es => { m with held := m.held ++ es }) none

end

theorem handedOver_write_mem (a : Word) (ws : List Word) (b : Block) : (handedOver (.write a ws) b).mem = b.mem.writeBurst a ws := by
  change b.mem.writeBurst a (ws.take ws.length) = _
  rw [List.take_length]

/-- A completed load whose fade end lies ahead, with no request behind it: the playback fades, and the request has its completion. -/
theorem completed_fades {b : Block} {c : CurrentLoad} {h : CueHeader} {slot : Fin 32} {kind : QueuedKind} {a : Word} {ws : List Word}
    {override : Option Nat} {x y : Playback} (running : b.engine.state = .running) (ends : EndsDone .loader (.write a ws) b)
    (current : b.loader.current = some c) (stage : c.stage = .unlock) (abandon : c.abandon = false) (failed : c.failed = none)
    (header : c.header = some h) (own : playbackOf b c.job.playback = x) (queue : x.queue = [⟨.post slot, kind⟩])
    (reserved : slot ∈ b.results.reserved) (others : ∀ j ∈ b.loader.queue, j.playback ≠ c.job.playback) (given : overrideOf x = override)
    (is : crossfadedBy x b.time.clock b.mixer.takeStamp c.job.bank h override = y)
    (ahead : reached b.time.clock y.timing.fadeEnd = false) :
    EndsWith b fun t =>
      playbackOf t c.job.playback = { y with queue := [] }
      ∧ t.results.queue = b.results.queue ++ [⟨slot, .ok, BitVec.ofNat 32 h.cue, BitVec.ofNat 32 y.entries.length, 0⟩]
      ∧ ((b.mixer.pass = none →
            t.mixer = { stampedMixer b.mixer with views := setAt b.mixer.views c.job.playback (playbackOf t c.job.playback).view })
          ∧ (b.mixer.pass.isSome = true →
            t.mixer = { stampedMixer b.mixer with
              held := b.mixer.held
                ++ [⟨c.job.playback, (playbackOf t c.job.playback).view, crossfadeSpare x b.time.clock b.mixer.takeStamp⟩] }
            ∧ awaitingLanding t = awaitingLanding b + crossfadeSpare x b.time.clock b.mixer.takeStamp))
      ∧ t.mem = b.mem.writeBurst a ws := by
  have places : QueueIsReserved c.job.playback b := by
    unfold QueueIsReserved
    rw [own, queue]
    exact ⟨List.nodup_singleton slot, fun i mem => List.mem_singleton.1 mem ▸ reserved⟩
  intro q
  obtain ⟨t, taken, ⟨goes, -, -⟩, mem⟩ := completed_ends running ends current stage abandon failed header own queue places given is q
  have none : followNow b.time.clock y = none := if_neg (by rw [ahead]; exact Bool.false_ne_true)
  have edits : settlingEdits c.job.playback b.time.clock y = [] := if_neg (by rw [ahead]; exact Bool.false_ne_true)
  have notDue : ¬(timerDue b.time.clock (Option.none : Option Time) = true ∧ ([] : List QueuedRequest) = []) :=
    fun both => Bool.false_ne_true both.1
  rw [settledNow_ahead ahead (by rw [← is]; rfl), none, edits, if_neg notDue] at goes
  obtain ⟨playback, results, between, during⟩ := queueGoesOn_empties goes others
  have view : (playbackOf t c.job.playback).view = y.view := by rw [playback]; rfl
  refine ⟨t, taken, playback, results, ⟨fun pass => ?_, fun pass => ?_⟩, mem.trans (handedOver_write_mem a ws b)⟩
  · rw [view, between pass]
    rfl
  · have mixer := during pass
    rw [view, mixer]
    refine ⟨rfl, ?_⟩
    rw [awaitingLanding, mixer, List.append_nil, List.map_append, List.sum_append]
    exact congrArg (awaitingLanding b + ·) (Nat.add_zero _)

/-- Settles O46: the crossfade's build, what follows it, the stages before it, and the end of a job that has failed. -/
theorem aCompletedLoadBuildsTheCrossfade : Obligations.ACompletedLoadBuildsTheCrossfade := by
  unfold Obligations.ACompletedLoadBuildsTheCrossfade
  refine ⟨?_, aBuiltLoadLetsTheQueueGoOn, theLoadersStagesLeadOn, aReleaseWriteEndsTheJob⟩
  intro b q c h slot kind done value a ws phase running aborting transfers tenure current stage abandon failed header queue reserved others
  dsimp only
  refine ⟨_, crossfadeSet_is _ _ _, fun ahead => ?_⟩
  have ends : EndsDone .loader (.write a ws) b := ⟨phase, transfers, aborting, done, value, tenure⟩
  refine completed_fades running ends current stage abandon failed header rfl queue reserved others ?_ rfl ahead q
  rw [overrideOf, queue]
  cases kind <;> rfl

end Sys2Proof.Machine
end

section
/-! SUPPORT. A playback that serves its queue in HALTED (R25, R60, R189). -/

namespace Sys2Proof.Machine

/-- In HALTED a completion changes the results alone (R176). -/
theorem complete_halted {s : Block} (halted : s.engine.state = .halted) (i : Fin 32) (code : ResultCode) (v1 v2 v3 : Word) :
    complete i code v1 v2 v3 s = { s with results := (complete i code v1 v2 v3 s).results } := by
  have port : (complete i code v1 v2 v3 s).port = s.port := by
    rw [complete_port]
    have quiet : writerBegins s = false := by simp [writerBegins, halted]
    rw [quiet, Bool.and_false, if_neg Bool.false_ne_true]
  conv_lhs => rw [(Posts.complete i code v1 v2 v3 s).rest, withPosts, port]

theorem completeOrigin_halted {s : Block} (halted : s.engine.state = .halted) (o : Origin) (code : ResultCode) (v1 v2 : Word) :
    completeOrigin o code v1 v2 s = { s with results := (completeOrigin o code v1 v2 s).results } := by
  cases o with
  | post i => exact complete_halted halted i code v1 v2 0
  | trigger t => rfl
  | follow => rfl

/-- What serving a queue in HALTED can change; no playback's list or reservation changes. -/
structure ServesHalted (s t : Block) : Prop where
  rest : t = { s with
    playbacks := t.playbacks, results := t.results, superseded := t.superseded, intStatus := t.intStatus
    mixer := { s.mixer with views := t.mixer.views, held := t.mixer.held } }
  raised : ∀ i, isRaised i s = true → isRaised i t = true
  lists : ∀ p, (playbackOf t p).incoming = (playbackOf s p).incoming ∧ (playbackOf t p).reservation = (playbackOf s p).reservation

namespace ServesHalted

theorem refl (s : Block) : ServesHalted s s := ⟨rfl, fun _ => id, fun _ => ⟨rfl, rfl⟩⟩

theorem trans {s t u : Block} (h : ServesHalted s t) (k : ServesHalted t u) : ServesHalted s u := by
  refine ⟨?_, fun i => k.raised i ∘ h.raised i, fun p => ⟨(k.lists p).1.trans (h.lists p).1, (k.lists p).2.trans (h.lists p).2⟩⟩
  rw [k.rest, h.rest]

theorem engine {s t : Block} (h : ServesHalted s t) : t.engine = s.engine := by rw [h.rest]

theorem of_same {s t : Block} (rest : t = { s with
      results := t.results, superseded := t.superseded
      mixer := { s.mixer with views := t.mixer.views, held := t.mixer.held } }) : ServesHalted s t := by
  have playbacks : t.playbacks = s.playbacks := by rw [rest]
  refine ⟨?_, fun i raised => ?_, fun p => by simp only [playbackOf, playbacks, and_self]⟩
  · rw [rest]
  · rw [isRaised, rest]
    exact raised

theorem setPlayback {p : Fin 8} {x : Playback} {s : Block} (incoming : x.incoming = (playbackOf s p).incoming)
    (reservation : x.reservation = (playbackOf s p).reservation) : ServesHalted s (setPlayback p x s) := by
  refine ⟨rfl, fun _ => id, fun q => ?_⟩
  rcases eq_or_ne q p with rfl | other
  · rw [playbackOf_setPlayback]
    exact ⟨incoming, reservation⟩
  · rw [playbackOf_setPlayback_ne _ _ _ _ other]
    exact ⟨rfl, rfl⟩

theorem modPlayback {p : Fin 8} {f : Playback → Playback} {s : Block} (incoming : ∀ x, (f x).incoming = x.incoming)
    (reservation : ∀ x, (f x).reservation = x.reservation) : ServesHalted s (Machine.modPlayback p f s) := by
  rw [modPlayback_eq]
  exact setPlayback (incoming _) (reservation _)

theorem edit (p : Fin 8) (freed : Nat) (s : Block) : ServesHalted s (edit p freed s) := by
  refine of_same ?_
  unfold Machine.edit
  dsimp only
  split <;> rfl

/-- A playback replaced, its list and reservation kept, and the edit of it. -/
theorem edited {p : Fin 8} {x : Playback} {freed : Nat} {s : Block} (incoming : x.incoming = (playbackOf s p).incoming)
    (reservation : x.reservation = (playbackOf s p).reservation) : ServesHalted s (Machine.edit p freed (Machine.setPlayback p x s)) :=
  (setPlayback incoming reservation).trans (edit p freed _)

theorem raiseInt (src : IntSource) (s : Block) : ServesHalted s (raiseInt src s) :=
  ⟨rfl, fun _ raised => isRaised_raiseInt.2 (.inl raised), fun _ => ⟨rfl, rfl⟩⟩

theorem followEnd (p : Fin 8) (s : Block) : ServesHalted s (followEnd p s) := by
  unfold Machine.followEnd
  dsimp only
  split
  · exact setPlayback rfl rfl
  · refine (setPlayback (p := p) (x := { playbackOf s p with follow := none }) rfl rfl).trans ?_
    exact of_same rfl

theorem followIfDue (p : Fin 8) (s : Block) : ServesHalted s (followIfDue p s) := by
  unfold Machine.followIfDue
  split
  · exact followEnd p s
  · exact refl s

theorem fadeEnds (p : Fin 8) (s : Block) : ServesHalted s (fadeEnds p s) := by
  unfold Machine.fadeEnds
  dsimp only
  split
  · refine .trans (.trans ?_ (raiseInt _ _)) (followIfDue p _)
    exact edited rfl rfl
  · refine .trans ?_ (raiseInt _ _)
    exact edited rfl rfl
  · exact refl s

theorem fadeEndIfDue (p : Fin 8) (s : Block) : ServesHalted s (fadeEndIfDue p s) := by
  unfold Machine.fadeEndIfDue
  split
  · exact fadeEnds p s
  · exact refl s

theorem completeOrigin {s : Block} (halted : s.engine.state = .halted) (o : Origin) (code : ResultCode) (v1 v2 : Word) :
    ServesHalted s (completeOrigin o code v1 v2 s) := by
  refine of_same ?_
  conv_lhs => rw [completeOrigin_halted halted]
  rw [completeOrigin_halted halted]

theorem finishHead {p : Fin 8} {code : ResultCode} {v1 v2 : Word} {s : Block} (halted : s.engine.state = .halted) :
    ServesHalted s (finishHead p code v1 v2 s) := by
  unfold Machine.finishHead
  split
  · rename_i r rest _
    have queue : ServesHalted s (Machine.modPlayback p (fun x => { x with queue := rest }) s) := modPlayback (fun _ => rfl) fun _ => rfl
    exact queue.trans (completeOrigin (s := Machine.modPlayback p (fun x => { x with queue := rest }) s) halted _ _ _ _)
  · exact refl s

/-- A playback changed, its list and reservation kept, with its edit, and the head completes. -/
theorem editedAndFinished {p : Fin 8} {x : Playback} {code : ResultCode} {v1 v2 : Word} {s : Block} (halted : s.engine.state = .halted)
    (incoming : x.incoming = (playbackOf s p).incoming) (reservation : x.reservation = (playbackOf s p).reservation) :
    ServesHalted s (Machine.finishHead p code v1 v2 (Machine.edit p 0 (Machine.setPlayback p x s))) :=
  have before := edited (freed := 0) incoming reservation
  before.trans (finishHead (by rw [before.engine]; exact halted))

theorem servePause {p : Fin 8} {s : Block} (halted : s.engine.state = .halted) : ServesHalted s (servePause p s) := by
  unfold Machine.servePause
  dsimp only
  split
  · exact editedAndFinished halted rfl rfl
  · exact editedAndFinished halted rfl rfl
  · exact editedAndFinished halted rfl rfl
  · exact finishHead halted

theorem serveResume {p : Fin 8} {s : Block} (halted : s.engine.state = .halted) : ServesHalted s (serveResume p s) := by
  unfold Machine.serveResume
  dsimp only
  split
  · refine .trans ?_ (fadeEndIfDue p _)
    exact editedAndFinished halted rfl rfl
  · refine .trans ?_ (fadeEndIfDue p _)
    exact editedAndFinished halted rfl rfl
  · refine .trans ?_ (followIfDue p _)
    exact editedAndFinished halted rfl rfl
  · exact finishHead halted

theorem serveLoad {p : Fin 8} {choice : Option (Nat × Search)} {s : Block} (halted : s.engine.state = .halted) :
    ServesHalted s (serveLoad p choice s) := by
  have ends : Machine.serveLoad p choice s
      = Machine.finishHead p .busFault 0 0 (Machine.modPlayback p (fun x => { x with follow := none }) s) := if_pos halted
  rw [ends]
  exact .trans (modPlayback (p := p) (f := fun x => { x with follow := none }) (fun _ => rfl) fun _ => rfl) (finishHead halted)

theorem serveHead {p : Fin 8} {s : Block} (halted : s.engine.state = .halted) : ServesHalted s (serveHead p s) := by
  unfold Machine.serveHead
  dsimp only
  split
  · exact refl s
  · split
    · exact serveLoad halted
    · exact serveLoad halted
    · exact servePause halted
    · exact serveResume halted

theorem serve {p : Fin 8} {s : Block} (halted : s.engine.state = .halted) : ServesHalted s (serve p s) := by
  unfold Machine.serve
  generalize (playbackOf s p).queue.length + 2 = n
  induction n generalizing s with
  | zero => exact refl s
  | succ n ih =>
    unfold serveUpTo
    split
    · have head := serveHead (p := p) halted
      exact head.trans (ih (by rw [head.engine]; exact halted))
    · exact refl s

theorem loadEnded {p : Fin 8} {code : ResultCode} {s : Block} (halted : s.engine.state = .halted) : ServesHalted s (loadEnded p code s) := by
  have idle : ServesHalted s (Machine.modPlayback p (fun x => { x with load := .none }) s) := modPlayback (fun _ => rfl) fun _ => rfl
  have head := finishHead (p := p) (code := code) (v1 := 0) (v2 := 0)
    (s := Machine.modPlayback p (fun x => { x with load := .none }) s) halted
  exact idle.trans (head.trans (serve (by rw [head.engine]; exact halted)))

end ServesHalted

/-! ### What a queue served in HALTED makes -/

/-- A playback frozen at a value of its time, to go on as `st` (R14). -/
def frozenAs (x : Playback) (st : Remembered) (v : Int) : Playback :=
  { x with fade := .paused, remembered := some st, timing := { x.timing with paused := some v } }

/-- In HALTED each head leaves, and what it leaves does not depend on the incoming list and the reservation (R25). -/
theorem servedQueue_halted_cons (now : Time) (r : QueuedRequest) (x : Playback) :
    ∃ (code : ResultCode) (v : Int) (y : Playback) (edits : List PlaybackView) (late : Bool),
      ∀ (rest : List QueuedRequest) (i : List IncomingEntry) (n : Nat),
        servedQueue true now (r :: rest) { x with incoming := i, reservation := n }
          = servedAfter r.origin code v edits late (servedQueue true now rest { y with incoming := i, reservation := n }) := by
  obtain ⟨origin, kind⟩ := r
  cases kind with
  | go bank cue time => exact ⟨.busFault, 0, { x with follow := none }, [], false, fun rest i n => rfl⟩
  | goNext given =>
    refine ⟨.busFault, 0, { x with follow := none }, [], false, fun rest i n => ?_⟩
    cases last : x.lastCue with
    | some c =>
      simp only [servedQueue, last, if_true]
      rfl
    | none => cases given <;> simp only [servedQueue, last, if_true] <;> rfl
  | pause =>
    cases fade : x.fade with
    | idle =>
      refine ⟨.badState, 0, x, [], false, fun rest i n => ?_⟩
      simp only [servedQueue, fade]
      rfl
    | paused =>
      refine ⟨.badState, 0, x, [], false, fun rest i n => ?_⟩
      simp only [servedQueue, fade]
      rfl
    | fading =>
      refine ⟨.ok, showDiff now x.timing.start, frozenAs x .fading (showDiff now x.timing.start),
        [(frozenAs x .fading (showDiff now x.timing.start)).view], false, fun rest i n => ?_⟩
      simp only [servedQueue, fade]
      rfl
    | releasing =>
      refine ⟨.ok, showDiff now x.timing.start, frozenAs x .releasing (showDiff now x.timing.start),
        [(frozenAs x .releasing (showDiff now x.timing.start)).view], false, fun rest i n => ?_⟩
      simp only [servedQueue, fade]
      rfl
    | holding =>
      cases follow : x.follow with
      | none =>
        refine ⟨.badState, 0, x, [], false, fun rest i n => ?_⟩
        simp only [servedQueue, fade, follow]
        rfl
      | some d =>
        refine ⟨.ok, showDiff d now, frozenAs x .holding (showDiff d now),
          [(frozenAs x .holding (showDiff d now)).view], false, fun rest i n => ?_⟩
        simp only [servedQueue, fade, follow, frozenAs]
        rfl
  | resume =>
    cases fade : x.fade with
    | idle =>
      refine ⟨.badState, 0, x, [], false, fun rest i n => ?_⟩
      simp only [servedQueue, fade]
      rfl
    | fading =>
      refine ⟨.badState, 0, x, [], false, fun rest i n => ?_⟩
      simp only [servedQueue, fade]
      rfl
    | holding =>
      refine ⟨.badState, 0, x, [], false, fun rest i n => ?_⟩
      simp only [servedQueue, fade]
      rfl
    | releasing =>
      refine ⟨.badState, 0, x, [], false, fun rest i n => ?_⟩
      simp only [servedQueue, fade]
      rfl
    | paused =>
      cases was : x.remembered with
      | none =>
        refine ⟨.badState, 0, x, [], false, fun rest i n => ?_⟩
        simp only [servedQueue, fade, was]
        rfl
      | some st =>
        cases st with
        | fading =>
          refine ⟨.ok, 0, resumedAs x now .fading,
            [(resumedAs x now .fading).view], reached now (resumedAs x now .fading).timing.fadeEnd, fun rest i n => ?_⟩
          simp only [servedQueue, fade, was]
          rfl
        | releasing =>
          refine ⟨.ok, 0, resumedAs x now .releasing,
            [(resumedAs x now .releasing).view], reached now (resumedAs x now .releasing).timing.fadeEnd, fun rest i n => ?_⟩
          simp only [servedQueue, fade, was]
          rfl
        | holding =>
          refine ⟨.ok, 0, resumedHolding x now,
            [(resumedHolding x now).view], reached now (now + BitVec.ofInt 32 (x.timing.paused.getD 0)), fun rest i n => ?_⟩
          simp only [servedQueue, fade, was]
          rfl

/-- In HALTED no load is begun, and the incoming list and the reservation stay what they are (R25). -/
theorem servedQueue_halted (now : Time) (rs : List QueuedRequest) (x : Playback) (i : List IncomingEntry) (n : Nat) :
    (servedQueue true now rs x).job = none
      ∧ servedQueue true now rs { x with incoming := i, reservation := n }
        = { servedQueue true now rs x with
            playback := { (servedQueue true now rs x).playback with incoming := i, reservation := n } } := by
  induction rs generalizing x with
  | nil => exact ⟨rfl, rfl⟩
  | cons r rest ih =>
    obtain ⟨code, v, y, edits, late, step⟩ := servedQueue_halted_cons now r x
    have own := step rest x.incoming x.reservation
    obtain ⟨none, same⟩ := ih y
    have later := (ih { y with incoming := x.incoming, reservation := x.reservation }).2
    refine ⟨(congrArg Served.job own).trans (ih _).1, (step rest i n).trans ?_⟩
    have first : servedQueue true now (r :: rest) x = servedAfter r.origin code v edits late
      (servedQueue true now rest { y with incoming := x.incoming, reservation := x.reservation }) := own
    rw [first]
    exact congrArg (servedAfter r.origin code v edits late) later

end Sys2Proof.Machine
end

section
/-! SUPPORT. Loads that end in HALTED (R7, R25, R60). -/

namespace Sys2Proof.Machine

/-! ### One load -/

theorem finishHead_drop (p : Fin 8) (code : ResultCode) (v1 v2 : Word) (s : Block) :
    playbackOf (finishHead p code v1 v2 s) p = { playbackOf s p with queue := (playbackOf s p).queue.drop 1 } := by
  cases queue : (playbackOf s p).queue with
  | nil =>
    have same : finishHead p code v1 v2 s = s := by simp only [finishHead, queue]
    rw [same, List.drop_nil, ← queue]
  | cons r rest =>
    rw [finishHead_cons queue, playbackOf, completeOrigin_playbacks, setPlayback_playbacks, getAt_setAt]
    rfl

theorem finishHead_rest (p : Fin 8) (code : ResultCode) (v1 v2 : Word) (s : Block) : finishHead p code v1 v2 s = { s with
    playbacks := (finishHead p code v1 v2 s).playbacks, results := (finishHead p code v1 v2 s).results
    port := (finishHead p code v1 v2 s).port } := by
  cases queue : (playbackOf s p).queue with
  | nil =>
    have same : finishHead p code v1 v2 s = s := by simp only [finishHead, queue]
    rw [same]
  | cons r rest =>
    rw [finishHead_cons queue, completeOrigin_playbacks]
    conv_lhs => rw [(Posts.completeOrigin r.origin code v1 v2 _).rest]
    rfl

/-- What the end of a load in HALTED serves: the requests behind the one in service (R7, R60). -/
def haltServed (now : Time) (x : Playback) : Served := servedQueue true now (x.queue.drop 1) { x with load := .none }

theorem haltServed_lists (now : Time) (x : Playback) (i : List IncomingEntry) (n : Nat) :
    haltServed now { x with incoming := i, reservation := n }
      = { haltServed now x with playback := { (haltServed now x).playback with incoming := i, reservation := n } } :=
  (servedQueue_halted now (x.queue.drop 1) { x with load := .none } i n).2

/-- The part in which the request in service has completed, its load ended. -/
def headEnded (p : Fin 8) (code : ResultCode) (s : Block) : Block :=
  finishHead p code 0 0 (modPlayback p (fun x => { x with load := .none }) s)

theorem headEnded_playback (p : Fin 8) (code : ResultCode) (s : Block) : playbackOf (headEnded p code s) p
    = { playbackOf s p with load := .none, queue := (playbackOf s p).queue.drop 1 } := by
  rw [headEnded, finishHead_drop, modPlayback_eq, playbackOf_setPlayback]

theorem headEnded_rest (p : Fin 8) (code : ResultCode) (s : Block) : headEnded p code s = { s with
    playbacks := (headEnded p code s).playbacks, results := (headEnded p code s).results, port := (headEnded p code s).port } := by
  rw [headEnded, finishHead_rest]
  rfl

/-- A load that ends in HALTED, no RESUME behind it finding its time already reached. -/
theorem loadEnded_serves {p : Fin 8} {code : ResultCode} {s : Block} (halted : s.engine.state = .halted)
    (prompt : (haltServed s.time.clock (playbackOf s p)).late = false) :
    ServesTo (haltServed s.time.clock (playbackOf s p)) p ((playbackOf s p).queue.drop 1) (headEnded p code s) (loadEnded p code s) := by
  have time : (headEnded p code s).time = s.time := by rw [headEnded_rest]
  have engine : (headEnded p code s).engine = s.engine := by rw [headEnded_rest]
  obtain ⟨u, serves, goes⟩ := serve_servesTo (halted := true) (p := p) (s := headEnded p code s) ((playbackOf s p).queue.drop 1)
    (x := { playbackOf s p with load := .none }) (headEnded_playback ..) rfl (by rw [engine, halted]; rfl) (by rw [time]; exact prompt)
  have none := (servedQueue_halted (headEnded p code s).time.clock ((playbackOf s p).queue.drop 1)
    { playbackOf s p with load := .none } [] 0).1
  rw [none, if_neg (by decide)] at goes
  have ended : loadEnded p code s = u := goes
  rw [time] at serves
  rw [ended]
  exact serves

/-! ### The loads of some playbacks -/

/-- The loads of the playbacks in `A` have ended in HALTED from `s` to `t`, with the lists and the reservations of those in `C` freed. -/
structure LoadsEnded (A C : Fin 8 → Prop) (s t : Block) : Prop where
  time : t.time = s.time
  mixer : t.mixer = { s.mixer with views := t.mixer.views, held := t.mixer.held }
  within : ∀ p, C p → A p
  others : ∀ p, ¬A p → playbackOf t p = playbackOf s p
  ended : ∀ p, A p → (playbackOf t p).load = .none ∧ (playbackOf t p).queue = []
  freed : ∀ p, C p → (playbackOf t p).incoming = [] ∧ (playbackOf t p).reservation = 0
  kept : ∀ p, ¬C p → (playbackOf t p).incoming = (playbackOf s p).incoming ∧ (playbackOf t p).reservation = (playbackOf s p).reservation
  served : ∀ p, A p → (haltServed s.time.clock (playbackOf s p)).late = false →
    playbackOf t p = { (haltServed s.time.clock (playbackOf s p)).playback with
      incoming := (playbackOf t p).incoming, reservation := (playbackOf t p).reservation }
  prompt : (∀ p, A p → (haltServed s.time.clock (playbackOf s p)).late = false) →
    t.superseded = s.superseded ∧ ∀ i, i ≠ .fault → isRaised i t = isRaised i s
  quiet : (∀ p, A p → (playbackOf s p).queue.length ≤ 1) → t.mixer = s.mixer

namespace LoadsEnded

variable {A B C D : Fin 8 → Prop} {s t u : Block}

/-- No load has ended. -/
theorem untouched (playbacks : t.playbacks = s.playbacks) (time : t.time = s.time) (mixer : t.mixer = s.mixer)
    (superseded : t.superseded = s.superseded) (raised : ∀ i, i ≠ .fault → isRaised i t = isRaised i s) :
    LoadsEnded (fun _ => False) (fun _ => False) s t := by
  have playback : ∀ p, playbackOf t p = playbackOf s p := fun p => by rw [playbackOf, playbacks, playbackOf]
  refine ⟨time, ?_, fun _ => id, fun p _ => playback p, nofun, nofun, fun p _ => ?_, nofun, fun _ => ⟨superseded, raised⟩, fun _ => mixer⟩
  · rw [mixer]
  · rw [playback]
    exact ⟨rfl, rfl⟩

/-- A playback whose load has ended has nothing more to serve. -/
theorem again (h : LoadsEnded A C s t) {p : Fin 8} (mem : A p) (now : Time) :
    haltServed now (playbackOf t p) = ⟨playbackOf t p, [], [], none, false⟩ := by
  obtain ⟨load, queue⟩ := h.ended p mem
  rw [haltServed, queue, List.drop_nil]
  have same : ({ playbackOf t p with load := .none, queue := [] } : Playback) = playbackOf t p := by rw [← load, ← queue]
  exact congrArg (fun x => (⟨x, [], [], none, false⟩ : Served)) same

theorem again_late (h : LoadsEnded A C s t) (prompt : ∀ p, A p ∨ B p → (haltServed s.time.clock (playbackOf s p)).late = false) (p : Fin 8)
    (mem : B p) : (haltServed t.time.clock (playbackOf t p)).late = false := by
  by_cases before : A p
  · rw [h.again before]
  · rw [h.time, h.others p before]
    exact prompt p (.inr mem)

theorem trans (h : LoadsEnded A C s t) (k : LoadsEnded B D t u) : LoadsEnded (fun p => A p ∨ B p) (fun p => C p ∨ D p) s u := by
  refine ⟨k.time.trans h.time, ?_, fun p => Or.imp (h.within p) (k.within p), fun p none => ?_, fun p either => ?_, fun p either => ?_, fun p none => ?_,
    fun p either late => ?_, fun late => ?_, fun short => ?_⟩
  · rw [k.mixer, h.mixer]
  · obtain ⟨notA, notB⟩ := not_or.1 none
    rw [k.others p notB, h.others p notA]
  · by_cases mem : B p
    · exact k.ended p mem
    · rw [k.others p mem]
      exact h.ended p (either.resolve_right mem)
  · by_cases mem : D p
    · exact k.freed p mem
    · obtain ⟨incoming, reservation⟩ := k.kept p mem
      rw [incoming, reservation]
      exact h.freed p (either.resolve_right mem)
  · obtain ⟨notC, notD⟩ := not_or.1 none
    obtain ⟨incoming, reservation⟩ := k.kept p notD
    rw [incoming, reservation]
    exact h.kept p notC
  · by_cases first : A p
    · have before := h.served p first late
      by_cases second : B p
      · have after := k.served p second (by rw [h.again first])
        rw [h.again first] at after
        rw [after, before]
      · rw [k.others p second]
        exact before
    · have after := k.served p (either.resolve_left first) (by rw [h.time, h.others p first]; exact late)
      rw [h.time, h.others p first] at after
      exact after
  · obtain ⟨superseded, raised⟩ := h.prompt fun p mem => late p (.inl mem)
    obtain ⟨later, laterRaised⟩ := k.prompt (h.again_late late)
    exact ⟨later.trans superseded, fun i other => (laterRaised i other).trans (raised i other)⟩
  · rw [k.quiet fun p mem => ?_, h.quiet fun p mem => short p (.inl mem)]
    by_cases before : A p
    · rw [(h.ended p before).2]
      exact Nat.zero_le 1
    · rw [h.others p before]
      exact short p (.inr mem)

/-- The loads of the same playbacks. -/
theorem congr {A' C' : Fin 8 → Prop} (h : LoadsEnded A C s t) (same : ∀ p, A p ↔ A' p) (freed : ∀ p, C p ↔ C' p) :
    LoadsEnded A' C' s t := by
  have ended : A = A' := funext fun p => propext (same p)
  have lists : C = C' := funext fun p => propext (freed p)
  rw [← ended, ← lists]
  exact h

end LoadsEnded

/-- A playback's load ends in HALTED, its list and reservation freed or not. -/
theorem loadsEnded_replaced {C : Fin 8 → Prop} {p : Fin 8} {code : ResultCode} {i : List IncomingEntry} {n : Nat} {s : Block}
    (halted : s.engine.state = .halted) (within : ∀ q, C q → q = p) (freed : C p → i = [] ∧ n = 0)
    (kept : ¬C p → i = (playbackOf s p).incoming ∧ n = (playbackOf s p).reservation) :
    LoadsEnded (· = p) C s (loadEnded p code (setPlayback p { playbackOf s p with incoming := i, reservation := n } s)) := by
  have same := haltServed_lists s.time.clock (playbackOf s p) i n
  generalize begin : setPlayback p { playbackOf s p with incoming := i, reservation := n } s = v
  have own : playbackOf v p = { playbackOf s p with incoming := i, reservation := n } := by rw [← begin, playbackOf_setPlayback]
  have state : v.engine.state = .halted := by rw [← begin]; exact halted
  have time : v.time = s.time := by rw [← begin]; rfl
  have serves := ServesHalted.loadEnded (p := p) (code := code) state
  obtain ⟨loader, engine, others, load, queue⟩ := loadEnded_halted state p code
  have lists := serves.lists p
  rw [own] at lists
  have prompt : (haltServed s.time.clock (playbackOf s p)).late = false →
      ServesTo (haltServed s.time.clock { playbackOf s p with incoming := i, reservation := n }) p ((playbackOf s p).queue.drop 1)
        (headEnded p code v) (loadEnded p code v) := fun late => by
    have serves := loadEnded_serves (p := p) (code := code) state (by rw [own, time, same]; exact late)
    rw [own, time] at serves
    exact serves
  refine ⟨?_, ?_, within, fun q other => ?_, fun q is => ?_, fun q mem => ?_, fun q out => ?_, fun q is late => ?_, fun late => ?_, fun short => ?_⟩
  · rw [serves.rest, time]
  · rw [serves.rest, ← begin]
    rfl
  · rw [others q other, ← begin, playbackOf_setPlayback_ne _ _ _ _ other]
  · rw [is]
    exact ⟨load, queue⟩
  · obtain rfl := within q mem
    rw [lists.1, lists.2]
    exact freed mem
  · rcases eq_or_ne q p with rfl | other
    · rw [lists.1, lists.2]
      exact kept out
    · rw [others q other, ← begin, playbackOf_setPlayback_ne _ _ _ _ other]
      exact ⟨rfl, rfl⟩
  · subst is
    have final : playbackOf (loadEnded q code v) q
        = { (haltServed s.time.clock (playbackOf s q)).playback with incoming := i, reservation := n } := by
      rw [playbackOf, (prompt late).playbacks, getAt_setAt, same]
    rw [final]
  · have only := (prompt (late p rfl)).rest
    refine ⟨?_, fun i _ => ?_⟩
    · rw [only, headEnded_rest, ← begin]
      rfl
    · rw [isRaised, only, headEnded_rest, ← begin]
      rfl
  · have none : (playbackOf s p).queue.drop 1 = [] := List.drop_eq_nil_of_le (short p rfl)
    have stops : loadEnded p code v = headEnded p code v := by
      refine serve_stop _ _ (.inr ?_)
      have left := congrArg Playback.queue (headEnded_playback p code v)
      rw [own] at left
      exact left.trans none
    rw [stops, headEnded_rest, ← begin]
    rfl

end Sys2Proof.Machine
end

section
/-! SUPPORT. In HALTED no operation reaches the port or the engine controller: a request is refused and no writer begins (R98, R176, R189). -/

namespace Sys2Proof.Machine

/-- The port and the engine controller are as they were, and a source that was raised is. -/
def StaysHalted (s t : Block) : Prop := t.port = s.port ∧ t.engine = s.engine ∧ ∀ i, isRaised i s = true → isRaised i t = true

namespace StaysHalted

theorem port {s t : Block} : StaysHalted s t → t.port = s.port := And.left

theorem engine {s t : Block} (h : StaysHalted s t) : t.engine = s.engine := h.2.1

theorem raised {s t : Block} (h : StaysHalted s t) {i : IntSource} : isRaised i s = true → isRaised i t = true := h.2.2 i

theorem refl (s : Block) : StaysHalted s s := ⟨rfl, rfl, fun _ => id⟩

theorem trans {s t u : Block} (h : StaysHalted s t) (k : StaysHalted t u) : StaysHalted s u := 
  ⟨k.port.trans h.port, k.engine.trans h.engine, fun _ => k.raised ∘ h.raised⟩

theorem state {s t : Block} (h : StaysHalted s t) (halted : s.engine.state = .halted) : t.engine.state = .halted := by rw [h.engine, halted]

/-- One operation after another. -/
theorem andThen {f : Block → Block} {s t : Block} (halted : s.engine.state = .halted) (h : StaysHalted s t)
    (next : ∀ u : Block, u.engine.state = .halted → StaysHalted u (f u)) : StaysHalted s (f t) := h.trans (next t (h.state halted))

theorem foldl {α : Type} {f : Block → α → Block} (next : ∀ t x, t.engine.state = .halted → StaysHalted t (f t x)) (xs : List α) {s : Block}
    (halted : s.engine.state = .halted) : StaysHalted s (xs.foldl f s) := by
  induction xs generalizing s with
  | nil => exact refl s
  | cons x rest ih =>
    have first := next s x halted
    exact first.trans (ih (first.state halted))

end StaysHalted

section

variable {s : Block} (halted : s.engine.state = .halted)

include halted

theorem ask_stays (c : Client) (k : TenureKind) : StaysHalted s (ask c k s) := by
  rw [ask_halted halted]
  exact .refl s

theorem complete_stays (i : Fin 32) (code : ResultCode) (v1 v2 v3 : Word) : StaysHalted s (complete i code v1 v2 v3 s) := by
  rw [complete_halted halted]
  exact ⟨rfl, rfl, fun _ => id⟩

theorem completePlain_stays (i : Fin 32) (code : ResultCode) : StaysHalted s (completePlain i code s) := complete_stays halted i code 0 0 0

/-! ### The table loader -/

theorem takeTableJob_stays : StaysHalted s (takeTableJob s) := by
  have idle : takeTableJob s = s := if_pos halted
  rw [idle]
  exact .refl s

theorem failTable_stays (j : TableJob) (code : ResultCode) (v1 v2 : Word) : StaysHalted s (failTable j code v1 v2 s) := by
  have emptied : StaysHalted s (emptyFilling j s) := by cases j <;> exact ⟨rfl, rfl, fun _ => id⟩
  have completed := emptied.trans (complete_stays (emptied.state halted) j.slot code v1 v2 0)
  have idled : StaysHalted s { complete j.slot code v1 v2 0 (emptyFilling j s) with
    tables := { (complete j.slot code v1 v2 0 (emptyFilling j s)).tables with reader := none } } := completed
  exact idled.trans (takeTableJob_stays (idled.state halted))

theorem tablesFault_stays : StaysHalted s (tablesFault s) := by
  unfold tablesFault
  split
  · exact .refl s
  · exact failTable_stays halted ..

theorem endShadow_stays (x : Shadow) (code : ResultCode) : StaysHalted s (endShadow x code s) := by
  cases x with
  | ready owner points => exact completePlain_stays halted owner code
  | filling points => exact .refl s
  | empty => exact .refl s

theorem endStaging_stays (x : Staging) (code : ResultCode) : StaysHalted s (endStaging x code s) := by
  cases x with
  | ready owner list => exact completePlain_stays halted owner code
  | filling words => exact .refl s
  | empty => exact .refl s

theorem endTables_stays (code : ResultCode) : StaysHalted s (endTables code s) := by
  have jobs : StaysHalted s (s.tables.queue.foldl (fun t j => completePlain j.slot code t) { s with tables := { s.tables with queue := [] } }) :=
    StaysHalted.foldl (fun t j state => completePlain_stays state j.slot code) s.tables.queue
      (s := { s with tables := { s.tables with queue := [] } }) halted
  have staged := jobs.trans (endStaging_stays (jobs.state halted) s.tables.staging code)
  have set := staged.trans (u := setStaging _ _) ⟨rfl, rfl, fun _ => id⟩
  refine set.trans (StaysHalted.foldl (fun t k state => ?_) allShadows (set.state halted))
  exact (endShadow_stays state (shadowOf s k) code).trans ⟨rfl, rfl, fun _ => id⟩

theorem tablesHalt_stays : StaysHalted s (tablesHalt s) := by
  have ended := endTables_stays halted .busFault
  unfold tablesHalt
  dsimp only
  split
  · exact ended.trans ⟨rfl, rfl, fun _ => id⟩
  · rename_i j _
    exact (ended.trans (completePlain_stays (ended.state halted) j.slot .busFault)).trans ⟨rfl, rfl, fun _ => id⟩

/-! ### The lines with talkback -/

theorem askTalkback_stays : StaysHalted s (askTalkback s) := by
  unfold askTalkback
  split
  · split
    · exact ask_stays halted ..
    · exact .refl s
  · exact .refl s

theorem endReply_stays (code : ResultCode) : StaysHalted s (endReply code s) := by
  unfold endReply
  split
  · exact .refl s
  · rename_i l rest _
    have emptied : StaysHalted s (modLine l (fun x => { x with reply := none }) { s with talkback := rest }) := ⟨rfl, rfl, fun _ => id⟩
    dsimp only
    split
    · exact emptied.trans (askTalkback_stays (emptied.state halted))
    · refine StaysHalted.andThen halted ?_ fun u state => askTalkback_stays state
      split
      · exact emptied.trans (complete_stays (emptied.state halted) ..)
      · exact emptied.trans (completePlain_stays (emptied.state halted) ..)

theorem endQueries_stays (code : ResultCode) (qs : List Query) : StaysHalted s (endQueries code qs s) :=
  StaysHalted.foldl (fun _ q state => completePlain_stays state q.slot code) qs halted

theorem haltQueries_stays (l : Fin 4) : StaysHalted s (haltQueries l s) := by
  have queued := endQueries_stays halted .busFault (lineOf s l).queries
  unfold haltQueries
  dsimp only
  split
  · rename_i r _
    exact (queued.trans (completePlain_stays (queued.state halted) r.slot .busFault)).trans ⟨rfl, rfl, fun _ => id⟩
  · exact queued.trans ⟨rfl, rfl, fun _ => id⟩

theorem talkbackHalt_stays : StaysHalted s (talkbackHalt s) := by
  have lines := StaysHalted.foldl (fun _ l state => haltQueries_stays state l) allLines halted
  unfold talkbackHalt
  generalize allLines.foldl (fun t l => haltQueries l t) s = t at lines ⊢
  exact lines.trans ⟨rfl, rfl, fun _ => id⟩

/-! ### The status writer -/

theorem askStatus_stays : StaysHalted s (askStatus s) := by
  unfold askStatus
  split
  · exact ask_stays halted ..
  · exact .refl s

theorem endSnapshot_stays (code : ResultCode) : StaysHalted s (endSnapshot code s) := by
  unfold endSnapshot
  split
  · rename_i j _
    exact completePlain_stays (s := modStatus (fun w => { w with snapshot := none }) s) halted j.slot code
  · exact .refl s

theorem leaveStatus_stays : StaysHalted s (leaveStatus s) :=
  askStatus_stays (s := modStatus (fun w => { w with order := w.order.drop 1 }) s) halted

theorem statusFault_stays : StaysHalted s (statusFault s) := by
  unfold statusFault
  split
  · exact leaveStatus_stays (s := endPage s) halted
  · exact (endSnapshot_stays halted .busFault).andThen halted fun u state => leaveStatus_stays state
  · exact .refl s

theorem statusHalt_stays : StaysHalted s (statusHalt s) := by
  unfold statusHalt
  dsimp only
  split
  · exact (endSnapshot_stays (s := endPage s) halted .busFault).trans ⟨rfl, rfl, fun _ => id⟩
  · exact (endSnapshot_stays halted .busFault).trans ⟨rfl, rfl, fun _ => id⟩

/-! ### The scanner -/

theorem endScan_halted : endScan s = modScanner (fun x => { x with step := .idle, scanPending := false }) s :=
  if_neg fun both => absurd (halted.symm.trans both.2) (by decide)

theorem scannerFault_stays : StaysHalted s (scannerFault s) := by
  unfold scannerFault
  split
  · refine StaysHalted.andThen halted (completePlain_stays halted _ _) fun u state => ?_
    rw [endScan_halted state]
    exact ⟨rfl, rfl, fun _ => id⟩
  · rw [endScan_halted halted]
    exact ⟨rfl, rfl, fun _ => id⟩

theorem scannerHalt_stays : StaysHalted s (scannerHalt s) := by
  unfold scannerHalt
  dsimp only
  split
  · exact completePlain_stays (s := modScanner (fun x => { x with step := .idle, scanPending := false }) s) halted _ _
  · exact ⟨rfl, rfl, fun _ => id⟩

/-! ### The cue loader -/

theorem takeLoadJob_halted : takeLoadJob s = s := if_pos halted

theorem loadEnded_stays (p : Fin 8) (code : ResultCode) : StaysHalted s (loadEnded p code s) := by
  have serves := ServesHalted.loadEnded (p := p) (code := code) halted
  exact ⟨by rw [serves.rest], serves.engine, serves.raised⟩

theorem endUnfinished_halted (c : CurrentLoad) (code : ResultCode) :
    endUnfinished c code s = loadEnded c.job.playback (endCode c code) { s with loader := { s.loader with current := none } } := by
  have stays := loadEnded_stays (s := { s with loader := { s.loader with current := none } }) halted c.job.playback (endCode c code)
  rw [endUnfinished, endJob, takeLoadJob_halted (stays.state halted)]

theorem endUnfinished_stays (c : CurrentLoad) (code : ResultCode) : StaysHalted s (endUnfinished c code s) := by
  rw [endUnfinished_halted halted]
  exact loadEnded_stays (s := { s with loader := { s.loader with current := none } }) halted _ _

theorem failLoad_stays (c : CurrentLoad) (code : ResultCode) : StaysHalted s (failLoad c code s) := by
  unfold failLoad
  dsimp only
  split
  · exact ask_stays (s := setCurrent _ (freeLoad c.job.playback s)) halted _ _
  · exact endUnfinished_stays (s := freeLoad c.job.playback s) halted _ _

theorem loaderFault_stays (read : Bool) : StaysHalted s (loaderFault read s) := by
  unfold loaderFault
  split
  · exact .refl s
  · rename_i c _
    split
    · split
      · exact endUnfinished_stays (s := freeLoad c.job.playback (countStuck s)) halted _ _
      · exact endUnfinished_stays (s := freeLoad c.job.playback s) halted _ _
    · exact endUnfinished_stays (s := freeLoad c.job.playback (countStuck s)) halted _ _
    · exact failLoad_stays halted ..
    · exact failLoad_stays halted ..
    · exact failLoad_stays halted ..
    · exact failLoad_stays halted ..

theorem haltCurrent_stays : StaysHalted s (haltCurrent s) := by
  unfold haltCurrent
  split
  · exact .refl s
  · rename_i c _
    have counted : StaysHalted s (if c.lockHeld then countStuck s else s) := by
      split
      · exact ⟨rfl, rfl, fun _ => id⟩
      · exact .refl s
    dsimp only
    generalize (if c.lockHeld then countStuck s else s) = t at counted ⊢
    have freed : StaysHalted s (freeLoad c.job.playback { t with loader := { t.loader with current := none } }) := counted
    exact freed.trans (loadEnded_stays (freed.state halted) _ _)

theorem loaderHalt_stays : StaysHalted s (loaderHalt s) := by
  have jobs : StaysHalted s (haltJobs s.loader.queue { s with loader := { s.loader with queue := [] } }) :=
    StaysHalted.foldl (fun t j state => loadEnded_stays state j.playback .busFault) s.loader.queue
      (s := { s with loader := { s.loader with queue := [] } }) halted
  exact jobs.trans (haltCurrent_stays (jobs.state halted))

/-- A client that is handed its fault in HALTED (R189). -/
theorem clientFault_stays (c : Client) (words : List Word) : StaysHalted s (clientFault c words s) := by
  have started : s.engine.state ≠ .starting := by rw [halted]; decide
  cases c with
  | scanner =>
    rw [clientFault, if_neg started]
    exact scannerFault_stays halted
  | results => exact ⟨rfl, rfl, fun _ => id⟩
  | loader =>
    rw [clientFault, if_neg started]
    exact loaderFault_stays halted _
  | tables => exact tablesFault_stays halted
  | talkback => exact endReply_stays halted _
  | status => exact statusFault_stays halted

end

end Sys2Proof.Machine
end

section
/-! SUPPORT. The cue loader at a halt (R57 to R60). -/

namespace Sys2Proof.Machine

/-- Playback `p` has the loader's current job. -/
def IsCurrent (p : Fin 8) (b : Block) : Prop := ∃ c, b.loader.current = some c ∧ c.job.playback = p

section

variable {s : Block} (halted : s.engine.state = .halted)

include halted

/-- A playback's load ends in HALTED, its list and reservation kept. -/
theorem loadsEnded_kept (p : Fin 8) (code : ResultCode) : LoadsEnded (· = p) (fun _ => False) s (loadEnded p code s) := by
  have ended := loadsEnded_replaced (C := fun _ => False) (p := p) (code := code) (i := (playbackOf s p).incoming)
    (n := (playbackOf s p).reservation) halted nofun nofun fun _ => ⟨rfl, rfl⟩
  have own : setPlayback p { playbackOf s p with incoming := (playbackOf s p).incoming, reservation := (playbackOf s p).reservation } s = s :=
    setPlayback_own p s
  rw [own] at ended
  exact ended

/-- A playback's load ends in HALTED, its list and reservation freed. -/
theorem loadsEnded_freed (p : Fin 8) (code : ResultCode) : LoadsEnded (· = p) (· = p) s (loadEnded p code (freeLoad p s)) := by
  rw [freeLoad, modPlayback_eq]
  exact loadsEnded_replaced halted (fun _ => id) (fun _ => ⟨rfl, rfl⟩) fun out => absurd rfl out

theorem haltJobs_loads (jobs : List LoadJob) : LoadsEnded (fun p => ∃ j ∈ jobs, j.playback = p) (fun _ => False) s (haltJobs jobs s) := by
  induction jobs generalizing s with
  | nil => exact (LoadsEnded.untouched (t := haltJobs [] s) rfl rfl rfl rfl fun _ _ => rfl).congr (by simp) (by simp)
  | cons j rest ih =>
    have first := loadsEnded_kept halted j.playback .busFault
    have later := ih ((loadEnded_stays halted j.playback .busFault).state halted)
    refine (first.trans later).congr (fun p => ?_) (by simp)
    simp only [List.mem_cons, exists_eq_or_imp]
    exact or_congr_left eq_comm

end

/-! ### The end of every load -/

/-- The stuck-lock count after a halt that finds a loader so: a lock its current job holds is given up (R60). -/
def stuckAtHalt (l : Loader) : Nat :=
  match l.current with
  | some c => if c.lockHeld then countUp l.stuck else l.stuck
  | none => l.stuck

/-- Every load has ended from `s` to `t`, the loader left with no job and a stuck-lock count. -/
structure LoadsHalt (stuck : Nat) (s t : Block) : Prop where
  loads : LoadsEnded (HasLoad · s) (IsCurrent · s) s t
  loader : t.loader = ⟨[], none, stuck, s.loader.sweeps⟩

theorem haltCurrent_some {s : Block} {c : CurrentLoad} (current : s.loader.current = some c) : haltCurrent s
    = loadEnded c.job.playback (if c.abandon then .abandoned else .busFault) (freeLoad c.job.playback
        { s with loader := { s.loader with current := none, stuck := stuckAtHalt s.loader } }) := by
  have stuck : stuckAtHalt s.loader = if c.lockHeld then countUp s.loader.stuck else s.loader.stuck := by rw [stuckAtHalt, current]
  rw [haltCurrent, current, stuck]
  dsimp only
  cases c.lockHeld <;> rfl

theorem loaderHalt_halts {s : Block} (halted : s.engine.state = .halted) : LoadsHalt (stuckAtHalt s.loader) s (loaderHalt s) := by
  have emptied : LoadsEnded (fun _ => False) (fun _ => False) s { s with loader := { s.loader with queue := [] } } :=
    .untouched rfl rfl rfl rfl fun _ _ => rfl
  have jobs := haltJobs_loads (s := { s with loader := { s.loader with queue := [] } }) halted s.loader.queue
  obtain ⟨loader, engine, -, -⟩ := haltJobs_ends s.loader.queue (s := { s with loader := { s.loader with queue := [] } }) halted
  unfold loaderHalt
  generalize haltJobs s.loader.queue { s with loader := { s.loader with queue := [] } } = t at jobs loader engine ⊢
  have state : t.engine.state = .halted := by rw [engine, halted]
  cases current : s.loader.current with
  | none =>
    have none : haltCurrent t = t := by rw [haltCurrent, loader, current]
    have stuck : stuckAtHalt s.loader = s.loader.stuck := by rw [stuckAtHalt, current]
    rw [none, stuck]
    refine ⟨(emptied.trans jobs).congr (fun p => ?_) fun p => ?_, ?_⟩
    · simp only [HasLoad, current, false_or, reduceCtorEq, false_and, exists_false, or_false]
    · simp only [IsCurrent, current, false_or, reduceCtorEq, false_and, exists_false]
    · rw [loader]
      exact congrArg (fun c => (⟨[], c, s.loader.stuck, s.loader.sweeps⟩ : Loader)) current
  | some c =>
    have same : t.loader.current = some c := by rw [loader, current]
    have count : stuckAtHalt t.loader = stuckAtHalt s.loader := by rw [loader]; rfl
    have last := loadsEnded_freed (s := { t with loader := { t.loader with current := none, stuck := stuckAtHalt s.loader } }) state
      c.job.playback (if c.abandon then .abandoned else .busFault)
    have idled : LoadsEnded (fun _ => False) (fun _ => False) t
        { t with loader := { t.loader with current := none, stuck := stuckAtHalt s.loader } } := .untouched rfl rfl rfl rfl fun _ _ => rfl
    rw [haltCurrent_some same, count]
    refine ⟨((emptied.trans jobs).trans (idled.trans last)).congr (fun p => ?_) fun p => ?_, ?_⟩
    · simp only [HasLoad, current, false_or, Option.some.injEq, exists_eq_left']
      exact or_congr_right eq_comm
    · simp only [IsCurrent, current, false_or, Option.some.injEq, exists_eq_left']
      exact eq_comm
    · rw [(loadEnded_halted (s := freeLoad c.job.playback
        { t with loader := { t.loader with current := none, stuck := stuckAtHalt s.loader } }) state c.job.playback _).1]
      change { t.loader with current := none, stuck := stuckAtHalt s.loader } = _
      rw [loader]

/-- Between the client's fault and the loader's end nothing of a load changes. -/
theorem loaderHalt_later {s v : Block} (halted : v.engine.state = .halted) (untouched : LoadsEnded (fun _ => False) (fun _ => False) s v)
    (loader : v.loader = s.loader) : LoadsHalt (stuckAtHalt s.loader) s (loaderHalt v) := by
  obtain ⟨loads, ends⟩ := loaderHalt_halts halted
  rw [loader] at ends
  refine ⟨(untouched.trans loads).congr (fun p => ?_) fun p => ?_, ends⟩
  · simp only [HasLoad, loader, false_or]
  · simp only [IsCurrent, loader, false_or]

/-! ### A fault of the loader's own tenure -/

/-- The stuck-lock count after a fault of the loader's own tenure that halts (R58, R60). -/
def stuckAtFault (read : Bool) (l : Loader) : Nat :=
  match l.current with
  | none => l.stuck
  | some c =>
    match c.stage with
    | .lock => if read then countUp l.stuck else l.stuck
    | .unlock => countUp l.stuck
    | _ => if c.lockHeld then countUp l.stuck else l.stuck

/-- The list and the reservation of the current job's playback have been freed before its load ends. -/
theorem LoadsEnded.of_freed {A C : Fin 8 → Prop} {p : Fin 8} {s v t : Block} (h : LoadsEnded A C v t) (mem : C p)
    (playback : playbackOf v p = { playbackOf s p with incoming := [], reservation := 0 })
    (others : ∀ q, q ≠ p → playbackOf v q = playbackOf s q) (time : v.time = s.time) (mixer : v.mixer = s.mixer)
    (superseded : v.superseded = s.superseded) (raised : v.intStatus = s.intStatus) : LoadsEnded A C s t := by
  have late : ∀ q, (haltServed v.time.clock (playbackOf v q)).late = (haltServed s.time.clock (playbackOf s q)).late := fun q => by
    rcases eq_or_ne q p with rfl | other
    · rw [playback, time, haltServed_lists]
    · rw [others q other, time]
  have queue : ∀ q, (playbackOf v q).queue = (playbackOf s q).queue := fun q => by
    rcases eq_or_ne q p with rfl | other
    · rw [playback]
    · rw [others q other]
  refine ⟨h.time.trans time, ?_, h.within, fun q out => ?_, h.ended, h.freed, fun q out => ?_, fun q is prompt => ?_, fun prompt => ?_,
    fun short => ?_⟩
  · rw [h.mixer, mixer]
  · have other : q ≠ p := fun e => out (e ▸ h.within p mem)
    rw [h.others q out, others q other]
  · have other : q ≠ p := fun e => out (e ▸ mem)
    rw [← others q other]
    exact h.kept q out
  · have served := h.served q is ((late q).trans prompt)
    rcases eq_or_ne q p with rfl | other
    · rw [playback, time, haltServed_lists] at served
      exact served
    · rw [others q other, time] at served
      exact served
  · obtain ⟨count, sources⟩ := h.prompt fun q is => (late q).trans (prompt q is)
    refine ⟨count.trans superseded, fun i other => (sources i other).trans ?_⟩
    rw [isRaised, raised, isRaised]
  · rw [h.quiet fun q is => ?_, mixer]
    rw [queue]
    exact short q is

section

variable {s v : Block} {c : CurrentLoad} (halted : s.engine.state = .halted) (current : s.loader.current = some c)

include current

theorem hasLoad_iff (p : Fin 8) : HasLoad p s ↔ (∃ j ∈ s.loader.queue, j.playback = p) ∨ p = c.job.playback := by
  simp only [HasLoad, current, Option.some.injEq, exists_eq_left']
  exact or_congr_right eq_comm

theorem isCurrent_iff (p : Fin 8) : IsCurrent p s ↔ p = c.job.playback := by
  simp only [IsCurrent, current, Option.some.injEq, exists_eq_left']
  exact eq_comm

include halted

/-- The current job has ended at its own fault; the queued ones end at the halt. -/
theorem ended_halts {code : ResultCode} {stuck : Nat} {w : Block}
    (is : w = endUnfinished c code (freeLoad c.job.playback { s with loader := { s.loader with stuck := stuck } }))
    (state : v.engine.state = .halted) (untouched : LoadsEnded (fun _ => False) (fun _ => False) w v) (loader : v.loader = w.loader) :
    LoadsHalt stuck s (loaderHalt v) := by
  subst is
  have ended := loadsEnded_freed (s := { s with loader := { s.loader with current := none, stuck := stuck } }) halted c.job.playback
    (endCode c code)
  have reported : endUnfinished c code (freeLoad c.job.playback { s with loader := { s.loader with stuck := stuck } })
      = loadEnded c.job.playback (endCode c code)
        (freeLoad c.job.playback { s with loader := { s.loader with current := none, stuck := stuck } }) :=
    endUnfinished_halted (s := freeLoad c.job.playback { s with loader := { s.loader with stuck := stuck } }) halted c code
  have left := (loadEnded_halted (s := freeLoad c.job.playback
    { s with loader := { s.loader with current := none, stuck := stuck } }) halted c.job.playback (endCode c code)).1
  rw [reported] at untouched loader
  rw [left] at loader
  obtain ⟨loads, ends⟩ := loaderHalt_halts state
  have idled : LoadsEnded (fun _ => False) (fun _ => False) s { s with loader := { s.loader with current := none, stuck := stuck } } :=
    .untouched rfl rfl rfl rfl fun _ _ => rfl
  rw [loader] at ends
  refine ⟨(((idled.trans ended).trans untouched).trans loads).congr (fun p => ?_) fun p => ?_, ends⟩
  · rw [hasLoad_iff current]
    simp only [HasLoad, loader, false_or, or_false]
    change _ ∨ (_ ∨ ∃ d, none = some d ∧ _) ↔ _
    simp only [reduceCtorEq, false_and, exists_false, or_false]
    exact or_comm
  · rw [isCurrent_iff current]
    simp only [IsCurrent, loader, false_or, or_false]
    change _ ∨ (∃ d, none = some d ∧ _) ↔ _
    simp only [reduceCtorEq, false_and, exists_false, or_false]

/-- The current job has failed with its lock held: the halt finds it waiting for its release (R57, R60). -/
theorem failed_halts {code : ResultCode} (lockHeld : c.lockHeld = true) (state : v.engine.state = .halted)
    (untouched : LoadsEnded (fun _ => False) (fun _ => False) (failLoad c code s) v) (loader : v.loader = (failLoad c code s).loader) :
    LoadsHalt (countUp s.loader.stuck) s (loaderHalt v) := by
  have asked : ∀ k d, ask .loader k (setCurrent d (freeLoad c.job.playback s)) = setCurrent d (freeLoad c.job.playback s) := fun k d =>
    ask_halted (s := setCurrent d (freeLoad c.job.playback s)) halted .loader k
  have failed : failLoad c code s
      = setCurrent { c with failed := some (c.failed.getD code), stage := .unlock } (freeLoad c.job.playback s) := by
    rw [failLoad, if_pos lockHeld, enterUnlock, asked]
  have own : playbackOf (failLoad c code s) c.job.playback = { playbackOf s c.job.playback with incoming := [], reservation := 0 } := by
    rw [failed]
    exact playbackOf_setPlayback ..
  rw [failed] at untouched loader own
  obtain ⟨loads, ends⟩ := loaderHalt_halts state
  have stuck : stuckAtHalt v.loader = countUp s.loader.stuck := by
    rw [loader, stuckAtHalt]
    exact if_pos lockHeld
  rw [stuck, loader] at ends
  have merged := (untouched.trans loads).congr (A' := (HasLoad · s)) (C' := (IsCurrent · s)) (fun p => ?_) fun p => ?_
  · refine ⟨merged.of_freed ((isCurrent_iff current _).2 rfl) own (fun q other => ?_) rfl rfl rfl rfl, ends⟩
    exact playbackOf_setPlayback_ne _ _ _ _ other
  · rw [hasLoad_iff current, hasLoad_iff (s := v) (c := { c with failed := some (c.failed.getD code), stage := .unlock }) (by rw [loader]; rfl),
      loader, false_or]
    rfl
  · rw [isCurrent_iff current, isCurrent_iff (s := v) (c := { c with failed := some (c.failed.getD code), stage := .unlock })
      (by rw [loader]; rfl), false_or]

end

end Sys2Proof.Machine
end

section
/-! SUPPORT. The other blocks at a halt (R98, R153, R156, R173, R176, R178, R180). -/

namespace Sys2Proof.Machine

/-! ### The loader's own fault, and then the halt -/

theorem loaderFault_halts {s v : Block} (halted : s.engine.state = .halted) (read : Bool) (state : v.engine.state = .halted)
    (untouched : LoadsEnded (fun _ => False) (fun _ => False) (loaderFault read s) v) (loader : v.loader = (loaderFault read s).loader) :
    LoadsHalt (stuckAtFault read s.loader) s (loaderHalt v) := by
  cases current : s.loader.current with
  | none =>
    have same : loaderFault read s = s := by rw [loaderFault, current]
    have stuck : stuckAtFault read s.loader = stuckAtHalt s.loader := by rw [stuckAtFault, stuckAtHalt, current]
    rw [same] at untouched loader
    rw [stuck]
    exact loaderHalt_later state untouched loader
  | some c =>
    have fails : ∀ stuck, (if c.lockHeld then countUp s.loader.stuck else s.loader.stuck) = stuck →
        loaderFault read s = failLoad c .busFault s → LoadsHalt stuck s (loaderHalt v) := fun stuck counted is => by
      rw [is] at untouched loader
      by_cases lockHeld : c.lockHeld = true
      · rw [if_pos lockHeld] at counted
        rw [← counted]
        exact failed_halts halted current lockHeld state untouched loader
      · rw [if_neg lockHeld] at counted
        refine ended_halts (code := .busFault) halted current ?_ state untouched loader
        rw [failLoad, if_neg lockHeld, ← counted]
    have fault : ∀ stage, c.stage = stage → loaderFault read s = match stage with
        | .lock => endUnfinished c .busFault (freeLoad c.job.playback (if read then countStuck s else s))
        | .unlock => endUnfinished c .busFault (freeLoad c.job.playback (countStuck s))
        | _ => failLoad c .busFault s := fun stage is => by
      rw [loaderFault, current]
      dsimp only
      rw [is]
      cases stage <;> rfl
    cases stage : c.stage with
    | lock =>
      have stuck : stuckAtFault read s.loader = if read then countUp s.loader.stuck else s.loader.stuck := by
        simp only [stuckAtFault, current, stage]
      rw [stuck]
      refine ended_halts (code := .busFault) halted current ?_ state untouched loader
      rw [fault _ stage]
      cases read <;> rfl
    | unlock =>
      have stuck : stuckAtFault read s.loader = countUp s.loader.stuck := by simp only [stuckAtFault, current, stage]
      rw [stuck]
      exact ended_halts halted current (fault _ stage) state untouched loader
    | seekCount => exact fails _ (by simp only [stuckAtFault, current, stage]) (fault _ stage)
    | seekDirectory count position => exact fails _ (by simp only [stuckAtFault, current, stage]) (fault _ stage)
    | header number offset count => exact fails _ (by simp only [stuckAtFault, current, stage]) (fault _ stage)
    | entries offset position => exact fails _ (by simp only [stuckAtFault, current, stage]) (fault _ stage)

/-! ### The table loader (R96, R98) -/

theorem Posts.onlyTables {s t : Block} (h : Posts s t) : OnlyTables s t := by
  unfold OnlyTables
  rw [h.rest]
  rfl

theorem tablesFault_only {s : Block} (halted : s.engine.state = .halted) : OnlyTables s (tablesFault s) := by
  unfold tablesFault
  split
  · exact rfl
  · rename_i j _
    have emptied : OnlyTables s (emptyFilling j s) := by cases j <;> exact rfl
    have stays : StaysHalted s (emptyFilling j s) := by cases j <;> exact ⟨rfl, rfl, fun _ => id⟩
    generalize (if s.engine.state = .stopping then ResultCode.abandoned else .busFault) = code
    have completed := emptied.trans (Posts.complete j.slot code 0 0 0 (emptyFilling j s)).onlyTables
    have state := (stays.trans (complete_stays (stays.state halted) j.slot code 0 0 0)).state halted
    have idle : failTable j code 0 0 s = { complete j.slot code 0 0 0 (emptyFilling j s) with
        tables := { (complete j.slot code 0 0 0 (emptyFilling j s)).tables with reader := none } } := if_pos state
    have left : OnlyTables (complete j.slot code 0 0 0 (emptyFilling j s)) (failTable j code 0 0 s) := by
      rw [idle]
      exact rfl
    exact completed.trans left

theorem tablesHalt_only (s : Block) : OnlyTables s (tablesHalt s) ∧ (tablesHalt s).tables = ⟨[], none, .empty, Vector.replicate 7 .empty⟩ := by
  refine ⟨?_, rfl⟩
  have ended := (tablesEnd .busFault s).rest
  have idled : ∀ t : Block, OnlyTables t { t with tables := .idle } := fun _ => rfl
  unfold tablesHalt
  dsimp only
  split
  · exact ended.trans (idled _)
  · exact (ended.trans (Posts.completePlain _ _ _).onlyTables).trans (idled _)

/-! ### The lines with talkback (R153, R156) -/

/-- Nothing changes but the lines, the replies' order, the results and the port. -/
def OnlyTalk (s t : Block) : Prop := t = { s with lines := t.lines, talkback := t.talkback, results := t.results, port := t.port }

theorem OnlyTalk.trans {s t u : Block} (h : OnlyTalk s t) (k : OnlyTalk t u) : OnlyTalk s u := by
  unfold OnlyTalk at h k ⊢
  rw [k, h]

theorem Posts.onlyTalk {s t : Block} (h : Posts s t) : OnlyTalk s t := by
  unfold OnlyTalk
  rw [h.rest]
  rfl

theorem OnlyLines.onlyTalk {s t : Block} (h : OnlyLines s t) : OnlyTalk s t := by
  unfold OnlyLines at h
  unfold OnlyTalk
  rw [h]

theorem askTalkback_posts (s : Block) : Posts s (askTalkback s) := by
  unfold askTalkback
  split
  · split
    · exact Posts.ask ..
    · exact .refl s
  · exact .refl s

/-- The end of a reply empties one line's reply buffer, and changes nothing else of a line. -/
theorem endReply_only (code : ResultCode) (s : Block) : OnlyTalk s (endReply code s)
    ∧ ∀ l, lineOf (endReply code s) l = lineOf s l ∨ lineOf (endReply code s) l = { lineOf s l with reply := none } := by
  unfold endReply
  split
  · exact ⟨rfl, fun l => .inl rfl⟩
  · rename_i l rest _
    have emptied : OnlyTalk s (modLine l (fun x => { x with reply := none }) { s with talkback := rest }) := rfl
    have posts : ∀ t, Posts (modLine l (fun x => { x with reply := none }) { s with talkback := rest }) t → OnlyTalk s t
        ∧ ∀ i, lineOf t i = lineOf s i ∨ lineOf t i = { lineOf s i with reply := none } := fun t after => by
      refine ⟨emptied.trans after.onlyTalk, fun i => ?_⟩
      rw [lineOf, after.lines]
      rcases eq_or_ne i l with rfl | other
      · right
        simp [modLine, modAt_eq, lineOf]
      · left
        simp [modLine, modAt_eq, lineOf, getAt_setAt_ne _ _ _ _ other]
    dsimp only
    split
    · exact posts _ (askTalkback_posts _)
    · refine posts _ (.trans ?_ (askTalkback_posts _))
      split
      · exact Posts.complete ..
      · exact Posts.completePlain ..

/-- A line at a halt: its queue and its reply gone, a query in flight marked (R156). -/
def haltedLine (x : Line) : Line :=
  { x with queries := [], reply := none, inFlight := x.inFlight.map fun f => { f with halted := true } }

theorem haltQueries_posts (l : Fin 4) (s : Block) : ∃ t, Posts s t ∧ haltQueries l s = modLine l haltedLine t := by
  have queued := Posts.endQueries .busFault (lineOf s l).queries s
  cases reply : (lineOf s l).reply with
  | none =>
    refine ⟨_, queued, ?_⟩
    simp only [haltQueries, reply]
    rfl
  | some r =>
    refine ⟨_, queued.trans (Posts.completePlain r.slot .busFault _), ?_⟩
    simp only [haltQueries, reply]
    rfl

theorem haltQueries_line (l : Fin 4) (s : Block) (i : Fin 4) :
    lineOf (haltQueries l s) i = if i = l then haltedLine (lineOf s i) else lineOf s i := by
  obtain ⟨t, posts, is⟩ := haltQueries_posts l s
  have same : ∀ j, lineOf t j = lineOf s j := fun j => by rw [lineOf, posts.lines, lineOf]
  rw [is, lineOf_modLine_ite, same, same]
  split
  · rename_i own
    rw [own]
  · rfl

theorem haltQueries_lines {ls : List (Fin 4)} (nodup : ls.Nodup) (s : Block) (i : Fin 4) :
    lineOf (ls.foldl (fun t l => haltQueries l t) s) i = if i ∈ ls then haltedLine (lineOf s i) else lineOf s i := by
  induction ls generalizing s with
  | nil => exact (if_neg List.not_mem_nil).symm
  | cons l rest ih =>
    obtain ⟨new, others⟩ := List.nodup_cons.1 nodup
    rw [List.foldl_cons, ih others, haltQueries_line]
    rcases eq_or_ne i l with rfl | other
    · rw [if_neg new, if_pos rfl, if_pos List.mem_cons_self]
    · rw [if_neg other]
      simp only [List.mem_cons, other, false_or]

theorem talkbackHalt_only (s : Block) : OnlyTalk s (talkbackHalt s) ∧ (talkbackHalt s).talkback = []
    ∧ ∀ l, lineOf (talkbackHalt s) l = haltedLine (lineOf s l) := by
  refine ⟨?_, rfl, fun l => ?_⟩
  · have lines : OnlyLines s (allLines.foldl (fun t l => haltQueries l t) s) :=
      foldl_chain (R := OnlyLines) (fun _ => rfl) (fun h k => h.trans k) (fun t l => by
        obtain ⟨u, posts, is⟩ := haltQueries_posts l t
        rw [is]
        exact OnlyLines.modLine posts) allLines s
    have emptied : ∀ t : Block, OnlyTalk t { t with talkback := [] } := fun _ => rfl
    exact lines.onlyTalk.trans (emptied _)
  · have halts := haltQueries_lines (ls := allLines) (by decide) s l
    rw [if_pos (mem_allLines l)] at halts
    rw [← halts, talkbackHalt]
    generalize allLines.foldl (fun t l => haltQueries l t) s = t
    rfl

/-! ### The status writer (R178, R180) -/

/-- Nothing changes but the status writer, the results and the port. -/
def OnlyStatus (s t : Block) : Prop := t = { s with status := t.status, results := t.results, port := t.port }

theorem OnlyStatus.trans {s t u : Block} (h : OnlyStatus s t) (k : OnlyStatus t u) : OnlyStatus s u := by
  unfold OnlyStatus at h k ⊢
  rw [k, h]

theorem Posts.onlyStatus {s t : Block} (h : Posts s t) : OnlyStatus s t ∧ t.status = s.status := by
  unfold OnlyStatus
  rw [h.rest]
  exact ⟨rfl, rfl⟩

theorem modStatus_only (f : StatusWriter → StatusWriter) (s : Block) : OnlyStatus s (modStatus f s) := rfl

theorem askStatus_posts (s : Block) : Posts s (askStatus s) := by
  unfold askStatus
  split
  · exact Posts.ask ..
  · exact .refl s

theorem leaveStatus_only (s : Block) : OnlyStatus s (leaveStatus s) ∧ (leaveStatus s).status = { s.status with order := s.status.order.drop 1 } := by
  obtain ⟨only, status⟩ := (askStatus_posts (modStatus (fun w => { w with order := w.order.drop 1 }) s)).onlyStatus
  exact ⟨(modStatus_only _ s).trans only, status⟩

theorem endSnapshot_only (code : ResultCode) (s : Block) :
    OnlyStatus s (endSnapshot code s) ∧ (endSnapshot code s).status = { s.status with snapshot := none } := by
  cases job : s.status.snapshot with
  | none =>
    have same : endSnapshot code s = s := by rw [endSnapshot, job]
    rw [same, ← job]
    exact ⟨rfl, rfl⟩
  | some j =>
    have ends : endSnapshot code s = completePlain j.slot code (modStatus (fun w => { w with snapshot := none }) s) := by
      rw [endSnapshot, job]
    obtain ⟨only, status⟩ := (Posts.completePlain j.slot code (modStatus (fun w => { w with snapshot := none }) s)).onlyStatus
    rw [ends]
    exact ⟨(modStatus_only _ s).trans only, status⟩

/-- A fault of the STATUS client, by the job at the head of its order. -/
theorem statusFault_only (s : Block) : OnlyStatus s (statusFault s)
    ∧ (s.status.order.head? = some .page → (statusFault s).status
        = { s.status with edition := s.status.edition + 2, page := none, order := s.status.order.drop 1 })
    ∧ (s.status.order.head? ≠ some .page → (statusFault s).status
        = { s.status with snapshot := (statusFault s).status.snapshot, order := s.status.order.drop 1 }) := by
  cases order : s.status.order with
  | nil =>
    have same : statusFault s = s := by rw [statusFault, order]
    rw [same, List.drop_nil, ← order]
    exact ⟨rfl, fun page => absurd page (by rw [order]; exact nofun), fun _ => rfl⟩
  | cons j rest =>
    cases j with
    | page =>
      have ends : statusFault s = leaveStatus (endPage s) := by rw [statusFault, order]
      obtain ⟨only, status⟩ := leaveStatus_only (endPage s)
      rw [ends, ← order]
      exact ⟨(modStatus_only _ s).trans only, fun _ => status, fun other => absurd (by rw [order]; rfl) other⟩
    | snapshot =>
      have ends : statusFault s = leaveStatus (endSnapshot .busFault s) := by rw [statusFault, order]
      obtain ⟨first, snapshot⟩ := endSnapshot_only .busFault s
      obtain ⟨only, status⟩ := leaveStatus_only (endSnapshot .busFault s)
      rw [ends, ← order]
      refine ⟨first.trans only, fun page => absurd page (by rw [order]; exact nofun), fun _ => ?_⟩
      rw [status, snapshot]

theorem statusHalt_only (s : Block) : OnlyStatus s (statusHalt s) ∧ (statusHalt s).status = { s.status with
    page := none, snapshot := none, order := [], edition := if s.status.page.isSome then s.status.edition + 2 else s.status.edition } := by
  unfold statusHalt
  dsimp only
  cases page : s.status.page with
  | none =>
    obtain ⟨only, status⟩ := endSnapshot_only .busFault s
    refine ⟨only.trans (modStatus_only _ _), ?_⟩
    change { (endSnapshot .busFault s).status with order := [] } = _
    have even : (if (none : Option PageJob).isSome = true then s.status.edition + 2 else s.status.edition) = s.status.edition :=
      if_neg Bool.false_ne_true
    rw [status, even, ← page]
  | some j =>
    obtain ⟨only, status⟩ := endSnapshot_only .busFault (endPage s)
    refine ⟨((modStatus_only _ s).trans only).trans (modStatus_only _ _), ?_⟩
    change { (endSnapshot .busFault (endPage s)).status with order := [] } = _
    rw [status]
    rfl

/-! ### The scanner (R173) -/

/-- Nothing changes but the scanner, the results and the port. -/
def OnlyScanner (s t : Block) : Prop := t = { s with scanner := t.scanner, results := t.results, port := t.port }

theorem Posts.onlyScanner {s t : Block} (h : Posts s t) : OnlyScanner s t ∧ t.scanner = s.scanner := by
  unfold OnlyScanner
  rw [h.rest]
  exact ⟨rfl, rfl⟩

theorem scannerFault_only {s : Block} (halted : s.engine.state = .halted) : OnlyScanner s (scannerFault s)
    ∧ (scannerFault s).scanner = { s.scanner with step := .idle, scanPending := false } := by
  unfold scannerFault
  split
  · rename_i i _ _ _ _
    generalize (if s.engine.state = .stopping then ResultCode.cancelled else .busFault) = code
    obtain ⟨only, scanner⟩ := (Posts.completePlain i code s).onlyScanner
    rw [endScan_halted ((completePlain_stays halted i code).state halted)]
    unfold OnlyScanner at only ⊢
    change _ ∧ { (completePlain i code s).scanner with step := .idle, scanPending := false } = _
    rw [scanner]
    refine ⟨?_, rfl⟩
    conv_lhs => rw [modScanner, only]
    rfl
  · rw [endScan_halted halted]
    exact ⟨rfl, rfl⟩

theorem scannerHalt_only (s : Block) : OnlyScanner s (scannerHalt s)
    ∧ (scannerHalt s).scanner = { s.scanner with step := .idle, scanPending := false } := by
  unfold scannerHalt
  dsimp only
  split
  · rename_i i _ _ _ _
    obtain ⟨only, scanner⟩ := (Posts.completePlain i .busFault (modScanner (fun x => { x with step := .idle, scanPending := false }) s)).onlyScanner
    refine ⟨?_, scanner⟩
    unfold OnlyScanner at only ⊢
    conv_lhs => rw [only]
    rfl
  · exact ⟨rfl, rfl⟩

end Sys2Proof.Machine
end

section
/-! SUPPORT. The entry into HALTED, block by block (R25, R60, R98, R156, R173, R176, R178, R180, R189, R194). -/

namespace Sys2Proof.Machine

/-! ### What a block's end leaves to the others -/

/-- What no block's end at a halt changes. -/
def HaltRest (s t : Block) : Prop := t = { s with
  intStatus := t.intStatus, engine := t.engine, port := t.port, scanner := t.scanner, results := t.results, status := t.status
  playbacks := t.playbacks, superseded := t.superseded, loader := t.loader, tables := t.tables, mixer := t.mixer, lines := t.lines
  talkback := t.talkback }

theorem HaltRest.trans {s t u : Block} (h : HaltRest s t) (k : HaltRest t u) : HaltRest s u := by
  unfold HaltRest at h k ⊢
  rw [k, h]

/-- Nothing changes that the playbacks and the cue loader have. -/
def Beside (s t : Block) : Prop := t = { s with
  scanner := t.scanner, results := t.results, port := t.port, status := t.status, tables := t.tables, lines := t.lines, talkback := t.talkback }

theorem Beside.trans {s t u : Block} (h : Beside s t) (k : Beside t u) : Beside s u := by
  unfold Beside at h k ⊢
  rw [k, h]

theorem OnlyTables.beside {s t : Block} (h : OnlyTables s t) : Beside s t := by
  unfold OnlyTables at h
  unfold Beside
  rw [h]

theorem OnlyTalk.beside {s t : Block} (h : OnlyTalk s t) : Beside s t := by
  unfold OnlyTalk at h
  unfold Beside
  rw [h]

theorem OnlyStatus.beside {s t : Block} (h : OnlyStatus s t) : Beside s t := by
  unfold OnlyStatus at h
  unfold Beside
  rw [h]

theorem OnlyScanner.beside {s t : Block} (h : OnlyScanner s t) : Beside s t := by
  unfold OnlyScanner at h
  unfold Beside
  rw [h]

theorem Beside.rest {s t : Block} (h : Beside s t) : HaltRest s t := by
  unfold Beside at h
  unfold HaltRest
  rw [h]

theorem Plays.haltRest {s t : Block} (h : Plays s t) : HaltRest s t := by
  unfold HaltRest
  rw [h.rest]
  rfl

/-- No load, and nothing of the loader, has changed. -/
structure Apart (s t : Block) : Prop where
  loads : LoadsEnded (fun _ => False) (fun _ => False) s t
  loader : t.loader = s.loader

theorem Apart.trans {s t u : Block} (h : Apart s t) (k : Apart t u) : Apart s u :=
  ⟨(h.loads.trans k.loads).congr (fun _ => or_self_iff) fun _ => or_self_iff, k.loader.trans h.loader⟩

theorem LoadsHalt.apart {stuck : Nat} {s t u : Block} (h : LoadsHalt stuck s t) (k : Apart t u) : LoadsHalt stuck s u :=
  ⟨(h.loads.trans k.loads).congr (fun _ => or_iff_left id) fun _ => or_iff_left id, k.loader.trans h.loader⟩

theorem Beside.apart {s t : Block} (h : Beside s t) : Apart s t := by
  unfold Beside at h
  refine ⟨.untouched ?_ ?_ ?_ ?_ fun i _ => ?_, ?_⟩
  · rw [h]
  · rw [h]
  · rw [h]
  · rw [h]
  · rw [isRaised, h, isRaised]
  · rw [h]

/-! ### A client that is handed its fault in HALTED (R189) -/

/-- What the STATUS client's order of jobs has become of, for the edition (R178). -/
structure PagesLeft (w v : StatusWriter) : Prop where
  rest : v = { w with page := v.page, snapshot := v.snapshot, order := v.order, edition := v.edition }
  none : w.page = none → w.order.head? ≠ some .page → v.page = none ∧ v.edition = w.edition
  some : w.page.isSome = true → v.page.isSome = true ∧ v.edition = w.edition ∨ v.page = Option.none ∧ v.edition = w.edition + 2

theorem PagesLeft.refl (w : StatusWriter) : PagesLeft w w := ⟨rfl, fun none _ => ⟨none, rfl⟩, fun some => .inl ⟨some, rfl⟩⟩

theorem statusFault_pages (s : Block) : PagesLeft s.status (statusFault s).status := by
  obtain ⟨-, page, other⟩ := statusFault_only s
  by_cases head : s.status.order.head? = some .page
  · rw [page head]
    exact ⟨rfl, fun _ away => absurd head away, fun _ => .inr ⟨rfl, rfl⟩⟩
  · rw [other head]
    exact ⟨rfl, fun none _ => ⟨none, rfl⟩, fun some => .inl ⟨some, rfl⟩⟩

/-- What the fault handed to a client leaves to the halt. -/
structure FaultTaken (s t : Block) : Prop where
  scanner : { t.scanner with step := .idle, scanPending := false } = { s.scanner with step := .idle, scanPending := false }
  lines : ∀ l, haltedLine (lineOf t l) = haltedLine (lineOf s l)
  status : PagesLeft s.status t.status
  rest : HaltRest s t

theorem clientFault_taken {s : Block} (halted : s.engine.state = .halted) (c : Client) (words : List Word) :
    FaultTaken s (clientFault c words s) ∧ (c ≠ .loader → Apart s (clientFault c words s)) := by
  have started : s.engine.state ≠ .starting := by rw [halted]; decide
  cases c with
  | scanner =>
    obtain ⟨only, scanner⟩ := scannerFault_only halted
    rw [clientFault, if_neg started]
    refine ⟨⟨?_, fun l => ?_, ?_, only.beside.rest⟩, fun _ => only.beside.apart⟩
    · rw [scanner]
    · rw [lineOf, only, lineOf]
    · rw [only]
      exact .refl _
  | results => exact ⟨⟨rfl, fun l => rfl, .refl _, rfl⟩, fun _ => Beside.apart (t := resultsFault s) rfl⟩
  | loader =>
    have plays := Plays.loaderFault (readFree words) s
    rw [clientFault, if_neg started]
    refine ⟨⟨?_, fun l => ?_, ?_, plays.haltRest⟩, fun other => absurd rfl other⟩
    · rw [plays.rest]
      rfl
    · rw [lineOf, plays.rest]
      rfl
    · rw [plays.rest]
      exact .refl _
  | tables =>
    have only := tablesFault_only halted
    refine ⟨⟨?_, fun l => ?_, ?_, only.beside.rest⟩, fun _ => only.beside.apart⟩
    · rw [clientFault, only]
    · rw [clientFault, lineOf, only, lineOf]
    · rw [clientFault, only]
      exact .refl _
  | talkback =>
    obtain ⟨only, lines⟩ := endReply_only .busFault s
    refine ⟨⟨?_, fun l => ?_, ?_, only.beside.rest⟩, fun _ => only.beside.apart⟩
    · rw [clientFault, only]
    · rw [clientFault]
      rcases lines l with same | emptied
      · rw [same]
      · rw [emptied]
        rfl
    · rw [clientFault, only]
      exact .refl _
  | status =>
    obtain ⟨only, -, -⟩ := statusFault_only s
    refine ⟨⟨?_, fun l => ?_, statusFault_pages s, only.beside.rest⟩, fun _ => only.beside.apart⟩
    · rw [clientFault, only]
    · rw [clientFault, lineOf, only, lineOf]

/-! ### The blocks' ends, one after another (R189, R194) -/

/-- FAULT is raised with BUS_HALT, and every waiting request of the port is withdrawn. -/
def haltReported (s : Block) : Block := raiseInt .fault { s with
  engine := { s.engine with state := .halted, fault := .busHalt, start := .idle, aborting := false }
  port := s.port.withdraw }

theorem enterHalted_eq (s : Block) :
    enterHalted s = resultsHalt (statusHalt (talkbackHalt (tablesHalt (loaderHalt (scannerHalt (haltReported s)))))) := rfl

theorem haltReported_apart (s : Block) : Apart s (haltReported s) := by
  refine ⟨.untouched rfl rfl rfl rfl fun i other => ?_, rfl⟩
  have raised := @isRaised_raiseInt .fault i { s with
    engine := { s.engine with state := .halted, fault := .busHalt, start := .idle, aborting := false }, port := s.port.withdraw }
  exact Bool.eq_iff_iff.2 (raised.trans (or_iff_left other))

theorem haltReported_raised (s : Block) : isRaised .fault (haltReported s) = true := isRaised_raiseInt.2 (.inr rfl)

theorem resultsHalt_beside (s : Block) : Beside s (resultsHalt s) := rfl

theorem Beside.raised {s t : Block} (h : Beside s t) (i : IntSource) : isRaised i t = isRaised i s := by
  unfold Beside at h
  rw [isRaised, h, isRaised]

/-- The loads at a halt: what the loader's end finds and leaves. -/
theorem enterHalted_loads (s : Block) : ∃ v, Apart s v ∧ v.engine.state = .halted ∧ Apart (loaderHalt v) (enterHalted s) := by
  have reported : (haltReported s).engine.state = .halted := rfl
  refine ⟨scannerHalt (haltReported s), (haltReported_apart s).trans (scannerHalt_only _).1.beside.apart,
    (scannerHalt_stays reported).state reported, ?_⟩
  rw [enterHalted_eq]
  generalize loaderHalt (scannerHalt (haltReported s)) = t
  exact ((((tablesHalt_only t).1.beside.trans (talkbackHalt_only _).1.beside).trans (statusHalt_only _).1.beside).trans
    (resultsHalt_beside _)).apart

/-- Everything but the loads at a halt. -/
structure Halted (s t : Block) : Prop where
  engine : t.engine = { s.engine with state := .halted, fault := .busHalt, start := .idle, aborting := false }
  raised : isRaised .fault t = true
  port : t.port = s.port.withdraw
  scanner : t.scanner = { s.scanner with step := .idle, scanPending := false }
  results : t.results = ⟨[], [], .idle⟩
  tables : t.tables = ⟨[], none, .empty, Vector.replicate 7 .empty⟩
  talkback : t.talkback = []
  lines : ∀ l, lineOf t l = haltedLine (lineOf s l)
  status : t.status = { s.status with
    page := none, snapshot := none, order := [], edition := if s.status.page.isSome then s.status.edition + 2 else s.status.edition }
  rest : HaltRest s t

theorem enterHalted_halted (s : Block) : Halted s (enterHalted s) := by
  rw [enterHalted_eq]
  have first : HaltRest s (haltReported s) := rfl
  obtain ⟨scans, scanner⟩ := scannerHalt_only (haltReported s)
  have stays : StaysHalted (haltReported s) (scannerHalt (haltReported s)) := scannerHalt_stays rfl
  have state := stays.state rfl
  generalize scannerHalt (haltReported s) = s1 at scans scanner stays state ⊢
  have plays := Plays.loaderHalt s1
  have loads := loaderHalt_stays state
  have state := loads.state state
  generalize loaderHalt s1 = s2 at plays loads state ⊢
  obtain ⟨tabulates, tables⟩ := tablesHalt_only s2
  have tabled := tablesHalt_stays state
  have state := tabled.state state
  generalize tablesHalt s2 = s3 at tabulates tables tabled state ⊢
  obtain ⟨talks, talkback, lines⟩ := talkbackHalt_only s3
  have talked := talkbackHalt_stays state
  have state := talked.state state
  generalize talkbackHalt s3 = s4 at talks talkback lines talked state ⊢
  obtain ⟨reports, status⟩ := statusHalt_only s4
  have reported := statusHalt_stays state
  generalize statusHalt s4 = s5 at reports status reported ⊢
  have all : StaysHalted (haltReported s) s5 := (((stays.trans loads).trans tabled).trans talked).trans reported
  refine ⟨all.engine, all.raised (haltReported_raised s), all.port, ?_, rfl, ?_, ?_, fun l => ?_, ?_, ?_⟩
  · change s5.scanner = _
    rw [reports, talks, tabulates, plays.rest]
    exact scanner
  · change s5.tables = _
    rw [reports, talks]
    exact tables
  · change s5.talkback = _
    rw [reports]
    exact talkback
  · change lineOf s5 l = _
    rw [lineOf, reports]
    refine (lines l).trans (congrArg haltedLine ?_)
    rw [lineOf, tabulates, plays.rest, scans]
    rfl
  · change s5.status = _
    have before : s4.status = s.status := by
      rw [talks, tabulates, plays.rest, scans]
      rfl
    rw [status, before]
  · refine ((((((first.trans scans.beside.rest).trans plays.haltRest).trans tabulates.beside.rest).trans talks.beside.rest).trans
      reports.beside.rest)).trans ?_
    exact (resultsHalt_beside s5).rest

end Sys2Proof.Machine
end

section
/-! SUPPORT. The third fault in a row (R58, R60, R182, R185, R186, R189, R194). -/

namespace Sys2Proof.Machine

/-! ### The loads -/

theorem theLoadsEndAtAHalt {b t : Block} (h : LoadsEnded (HasLoad · b) (IsCurrent · b) b t) : TheLoadsEndAtAHalt b t := by
  refine ⟨fun p has => ?_, h.others, fun ok p => ?_, h.prompt, h.quiet, h.mixer⟩
  · obtain ⟨load, queue⟩ := h.ended p has
    refine ⟨load, queue, fun current => ?_, fun other => ?_, h.served p has⟩
    · obtain ⟨incoming, reservation⟩ := h.freed p current
      dsimp only
      rw [incoming, reservation]
    · obtain ⟨incoming, reservation⟩ := h.kept p other
      dsimp only
      rw [incoming, reservation]
  · by_cases has : HasLoad p b
    · exact h.ended p has
    · rw [h.others p has]
      have own : loadOk b p = true := by
        rw [loadsOk, Bool.and_eq_true, List.all_eq_true] at ok
        exact ok.1 p (mem_allPlaybacks p)
      unfold loadOk at own
      cases load : (playbackOf b p).load with
      | none =>
        rw [load] at own
        exact ⟨rfl, List.isEmpty_iff.1 own⟩
      | waiting =>
        rw [load] at own
        obtain ⟨j, mem, is⟩ := List.any_eq_true.1 own
        exact absurd (.inl ⟨j, mem, beq_iff_eq.1 is⟩) has
      | reading =>
        rw [load] at own
        obtain ⟨c, current, is⟩ := (Option.any_eq_true _ _).1 own
        exact absurd (.inr ⟨c, current, beq_iff_eq.1 is⟩) has

/-! ### The faulted tenure (R182, R183, R187) -/

/-- Of a read-modify-write's two words at most the first is done before the faulted one. -/
theorem underWay_modify {tn : Tenure} {a expect put : Word} (kind : tn.kind = .modify a expect put) (n : Nat) (m : Memory) :
    (tn.underWay n m).done = if 1 ≤ n ∧ m.load (wordAddress a) = expect then 1 else 0 := by
  rw [underWay_done, kind, tenureLength]
  split
  · rename_i meets
    simp only [meets, and_true]
    split <;> omega
  · rename_i fails
    simp only [fails, and_false, if_false]
    omega

theorem theWordsDoneStand (tn : Tenure) (n : Nat) (landed : Bool) {b t : Block}
    (mem : t.mem = performWords tn.kind ((tn.underWay n b.mem).done + bit landed) b.mem) : TheWordsDoneStand tn n landed b t := by
  refine ⟨fun a k kind => ?_, fun a ws kind before => ?_, fun a expect put kind => ?_⟩
  · rw [mem, kind]
    rfl
  · have done : (tn.underWay n b.mem).done = n := by
      rw [underWay_done, kind, tenureLength]
      omega
    rw [mem, kind, done, performWords]
    cases landed <;> rfl
  · rw [mem, underWay_modify kind, kind, performWords]
    have two : (2 ≤ (if 1 ≤ n ∧ b.mem.load (wordAddress a) = expect then 1 else 0) + bit landed ∧ b.mem.load (wordAddress a) = expect)
        ↔ 1 ≤ n ∧ landed = true ∧ b.mem.load (wordAddress a) = expect := by
      cases landed <;> simp only [bit, Bool.false_eq_true, if_false, if_true, false_and, and_false, iff_false, true_and]
      · split <;> omega
      · split
        · rename_i meets
          simp [meets]
        · rename_i fails
          simp only [not_and] at fails
          constructor
          · rintro ⟨many, -⟩
            omega
          · rintro ⟨some, meets⟩
            exact absurd meets (fails some)
    rw [if_congr two rfl rfl]

theorem performWords_nothing (k : TenureKind) (m : Memory) : performWords k (0 + bit false) m = m := by
  cases k with
  | read a n => rfl
  | write a ws => rfl
  | modify a expect put =>
    rw [performWords, if_neg]
    rintro ⟨two, -⟩
    exact absurd two (by decide)

/-- The value that an acquire had read when its write faulted is FREE (R58). -/
theorem readFree_underWay {tn : Tenure} {a put : Word} (kind : tn.kind = .modify a 0 put) (n : Nat) (m : Memory) :
    readFree ((tn.underWay n m).wordsRead m) = decide (1 ≤ n ∧ m.load (wordAddress a) = 0) := by
  have done := underWay_modify kind n m
  have words : (tn.underWay n m).wordsRead m = if 1 ≤ n ∧ m.load (wordAddress a) = 0 then [m.load (wordAddress a)] else [] := by
    have value : (tn.underWay n m).value = if (tn.underWay n m).done = 0 then none else some (m.load (wordAddress a)) := by
      rw [Tenure.underWay, Tenure.reach, kind]
    have same : (tn.underWay n m).kind = .modify a 0 put := kind
    rw [Tenure.wordsRead, same]
    dsimp only
    rw [value, done]
    split <;> simp_all
  rw [readFree, words]
  split
  · rename_i both
    rw [decide_eq_true both, both.2]
    rfl
  · rename_i neither
    rw [decide_eq_false neither]
    rfl

/-! ### The third fault -/

/-- The part whose third fault in a row is handed to its client. -/
def thirdFault (tn : Tenure) (n : Nat) (landed : Bool) (b : Block) : Block :=
  modEngine (fun e => { e with state := .halted }) (countFault (tn.underWay n b.mem) landed b)

theorem thirdFault_apart (tn : Tenure) (n : Nat) (landed : Bool) (b : Block) : Apart b (thirdFault tn n landed b) :=
  ⟨.untouched rfl rfl rfl rfl fun _ _ => rfl, rfl⟩

theorem endFaulted_third {tn : Tenure} {n : Nat} {landed : Bool} {b : Block} (consecutive : b.port.consecutive = 2) :
    endFaulted tn n landed b = enterHalted (clientFault tn.client ((tn.underWay n b.mem).wordsRead b.mem) (thirdFault tn n landed b)) := by
  have third : (countFault (tn.underWay n b.mem) landed b).port.consecutive = Config.faultLimit := by
    change oneMoreFault b.port.consecutive = _
    rw [consecutive]
    rfl
  rw [endFaulted]
  exact if_pos third

theorem heldLock_loader {tn : Tenure} {n : Nat} {b t : Block} (loader : tn.client = .loader)
    (stuck : t.loader.stuck = stuckAtFault (readFree ((tn.underWay n b.mem).wordsRead b.mem)) b.loader) : AHeldLockIsStuck tn n b t := by
  refine ⟨fun none => ?_, fun c current => ⟨fun held stage => ?_, fun free stage => ⟨fun other => absurd loader other, fun a _ kind => ?_⟩⟩⟩
  · rw [stuck, stuckAtFault, none]
  · rw [stuck, stuckAtFault, current]
    dsimp only
    cases is : c.stage with
    | lock => exact absurd is stage
    | unlock => rfl
    | seekCount => exact if_pos held
    | seekDirectory count position => exact if_pos held
    | header number offset count => exact if_pos held
    | entries offset position => exact if_pos held
  · have counted : t.loader.stuck
        = if 1 ≤ n ∧ b.mem.load (wordAddress a) = 0 then countUp b.loader.stuck else b.loader.stuck := by
      rw [stuck, stuckAtFault, current]
      dsimp only
      rw [stage]
      dsimp only
      rw [readFree_underWay kind]
      simp only [decide_eq_true_eq]
    rw [counted]
    exact ⟨fun some read => if_pos ⟨some, read⟩, fun either => if_neg fun both => either.elim (fun none => by omega) fun other => other both.2⟩

theorem heldLock_other {tn : Tenure} {n : Nat} {b t : Block} (other : tn.client ≠ .loader) (stuck : t.loader.stuck = stuckAtHalt b.loader) :
    AHeldLockIsStuck tn n b t := by
  refine ⟨fun none => ?_, fun c current => ⟨fun held _ => ?_, fun free _ => ⟨fun _ => ?_, fun a loader => absurd loader other⟩⟩⟩
  · rw [stuck, stuckAtHalt, none]
  · rw [stuck, stuckAtHalt, current]
    exact if_pos held
  · rw [stuck, stuckAtHalt, current]
    exact if_neg (by rw [free]; exact Bool.false_ne_true)

/-- The loads at the third fault. -/
theorem thirdFault_loads (tn : Tenure) (n : Nat) (landed : Bool) (b : Block) {words : List Word}
    (read : (tn.underWay n b.mem).wordsRead b.mem = words) :
    ∃ stuck, LoadsHalt stuck (thirdFault tn n landed b) (enterHalted (clientFault tn.client words (thirdFault tn n landed b)))
      ∧ ∀ t : Block, t.loader.stuck = stuck → AHeldLockIsStuck tn n b t := by
  subst read
  have halted : (thirdFault tn n landed b).engine.state = .halted := rfl
  obtain ⟨v, before, state, after⟩ := enterHalted_loads (clientFault tn.client ((tn.underWay n b.mem).wordsRead b.mem) (thirdFault tn n landed b))
  by_cases loader : tn.client = .loader
  · have own : clientFault tn.client ((tn.underWay n b.mem).wordsRead b.mem) (thirdFault tn n landed b)
        = loaderFault (readFree ((tn.underWay n b.mem).wordsRead b.mem)) (thirdFault tn n landed b) := by
      rw [loader, clientFault, if_neg (by rw [halted]; decide)]
    rw [own] at before after ⊢
    exact ⟨_, (loaderFault_halts halted _ state before.loads before.loader).apart after, fun t => heldLock_loader loader⟩
  · have apart := ((clientFault_taken halted tn.client _).2 loader).trans before
    exact ⟨_, (loaderHalt_later state apart.loads apart.loader).apart after, fun t stuck => heldLock_other loader stuck⟩

/-- Settles O48: each block's end at the third fault, the loads at its halt, and the words that stand in memory. -/
theorem aThirdFaultHaltsTheEngine : Obligations.AThirdFaultHaltsTheEngine := by
  unfold Obligations.AThirdFaultHaltsTheEngine
  intro b q tn done landed phase current consecutive halts faulted
  have halt : ∀ n landed, halts n (endFaulted tn n landed b)
      ∧ (endFaulted tn n landed b).mem = performWords tn.kind ((tn.underWay n b.mem).done + bit landed) b.mem := fun n landed => by
    rw [endFaulted_third consecutive]
    have state : (thirdFault tn n landed b).engine.state = .halted := rfl
    obtain ⟨stuck, loads, lock⟩ := thirdFault_loads tn n landed b rfl
    have taken := (clientFault_taken state tn.client ((tn.underWay n b.mem).wordsRead b.mem)).1
    have stays := clientFault_stays state tn.client ((tn.underWay n b.mem).wordsRead b.mem)
    have ended := enterHalted_halted (clientFault tn.client ((tn.underWay n b.mem).wordsRead b.mem) (thirdFault tn n landed b))
    generalize clientFault tn.client ((tn.underWay n b.mem).wordsRead b.mem) (thirdFault tn n landed b) = w at loads taken stays ended ⊢
    generalize enterHalted w = t at loads ended ⊢
    have rest := taken.rest.trans ended.rest
    have kept : ∀ x : Block, HaltRest (thirdFault tn n landed b) x → x.control = b.control ∧ x.intMask = b.intMask ∧ x.anchorReg = b.anchorReg
        ∧ x.anchor = b.anchor ∧ x.time = b.time ∧ x.store = b.store ∧ x.outputs = b.outputs ∧ x.triggers = b.triggers := fun x h => by
      rw [h]
      exact ⟨rfl, rfl, rfl, rfl, rfl, rfl, rfl, rfl⟩
    have loader := loads.loader
    have pages := taken.status
    refine ⟨⟨?_, ended.raised, ?_, ?_, ended.results, ?_, ?_, ?_, lock t ?_, ?_, ended.tables, ended.talkback, fun l => ?_, ?_, ?_, ?_,
      kept t rest⟩, ?_⟩
    · rw [ended.engine, stays.engine]
      rfl
    · have faulted : (thirdFault tn n landed b).port.withdraw = { b.port with
          state := .idle, current := none, waiting := Vector.replicate 6 none, consecutive := oneMoreFault b.port.consecutive
          faults := countUp b.port.faults } := rfl
      rw [ended.port, stays.port, faulted, consecutive]
      rfl
    · rw [ended.scanner, taken.scanner]
      rfl
    · rw [loader]
    · rw [loader]
    · rw [loader]
      rfl
    · rw [loader]
    · exact theLoadsEndAtAHalt (((thirdFault_apart tn n landed b).loads.trans loads.loads).congr (fun _ => or_iff_right id)
        fun _ => or_iff_right id)
    · rw [ended.lines, taken.lines]
      rfl
    · rw [ended.status, pages.rest]
      rfl
    · intro page head
      obtain ⟨left, edition⟩ := pages.none page head
      rw [ended.status, left, edition]
      rfl
    · intro page
      rw [ended.status]
      rcases pages.some page with ⟨left, edition⟩ | ⟨left, edition⟩
      · rw [left, edition]
        rfl
      · rw [left, edition]
        rfl
    · rw [rest]
      rfl
  have event : ∀ st, b.port.state = st → (live b && (b.port.state == st)) = true := fun st state => by simp [live, phase, state]
  have faults : ∀ st, b.port.state = st → faultTenure done landed b = endFaulted tn faulted landed b := fun st state => by
    rw [faultTenure, current]
  refine ⟨fun requesting => ?_, fun transferring => ⟨?_, ?_⟩⟩
  · refine ⟨_, answer_taken (event _ requesting) grantTimesOut b q, ?_⟩
    have times : grantTimesOut b = endFaulted tn 0 false b := by rw [grantTimesOut, current]
    obtain ⟨all, mem⟩ := halt 0 false
    rw [times]
    have none : (tn.underWay 0 b.mem).done = 0 := by rw [underWay_done, Nat.zero_min]
    rw [none] at mem
    exact ⟨all, mem.trans (performWords_nothing tn.kind b.mem)⟩
  · obtain ⟨all, mem⟩ := halt faulted landed
    refine ⟨_, answer_taken (event _ transferring) (faultTenure done landed) b q, ?_⟩
    rw [faults _ transferring]
    exact ⟨all, theWordsDoneStand tn faulted landed mem⟩
  · obtain ⟨all, mem⟩ := halt faulted landed
    refine ⟨_, answer_taken (event _ transferring) (faultTenure done landed) b q, ?_⟩
    rw [faults _ transferring]
    exact ⟨all, theWordsDoneStand tn faulted landed mem⟩

end Sys2Proof.Machine
end

section
/-! SUPPORT. The order in which the blocks take a frame boundary: every block once, at the place where the command first names it
(R104, notes/assumptions/5.md). -/

namespace Sys2Proof.Machine

/-! ### Lists without their repetitions -/

theorem mem_takeWhile_filter {α : Type} [DecidableEq α] {a x y : α} {l : List α} (hx : x ≠ a) (hy : y ≠ a) :
    x ∈ (l.filter fun z => !z == a).takeWhile (fun z => z != y) ↔ x ∈ l.takeWhile (fun z => z != y) := by
  induction l with
  | nil => exact Iff.rfl
  | cons z rest ih =>
    by_cases isA : z = a
    · rw [List.filter_cons_of_neg (by simp [isA]), ih, List.takeWhile_cons_of_pos (by simp [isA, hy.symm])]
      simp [isA, hx]
    · rw [List.filter_cons_of_pos (by simp [isA])]
      by_cases isY : z = y
      · rw [List.takeWhile_cons_of_neg (by simp [isY]), List.takeWhile_cons_of_neg (by simp [isY])]
      · rw [List.takeWhile_cons_of_pos (by simp [isY]), List.takeWhile_cons_of_pos (by simp [isY]), List.mem_cons, List.mem_cons, ih]

/-- What comes before the first `y` comes before it when repetitions are left out. -/
theorem mem_takeWhile_eraseDups {α : Type} [DecidableEq α] {x y : α} (l : List α) :
    x ∈ l.eraseDups.takeWhile (fun z => z != y) ↔ x ∈ l.takeWhile (fun z => z != y) := by
  match l with
  | [] => rfl
  | a :: rest =>
    have ih := mem_takeWhile_eraseDups (x := x) (y := y) (rest.filter fun z => !z == a)
    rw [List.eraseDups_cons]
    by_cases isY : a = y
    · rw [List.takeWhile_cons_of_neg (by simp [isY]), List.takeWhile_cons_of_neg (by simp [isY])]
    · rw [List.takeWhile_cons_of_pos (by simp [isY]), List.takeWhile_cons_of_pos (by simp [isY]), List.mem_cons, List.mem_cons, ih]
      by_cases isX : x = a
      · simp [isX]
      · rw [mem_takeWhile_filter isX (Ne.symm isY)]
termination_by l.length
decreasing_by simpa using Nat.lt_succ_of_le (List.length_filter_le _ rest)

theorem nodup_eraseDups {α : Type} [DecidableEq α] (l : List α) : l.eraseDups.Nodup := by
  match l with
  | [] => exact List.nodup_nil
  | a :: rest =>
    have ih := nodup_eraseDups (rest.filter fun z => !z == a)
    rw [List.eraseDups_cons, List.nodup_cons, List.mem_eraseDups]
    exact ⟨by simp, ih⟩
termination_by l.length
decreasing_by simpa using Nat.lt_succ_of_le (List.length_filter_le _ rest)

theorem eraseDups_of_nodup {α : Type} [DecidableEq α] {l : List α} (h : l.Nodup) : l.eraseDups = l := by
  induction l with
  | nil => rfl
  | cons a rest ih =>
    rw [List.nodup_cons] at h
    have others : (rest.filter fun z => !z == a) = rest := List.filter_eq_self.2 fun z mem => by
      have : z ≠ a := fun e => h.1 (e ▸ mem)
      simpa using this
    rw [List.eraseDups_cons, others, ih h.2]

/-! ### The order -/

theorem mem_allTakers (y : BoundaryTaker) : y ∈ BoundaryTaker.all := by
  cases y with
  | line l => fin_cases l <;> decide
  | _ => decide

theorem boundaryOrder_eq (order : List BoundaryTaker) : boundaryOrder order = (order ++ BoundaryTaker.all).eraseDups := by
  have left : BoundaryTaker.all.filter (fun b => decide (b ∉ order)) = BoundaryTaker.all.removeAll order := by
    unfold List.removeAll
    refine List.filter_congr fun b _ => ?_
    simp [decide_not]
  have once : (BoundaryTaker.all.removeAll order).Nodup := List.Nodup.filter _ (by decide)
  rw [boundaryOrder, List.eraseDups_append, left, eraseDups_of_nodup once]

theorem boundaryOrder_nodup (order : List BoundaryTaker) : (boundaryOrder order).Nodup := by
  rw [boundaryOrder_eq]
  exact nodup_eraseDups _

theorem mem_boundaryOrder (order : List BoundaryTaker) (y : BoundaryTaker) : y ∈ boundaryOrder order := by
  rw [boundaryOrder_eq, List.mem_eraseDups]
  exact List.mem_append_right _ (mem_allTakers y)

/-- The blocks that take the boundary before `y`. -/
def takersBefore (order : List BoundaryTaker) (y : BoundaryTaker) : List BoundaryTaker := (boundaryOrder order).takeWhile fun z => z != y

/-- The blocks that take the boundary after `y`. -/
def takersAfter (order : List BoundaryTaker) (y : BoundaryTaker) : List BoundaryTaker := ((boundaryOrder order).dropWhile fun z => z != y).tail

theorem takenBefore_iff (order : List BoundaryTaker) (x y : BoundaryTaker) : takenBefore order x y = true ↔ x ∈ takersBefore order y := by
  rw [takenBefore, List.contains_iff_mem, takersBefore, boundaryOrder_eq, mem_takeWhile_eraseDups]

theorem boundaryOrder_split (order : List BoundaryTaker) (y : BoundaryTaker) :
    boundaryOrder order = takersBefore order y ++ y :: takersAfter order y := by
  have rest : (boundaryOrder order).dropWhile (fun z => z != y) ≠ [] := fun none => by
    have := List.dropWhile_eq_nil_iff.1 none y (mem_boundaryOrder order y)
    simp at this
  have head : ((boundaryOrder order).dropWhile fun z => z != y).head rest = y := by
    simpa using List.head_dropWhile_not (fun z => z != y) rest
  have from_y : (boundaryOrder order).dropWhile (fun z => z != y) = y :: takersAfter order y := by
    conv_lhs => rw [← List.cons_head_tail rest]
    rw [head]
    rfl
  conv_lhs => rw [← List.takeWhile_append_dropWhile (p := fun z => z != y) (l := boundaryOrder order), from_y]
  rfl

theorem not_mem_takersBefore (order : List BoundaryTaker) (y : BoundaryTaker) : y ∉ takersBefore order y := fun mem => by
  have := List.mem_takeWhile_imp mem
  simp at this

theorem not_mem_takersAfter (order : List BoundaryTaker) (y : BoundaryTaker) : y ∉ takersAfter order y := by
  have once := boundaryOrder_nodup order
  rw [boundaryOrder_split order y] at once
  exact (List.nodup_cons.1 (List.nodup_append.1 once).2.1).1

/-- Another block takes the boundary before `y` or after it. -/
theorem mem_takersAfter {order : List BoundaryTaker} {x y : BoundaryTaker} (other : x ≠ y) (h : x ∉ takersBefore order y) :
    x ∈ takersAfter order y := by
  have mem := mem_boundaryOrder order x
  rw [boundaryOrder_split order y, List.mem_append, List.mem_cons] at mem
  exact (mem.resolve_left h).resolve_left other

end Sys2Proof.Machine
end

section
/-! SUPPORT. What each block changes as it takes a frame boundary (R104). -/

namespace Sys2Proof.Machine

/-- `s` with what the block `y` changes at a boundary taken from `t`; of the status writer the mixer changes a snapshot's job and the
order of the jobs. -/
def withTaken (y : BoundaryTaker) (s t : Block) : Block :=
  match y with
  | .mixer =>
    { s with
      mixer := t.mixer, store := t.store, outputs := t.outputs, tables := t.tables, results := t.results, port := t.port
      status := { s.status with order := t.status.order, snapshot := t.status.snapshot } }
  | .loader => { s with loader := t.loader, playbacks := t.playbacks, port := t.port }
  | .line l => { s with lines := setAt s.lines l (lineOf t l), results := t.results, port := t.port }
  | .scanner => { s with scanner := t.scanner, port := t.port }
  | .status => { s with status := t.status, port := t.port }
  | .results => { s with results := t.results, port := t.port }

/-- Nothing changes but what the block `y` changes at a boundary. -/
def ChangesAs (y : BoundaryTaker) (s t : Block) : Prop := t = withTaken y s t

namespace ChangesAs

theorem trans {y : BoundaryTaker} {s t u : Block} (h : ChangesAs y s t) (k : ChangesAs y t u) : ChangesAs y s u := by
  have kept : withTaken y t u = withTaken y (withTaken y s t) u := congrArg (withTaken y · u) h
  have once : withTaken y (withTaken y s t) u = withTaken y s u := by
    cases y with
    | line l => simp only [withTaken, setAt_setAt]
    | _ => rfl
  exact Eq.trans k (kept.trans once)

/-! ### The mixer -/

theorem of_tabulates {s t : Block} (h : Tabulates s t) : ChangesAs .mixer s t := by
  unfold ChangesAs
  rw [h.rest]
  rfl

theorem joinStatus (j : StatusJob) (s : Block) : ChangesAs .mixer s (joinStatus j s) := by
  have joined : ChangesAs .mixer s (modStatus (fun w => { w with order := w.order ++ [j] }) s) := rfl
  unfold Machine.joinStatus
  dsimp only
  split
  · exact joined.trans (of_tabulates (askStatus_posts _).tabulates)
  · exact joined

theorem copySnapshot (s : Block) : ChangesAs .mixer s (copySnapshot s) := by
  unfold Machine.copySnapshot
  split
  · refine .trans ?_ (joinStatus _ _)
    rfl
  · rfl

theorem swap (s : Block) : ChangesAs .mixer s (swap s) := by
  refine .trans ?_ (copySnapshot _)
  rfl

theorem passStarts (s : Block) : ChangesAs .mixer s (passStarts s) := by
  have incomplete : ChangesAs .mixer s (modStore (fun f => { f with complete := false }) s) := rfl
  have latched : ∀ (latch : PassLatch) (t : Block), ChangesAs .mixer t (modMixer (fun m => { m with pass := some latch }) t) := fun _ _ => rfl
  exact (incomplete.trans (of_tabulates (Tabulates.installTables _))).trans (latched _ _)

theorem mixerBoundary (s : Block) : ChangesAs .mixer s (mixerBoundary s) := by
  have swapped : ChangesAs .mixer s (if swaps s then Machine.swap s else s) := by
    split
    · exact swap s
    · rfl
  unfold Machine.mixerBoundary
  split
  · split <;> rfl
  · dsimp only
    split
    · exact swapped.trans (passStarts _)
    · exact swapped

/-! ### The lines -/

theorem line_iff {l : Fin 4} {s t : Block} :
    ChangesAs (.line l) s t ↔ t = { s with lines := setAt s.lines l (lineOf t l), results := t.results, port := t.port } := Iff.rfl

theorem of_posts {l : Fin 4} {s t : Block} (h : Posts s t) : ChangesAs (.line l) s t := by
  have same : setAt s.lines l (lineOf (withPosts s t) l) = s.lines := setAt_getAt ..
  rw [line_iff, h.rest, same]
  rfl

theorem modLine (l : Fin 4) (f : Line → Line) (s : Block) : ChangesAs (.line l) s (modLine l f s) := by
  rw [line_iff, lineOf_modLine_ite, if_pos rfl]
  rfl

theorem installLine (l : Fin 4) (s : Block) : ChangesAs (.line l) s (installLine l s) := by
  unfold Machine.installLine
  dsimp only
  split
  · exact of_posts (.refl s)
  · refine .trans (.trans ?_ (modLine ..)) (of_posts (Posts.complete ..))
    split
    · exact of_posts (.refl s)
    · exact of_posts (Posts.endQueries ..)

theorem startFrame (l : Fin 4) (s : Block) : ChangesAs (.line l) s (startFrame l s) := by
  unfold Machine.startFrame
  split
  · exact modLine ..
  · exact of_posts (.refl s)

/-! ### The scanner, the status writer and the result writer -/

theorem modScanner (f : Scanner → Scanner) (s : Block) : ChangesAs .scanner s (modScanner f s) := rfl

theorem modStatus (f : StatusWriter → StatusWriter) (s : Block) : ChangesAs .status s (modStatus f s) := rfl

theorem ask_scanner (k : TenureKind) (s : Block) : ChangesAs .scanner s (ask .scanner k s) := by
  unfold ChangesAs
  rw [ask_eq]
  rfl

theorem ask_status (k : TenureKind) (s : Block) : ChangesAs .status s (ask .status k s) := by
  unfold ChangesAs
  rw [ask_eq]
  rfl

theorem startScan (s : Block) : ChangesAs .scanner s (startScan s) := .trans (modScanner _ s) (ask_scanner ..)

theorem scanDue (s : Block) : ChangesAs .scanner s (scanDue s) := by
  unfold Machine.scanDue
  split
  · exact startScan s
  · exact modScanner _ s

theorem countScan (installed : Bool) (s : Block) : ChangesAs .scanner s (countScan installed s) := by
  unfold Machine.countScan
  dsimp only
  split
  · exact .trans (modScanner _ s) (scanDue _)
  · exact modScanner _ s

theorem askStatus (s : Block) : ChangesAs .status s (askStatus s) := by
  unfold Machine.askStatus
  split
  · exact ask_status ..
  · rfl

theorem joins (j : StatusJob) (s : Block) : ChangesAs .status s (Machine.joinStatus j s) := by
  unfold Machine.joinStatus
  dsimp only
  split
  · exact .trans (modStatus _ s) (askStatus _)
  · exact modStatus _ s

theorem copies (s : Block) : ChangesAs .status s (Machine.copySnapshot s) := by
  unfold Machine.copySnapshot
  split
  · exact .trans (modStatus _ s) (joins _ _)
  · rfl

theorem beginPage (s : Block) : ChangesAs .status s (beginPage s) := .trans (modStatus _ s) (joins _ _)

theorem statusDue (s : Block) : ChangesAs .status s (statusDue s) := by
  unfold Machine.statusDue
  split
  · rfl
  · split
    · exact modStatus _ s
    · exact beginPage s

theorem countStatus (installed : Bool) (s : Block) : ChangesAs .status s (countStatus installed s) := by
  unfold Machine.countStatus
  dsimp only
  split
  · exact .trans (modStatus _ s) (statusDue _)
  · exact modStatus _ s

theorem resultsBoundary (s : Block) : ChangesAs .results s (resultsBoundary s) := by
  unfold Machine.resultsBoundary
  split
  · refine .trans ?_ (t := setWriter .idle s) ?_
    · rfl
    · exact (Posts.startWriter _).rest
  · rfl

/-- A block that takes a boundary changes what it owns. -/
theorem takeBoundary (installed : Bool) (y : BoundaryTaker) (s : Block) : ChangesAs y s (takeBoundary installed y s) := by
  cases y with
  | mixer => exact mixerBoundary s
  | loader => exact takeLoadJob_rest { s with loader := { s.loader with queue := s.loader.queue.map fun j => { j with deferred := false } } }
  | line l => exact .trans (installLine l s) (startFrame l _)
  | scanner => exact countScan installed s
  | status => exact countStatus installed s
  | results => exact resultsBoundary s

end ChangesAs

end Sys2Proof.Machine
end

section
/-! SUPPORT. The part as a block finds it when it takes a frame boundary, and what the blocks before and after leave of it (R104,
notes/assumptions/5.md). -/

namespace Sys2Proof.Machine

theorem foldl_keeps_of {α γ : Type} (g : Block → γ) {f : Block → α → Block} {xs : List α} (h : ∀ x ∈ xs, ∀ t, g (f t x) = g t)
    (s : Block) : g (xs.foldl f s) = g s := by
  induction xs generalizing s with
  | nil => rfl
  | cons x rest ih => rw [List.foldl_cons, ih fun y hy => h y (List.mem_cons_of_mem _ hy), h x List.mem_cons_self]

/-- The blocks `ys` take the boundary that falls in the part `b`, one after another. -/
def takeAll (b : Block) (ys : List BoundaryTaker) (s : Block) : Block := ys.foldl (fun t z => takeBoundary b.time.pending.isSome z t) s

/-- The part as the block `y` finds it at the boundary that falls in the part `b`. -/
def foundBy (y : BoundaryTaker) (order : List BoundaryTaker) (b : Block) : Block := takeAll b (takersBefore order y) (frameExpires b)

/-- The part when the block `y` has taken that boundary. -/
def leftBy (y : BoundaryTaker) (order : List BoundaryTaker) (b : Block) : Block :=
  takeBoundary b.time.pending.isSome y (foundBy y order b)

theorem frameBoundary_eq (y : BoundaryTaker) (order : List BoundaryTaker) (b : Block) :
    frameBoundary order b = takeAll b (takersAfter order y) (leftBy y order b) := by
  rw [frameBoundary, boundaryOrder_split order y, List.foldl_append]
  rfl

/-! ### What no block changes, and what one block alone changes -/

/-- What no block changes stays. -/
theorem takeAll_keeps {γ : Type} {g : Block → γ} (h : ∀ i z s, g (takeBoundary i z s) = g s) (b : Block) (ys : List BoundaryTaker)
    (s : Block) : g (takeAll b ys s) = g s := foldl_keeps g _ (fun t z => h _ z t) ys s

theorem foundBy_keeps {γ : Type} {g : Block → γ} (h : ∀ i z s, g (takeBoundary i z s) = g s) (y : BoundaryTaker)
    (order : List BoundaryTaker) (b : Block) : g (foundBy y order b) = g (frameExpires b) := takeAll_keeps h ..

/-- The block `y` alone changes the value `g`. -/
def OwnedBy {γ : Type} (y : BoundaryTaker) (g : Block → γ) : Prop := ∀ i z s, z ≠ y → g (takeBoundary i z s) = g s

theorem takeAll_owned {γ : Type} {y : BoundaryTaker} {g : Block → γ} (h : OwnedBy y g) {ys : List BoundaryTaker} (others : y ∉ ys)
    (b s : Block) : g (takeAll b ys s) = g s :=
  foldl_keeps_of g (fun z mem t => h _ z t fun e => others (e ▸ mem)) s

theorem foundBy_owner {γ : Type} {y : BoundaryTaker} {g : Block → γ} (h : OwnedBy y g) (order : List BoundaryTaker) (b : Block) :
    g (foundBy y order b) = g (frameExpires b) := takeAll_owned h (not_mem_takersBefore order y) ..

theorem frameBoundary_owned {γ : Type} {y : BoundaryTaker} {g : Block → γ} (h : OwnedBy y g) (order : List BoundaryTaker) (b : Block) :
    g (frameBoundary order b) = g (leftBy y order b) := by
  rw [frameBoundary_eq y]
  exact takeAll_owned h (not_mem_takersAfter order y) ..

/-- Another block finds what `y` owns as `y` has left it, when `y` comes before, and as it was otherwise. -/
theorem foundBy_other {γ : Type} {x y : BoundaryTaker} {g : Block → γ} (h : OwnedBy y g) (other : x ≠ y) (order : List BoundaryTaker)
    (b : Block) : g (foundBy x order b) = if takenBefore order y x then g (frameBoundary order b) else g (frameExpires b) := by
  split
  · rename_i before
    have mem := (takenBefore_iff ..).1 before
    have once := boundaryOrder_nodup order
    rw [boundaryOrder_split order x] at once
    have late : y ∉ takersAfter order x := fun after =>
      (List.nodup_append.1 once).2.2 y mem y (List.mem_cons_of_mem _ after) rfl
    rw [frameBoundary_eq x, takeAll_owned h late, leftBy, h _ _ _ other]
  · rename_i after
    exact takeAll_owned h (fun mem => after ((takenBefore_iff ..).2 mem)) ..

/-! ### The owners -/

theorem scanner_owned : OwnedBy .scanner Block.scanner := fun i z s other => by
  rw [ChangesAs.takeBoundary i z s]
  cases z with
  | scanner => exact absurd rfl other
  | _ => rfl

theorem loader_owned : OwnedBy .loader Block.loader := fun i z s other => by
  rw [ChangesAs.takeBoundary i z s]
  cases z with
  | loader => exact absurd rfl other
  | _ => rfl

theorem playbacks_owned : OwnedBy .loader Block.playbacks := fun i z s other => by
  rw [ChangesAs.takeBoundary i z s]
  cases z with
  | loader => exact absurd rfl other
  | _ => rfl

theorem mixer_owned : OwnedBy .mixer Block.mixer := fun i z s other => by
  rw [ChangesAs.takeBoundary i z s]
  cases z with
  | mixer => exact absurd rfl other
  | _ => rfl

theorem tables_owned : OwnedBy .mixer Block.tables := fun i z s other => by
  rw [ChangesAs.takeBoundary i z s]
  cases z with
  | mixer => exact absurd rfl other
  | _ => rfl

theorem line_owned (l : Fin 4) : OwnedBy (.line l) (lineOf · l) := fun i z s other => by
  beta_reduce
  rw [ChangesAs.takeBoundary i z s]
  cases z with
  | line m => exact getAt_setAt_ne _ _ _ _ fun e => other (e ▸ rfl)
  | _ => rfl

theorem lineOf_takeBoundary {l : Fin 4} {y : BoundaryTaker} (other : y ≠ .line l) (i : Bool) (s : Block) :
    lineOf (takeBoundary i y s) l = lineOf s l := line_owned l i y s other

/-- The status writer without a snapshot's job and the order of the jobs. -/
def pageSide (s : Block) : StatusWriter := { s.status with order := [], snapshot := none }

theorem pageSide_owned : OwnedBy .status pageSide := fun i z s other => by
  rw [ChangesAs.takeBoundary i z s]
  cases z with
  | status => exact absurd rfl other
  | _ => rfl

/-! ### What no block changes -/

theorem takeBoundary_anchor (i : Bool) (z : BoundaryTaker) (s : Block) : (takeBoundary i z s).anchor = s.anchor := by
  rw [ChangesAs.takeBoundary i z s]
  cases z <;> rfl

theorem takeBoundary_triggers (i : Bool) (z : BoundaryTaker) (s : Block) : (takeBoundary i z s).triggers = s.triggers := by
  rw [ChangesAs.takeBoundary i z s]
  cases z <;> rfl

theorem takeBoundary_superseded (i : Bool) (z : BoundaryTaker) (s : Block) : (takeBoundary i z s).superseded = s.superseded := by
  rw [ChangesAs.takeBoundary i z s]
  cases z <;> rfl

/-! ### The expiry at the time base (R104) -/

/-- The time base after an expiry. -/
def expiredTime (x : TimeBase) : TimeBase :=
  let values := (x.pending.map Prod.fst).getD x.inForce
  { x with inForce := values, pending := none, countdown := values.period, frames := x.frames + 1 }

theorem frameExpires_eq (b : Block) :
    frameExpires b = { b with time := expiredTime b.time, results := (frameExpires b).results, port := (frameExpires b).port } := by
  have counted : ∀ t u : Block, t = { u with results := t.results, port := t.port } →
      modTime (fun x => { x with countdown := x.inForce.period, frames := x.frames + 1 }) t
        = { u with
            time := { u.time with countdown := u.time.inForce.period, frames := u.time.frames + 1 }
            results := t.results, port := t.port } := fun t u h => by
    conv_lhs => rw [h]
    rfl
  unfold frameExpires installFrame
  split
  · rename_i v owner pending
    rw [counted _ _ (complete_eq ..)]
    simp only [modTime, expiredTime, pending]
    rfl
  · rename_i pending
    rw [counted b b rfl]
    simp only [expiredTime, pending]
    rfl

end Sys2Proof.Machine
end

section
/-! SUPPORT. Whose requests a block makes at the port as it takes a frame boundary, and that every other request and completion stays
(R104, R176, R188). -/

namespace Sys2Proof.Machine

/-- From `s` to `t` only the clients `cs` ask at the port, and an idle result writer: completions join the result queue, a busy result
writer goes on, and the requests of the other clients stand. -/
structure Moves (cs : List Client) (s t : Block) : Prop where
  queue : s.results.queue <+: t.results.queue
  writer : .results ∉ cs → s.results.writer ≠ .idle → t.results.writer = s.results.writer
  stands : ∀ c k, c ∉ cs → (c = .results → s.results.writer ≠ .idle) → Stands c k s.port → Stands c k t.port

namespace Moves

theorem of_same {cs : List Client} {s t : Block} (results : t.results = s.results) (port : t.port = s.port) : Moves cs s t :=
  ⟨by rw [results], fun _ _ => by rw [results], fun _ _ _ _ h => port ▸ h⟩

theorem trans {cs : List Client} {s t u : Block} (h : Moves cs s t) (k : Moves cs t u) : Moves cs s u := by
  refine ⟨h.queue.trans k.queue, fun other busy => ?_, fun c kind other busy there => ?_⟩
  · have first := h.writer other busy
    rw [k.writer other (first ▸ busy), first]
  · refine k.stands c kind other (fun e => ?_) (h.stands c kind other busy there)
    subst e
    rw [h.writer other (busy rfl)]
    exact busy rfl

theorem mono {cs ds : List Client} {s t : Block} (h : Moves cs s t) (sub : cs ⊆ ds) : Moves ds s t :=
  ⟨h.queue, fun other => h.writer fun mem => other (sub mem), fun c k other => h.stands c k fun mem => other (sub mem)⟩

theorem foldl {α : Type} {cs : List Client} {f : Block → α → Block} {xs : List α} (h : ∀ x ∈ xs, ∀ t, Moves cs t (f t x)) (s : Block) :
    Moves cs s (xs.foldl f s) := by
  induction xs generalizing s with
  | nil => exact of_same rfl rfl
  | cons x rest ih => exact (h x List.mem_cons_self s).trans (ih (fun y mem => h y (List.mem_cons_of_mem _ mem)) _)

theorem ask {cs : List Client} {c : Client} (mem : c ∈ cs) (k : TenureKind) (s : Block) : Moves cs s (ask c k s) :=
  ⟨by rw [ask_results], fun _ _ => by rw [ask_results], fun _ _ other _ there => there.ask fun e => other (e ▸ mem)⟩

theorem complete (cs : List Client) (i : Fin 32) (code : ResultCode) (v1 v2 v3 : Word) (s : Block) :
    Moves cs s (complete i code v1 v2 v3 s) := by
  have goesOn : s.results.writer ≠ .idle → writerBegins s = false := fun busy => by simp [writerBegins, busy]
  refine ⟨?_, fun _ busy => ?_, fun c k _ busy there => ?_⟩
  · rw [complete_results]
    split
    · split
      · exact List.prefix_rfl
      · exact List.prefix_append ..
    · exact List.prefix_rfl
  · rw [complete_results, goesOn busy]
    split
    · split <;> rfl
    · rfl
  · rw [complete_port]
    split
    · rename_i begins
      rw [Bool.and_eq_true] at begins
      refine there.ask fun e => ?_
      rw [goesOn (busy e)] at begins
      exact absurd begins.2 Bool.false_ne_true
    · exact there

theorem startWriter (s : Block) : Moves [.results] s (startWriter s) := by
  unfold Machine.startWriter
  split
  · split
    · have values : Moves [.results] s { s with results := { s.results with writer := .values } } :=
        ⟨List.prefix_rfl, fun other => absurd (List.mem_singleton_self _) other, fun _ _ _ _ there => there⟩
      exact values.trans (ask (List.mem_singleton_self _) _ _)
    · exact of_same rfl rfl
  · exact of_same rfl rfl

/-! ### The mixer -/

theorem endShadow (cs : List Client) (x : Shadow) (code : ResultCode) (s : Block) : Moves cs s (endShadow x code s) := by
  cases x with
  | ready owner points => exact complete ..
  | filling points => exact of_same rfl rfl
  | empty => exact of_same rfl rfl

theorem setStaging (cs : List Client) (x : Staging) (s : Block) : Moves cs s (setStaging x s) := of_same rfl rfl

theorem setShadow (cs : List Client) (k : Fin 7) (x : Shadow) (s : Block) : Moves cs s (setShadow k x s) := of_same rfl rfl

theorem setMixer (cs : List Client) (m : Mixer) (s : Block) : Moves cs s { s with mixer := m } := of_same rfl rfl

theorem beginTable {cs : List Client} (mem : .tables ∈ cs) (j : TableJob) (s : Block) : Moves cs s (beginTable j s) := by
  unfold Machine.beginTable
  split
  · exact .trans (setStaging cs _ s) (ask mem ..)
  · exact .trans (.trans (endShadow cs _ _ s) (setShadow ..)) (ask mem ..)

theorem takeTableJob {cs : List Client} (mem : .tables ∈ cs) (s : Block) : Moves cs s (takeTableJob s) := by
  have taken : ∀ x : TableLoader, Moves cs s { s with tables := x } := fun _ => of_same rfl rfl
  unfold Machine.takeTableJob
  split
  · exact of_same rfl rfl
  · split
    · split
      · exact (taken _).trans (beginTable mem ..)
      · exact of_same rfl rfl
    · exact of_same rfl rfl

theorem installPatch (cs : List Client) (s : Block) : Moves cs s (installPatch s) := by
  unfold Machine.installPatch
  split
  · exact .trans (.trans (setMixer cs _ s) (setStaging ..)) (complete ..)
  · exact of_same rfl rfl

theorem installCurve (cs : List Client) (k : Fin 7) (s : Block) : Moves cs s (installCurve k s) := by
  unfold Machine.installCurve
  split
  · exact .trans (.trans (setMixer cs _ s) (setShadow ..)) (complete ..)
  · exact of_same rfl rfl

theorem passStarts {cs : List Client} (mem : .tables ∈ cs) (s : Block) : Moves cs s (passStarts s) := by
  have incomplete : Moves cs s (modStore (fun f => { f with complete := false }) s) := of_same rfl rfl
  have latched : ∀ (latch : PassLatch) (t : Block), Moves cs t (modMixer (fun m => { m with pass := some latch }) t) :=
    fun _ _ => of_same rfl rfl
  refine .trans (incomplete.trans ?_) (latched _ _)
  exact .trans (.trans (installPatch cs _) (foldl (fun k _ t => installCurve cs k t) _)) (takeTableJob mem _)

theorem askStatus {cs : List Client} (mem : .status ∈ cs) (s : Block) : Moves cs s (askStatus s) := by
  unfold Machine.askStatus
  split
  · exact ask mem ..
  · exact of_same rfl rfl

/-- A job that joins the order asks when it is the first. -/
theorem joinStatus {cs : List Client} {j : StatusJob} {s : Block} (h : s.status.order = [] → .status ∈ cs) :
    Moves cs s (joinStatus j s) := by
  have joined : Moves cs s (modStatus (fun w => { w with order := w.order ++ [j] }) s) := of_same rfl rfl
  unfold Machine.joinStatus
  dsimp only
  split
  · rename_i first
    exact joined.trans (askStatus (h (List.isEmpty_iff.1 first)) _)
  · exact joined

theorem copySnapshot {cs : List Client} {s : Block} (h : s.status.order = [] → .status ∈ cs) : Moves cs s (copySnapshot s) := by
  have modStatus : ∀ f : StatusWriter → StatusWriter, Moves cs s (modStatus f s) := fun _ => of_same rfl rfl
  unfold Machine.copySnapshot
  split
  · exact .trans (modStatus _) (joinStatus h)
  · exact of_same rfl rfl

theorem swap {cs : List Client} {s : Block} (h : s.status.order = [] → .status ∈ cs) : Moves cs s (swap s) := by
  have moved : Moves cs s (setLoadFlags (modStore (fun f => { f with aPresented := !f.aPresented, complete := false }) s)) :=
    of_same rfl rfl
  exact moved.trans (copySnapshot h)

/-- The mixer asks for the table loader, and for the status writer when no status job is there. -/
theorem mixerBoundary {cs : List Client} {s : Block} (mem : .tables ∈ cs) (h : s.status.order = [] → .status ∈ cs) :
    Moves cs s (mixerBoundary s) := by
  have swapped : Moves cs s (if swaps s then Machine.swap s else s) := by
    split
    · exact swap h
    · exact of_same rfl rfl
  unfold Machine.mixerBoundary
  split
  · split <;> exact of_same rfl rfl
  · dsimp only
    split
    · exact swapped.trans (passStarts mem _)
    · exact swapped

/-! ### The others -/

theorem takeLoadJob (s : Block) : Moves [.loader] s (takeLoadJob s) := by
  have taken : ∀ (x : Loader) (ps : Vector Playback 8), Moves [.loader] s { s with loader := x, playbacks := ps } :=
    fun _ _ => of_same rfl rfl
  unfold Machine.takeLoadJob
  split
  · exact of_same rfl rfl
  · split
    · exact (taken _ _).trans (ask (List.mem_singleton_self _) ..)
    · exact of_same rfl rfl

theorem loaderBoundary (s : Block) : Moves [.loader] s (loaderBoundary s) := by
  have loaded : ∀ x : Loader, Moves [.loader] s { s with loader := x } := fun _ => of_same rfl rfl
  exact (loaded _).trans (takeLoadJob _)

theorem lineBoundary (l : Fin 4) (s : Block) : Moves [] s (lineBoundary l s) := by
  have modLine : ∀ (f : Line → Line) (t : Block), Moves [] t (modLine l f t) := fun _ _ => of_same rfl rfl
  have installs : Moves [] s (installLine l s) := by
    unfold installLine
    dsimp only
    split
    · exact of_same rfl rfl
    · refine .trans (.trans ?_ (modLine _ _)) (complete ..)
      split
      · exact of_same rfl rfl
      · exact foldl (fun q _ t => complete [] q.slot .cancelled 0 0 0 t) s
  have starts : ∀ t, Moves [] t (startFrame l t) := fun t => by
    unfold startFrame
    split
    · exact modLine ..
    · exact of_same rfl rfl
  exact installs.trans (starts _)

theorem countScan (installed : Bool) (s : Block) : Moves [.scanner] s (countScan installed s) := by
  have modScanner : ∀ (f : Scanner → Scanner) (t : Block), Moves [.scanner] t (modScanner f t) := fun _ _ => of_same rfl rfl
  have due : ∀ t, Moves [.scanner] t (scanDue t) := fun t => by
    unfold scanDue
    split
    · exact .trans (modScanner ..) (ask (List.mem_singleton_self _) ..)
    · exact modScanner ..
  unfold Machine.countScan
  dsimp only
  split
  · exact .trans (modScanner _ _) (due _)
  · exact modScanner ..

theorem countStatus (installed : Bool) (s : Block) : Moves [.status] s (countStatus installed s) := by
  have modStatus : ∀ (f : StatusWriter → StatusWriter) (t : Block), Moves [.status] t (modStatus f t) := fun _ _ => of_same rfl rfl
  have due : ∀ t, Moves [.status] t (statusDue t) := fun t => by
    unfold statusDue
    split
    · exact of_same rfl rfl
    · split
      · exact modStatus ..
      · exact .trans (modStatus _ _) (joinStatus fun _ => List.mem_singleton_self _)
  unfold Machine.countStatus
  dsimp only
  split
  · exact .trans (modStatus _ _) (due _)
  · exact modStatus ..

theorem resultsBoundary (s : Block) : Moves [.results] s (resultsBoundary s) := by
  unfold Machine.resultsBoundary
  split
  · have idle : Moves [.results] s (setWriter .idle s) :=
      ⟨List.prefix_rfl, fun other => absurd (List.mem_singleton_self _) other, fun _ _ _ _ there => there⟩
    exact idle.trans (startWriter _)
  · exact of_same rfl rfl

end Moves

/-! ### A request that stands through the boundary -/

/-- The client for which a block alone asks at a boundary. -/
def asksOf : BoundaryTaker → List Client
  | .mixer => [.tables, .status]
  | .loader => [.loader]
  | .line _ => []
  | .scanner => [.scanner]
  | .status => [.status]
  | .results => [.results]

theorem takeBoundary_moves (i : Bool) (z : BoundaryTaker) (s : Block) : Moves (asksOf z) s (takeBoundary i z s) := by
  cases z with
  | mixer => exact Moves.mixerBoundary (by decide) fun _ => by decide
  | loader => exact Moves.loaderBoundary s
  | line l => exact Moves.lineBoundary l s
  | scanner => exact Moves.countScan i s
  | status => exact Moves.countStatus i s
  | results => exact Moves.resultsBoundary s

theorem asks_scanner {y : BoundaryTaker} (h : Client.scanner ∈ asksOf y) : y = .scanner := by
  cases y with
  | scanner => rfl
  | line l => exact nomatch h
  | _ => exact absurd h (by decide)

theorem asks_loader {y : BoundaryTaker} (h : Client.loader ∈ asksOf y) : y = .loader := by
  cases y with
  | loader => rfl
  | line l => exact nomatch h
  | _ => exact absurd h (by decide)

theorem asks_results {y : BoundaryTaker} (h : Client.results ∈ asksOf y) : y = .results := by
  cases y with
  | results => rfl
  | line l => exact nomatch h
  | _ => exact absurd h (by decide)

theorem asks_status {y : BoundaryTaker} (h : Client.status ∈ asksOf y) : y = .status ∨ y = .mixer := by
  cases y with
  | status => exact .inl rfl
  | mixer => exact .inr rfl
  | line l => exact nomatch h
  | _ => exact absurd h (by decide)

/-- What blocks that do not ask for client `c` leave of its request. -/
theorem takeAll_moves {b : Block} {cs : List Client} {ys : List BoundaryTaker} (h : ∀ y ∈ ys, asksOf y ⊆ cs) (s : Block) :
    Moves cs s (takeAll b ys s) := Moves.foldl (fun y mem t => (takeBoundary_moves _ y t).mono (h y mem)) s

theorem takeAll_stands {c : Client} {k : TenureKind} {b : Block} {ys : List BoundaryTaker} {s : Block} (h : ∀ y ∈ ys, c ∉ asksOf y)
    (client : c ≠ .results) (there : Stands c k s.port) : Stands c k (takeAll b ys s).port := by
  induction ys generalizing s with
  | nil => exact there
  | cons y rest ih =>
    exact ih (fun z mem => h z (List.mem_cons_of_mem _ mem))
      ((takeBoundary_moves _ y s).stands c k (h y List.mem_cons_self) (fun e => absurd e client) there)

end Sys2Proof.Machine
end

section
/-! SUPPORT. What a frame boundary makes of the time base, the request scanner, the cue loader and the result writer (R47, R48, R104, R105,
R171, R176). -/

namespace Sys2Proof.Machine

variable (order : List BoundaryTaker) (b : Block)

/-! ### What every block finds -/

theorem frameBoundary_time : (frameBoundary order b).time = expiredTime b.time := by
  have kept := takeAll_keeps (g := Block.time) takeBoundary_time b (boundaryOrder order) (frameExpires b)
  exact kept.trans (by rw [frameExpires_eq])

theorem foundBy_time (y : BoundaryTaker) : (foundBy y order b).time = expiredTime b.time := by
  rw [foundBy_keeps (g := Block.time) takeBoundary_time, frameExpires_eq]

theorem foundBy_engine (y : BoundaryTaker) : (foundBy y order b).engine = b.engine := by
  rw [foundBy_keeps (g := Block.engine) takeBoundary_engine, frameExpires_eq]

theorem foundBy_control (y : BoundaryTaker) : (foundBy y order b).control = b.control := by
  rw [foundBy_keeps (g := Block.control) takeBoundary_control, frameExpires_eq]

theorem foundBy_anchor (y : BoundaryTaker) : (foundBy y order b).anchor = b.anchor := by
  rw [foundBy_keeps (g := Block.anchor) takeBoundary_anchor, frameExpires_eq]

/-! ### The scanner (R105, R171) -/

theorem countScan_waits {i : Bool} {s : Block} (h : ¬(s.engine.state = .running ∧ s.scanner.countdown = 1)) :
    countScan i s = { s with scanner := { s.scanner with
      countdown := if i then s.time.inForce.scan
        else if s.engine.state = .running then s.scanner.countdown - 1 else s.scanner.countdown } } := by
  have waits : (decide (s.engine.state = .running) && decide (s.scanner.countdown = 1)) = false := by
    simpa only [Bool.and_eq_false_iff, decide_eq_false_iff_not, Classical.not_and_iff_not_or_not] using h
  unfold countScan
  dsimp only
  rw [waits]
  rfl

theorem countScan_due {i : Bool} {s : Block} (runs : s.engine.state = .running) (last : s.scanner.countdown = 1) :
    countScan i s = scanDue (modScanner (fun x => { x with countdown := s.time.inForce.scan }) s) := by
  have due : (decide (s.engine.state = .running) && decide (s.scanner.countdown = 1)) = true := by simp [runs, last]
  unfold countScan
  dsimp only
  rw [due]
  rfl

theorem countScan_starts {i : Bool} {s : Block} (runs : s.engine.state = .running) (last : s.scanner.countdown = 1)
    (idle : s.scanner.step = .idle) :
    countScan i s = ask .scanner (.read s.anchor.postTable (min 16 s.anchor.slots))
      { s with scanner := { s.scanner with countdown := s.time.inForce.scan, step := .row [] } } := by
  rw [countScan_due runs last, scanDue]
  exact if_pos idle

theorem countScan_pends {i : Bool} {s : Block} (runs : s.engine.state = .running) (last : s.scanner.countdown = 1)
    (busy : s.scanner.step ≠ .idle) :
    countScan i s = { s with scanner := { s.scanner with countdown := s.time.inForce.scan, scanPending := true } } := by
  rw [countScan_due runs last, scanDue]
  exact if_neg busy

/-- The scanner finds itself as the boundary began. -/
theorem foundBy_scanner : (foundBy .scanner order b).scanner = b.scanner := by
  rw [foundBy_owner scanner_owned, frameExpires_eq]

theorem leftBy_scanner : leftBy .scanner order b = countScan b.time.pending.isSome (foundBy .scanner order b) := rfl

/-- The scanner after a boundary: it counts, and is loaded anew at an install or when a scan falls due. -/
theorem scanner_waits (h : ¬(b.engine.state = .running ∧ b.scanner.countdown = 1)) :
    (frameBoundary order b).scanner = { b.scanner with
      countdown := if b.time.pending.isSome then (expiredTime b.time).inForce.scan
        else if b.engine.state = .running then b.scanner.countdown - 1 else b.scanner.countdown } := by
  rw [frameBoundary_owned scanner_owned, leftBy_scanner,
    countScan_waits (by rwa [foundBy_engine, foundBy_scanner])]
  dsimp only
  rw [foundBy_engine, foundBy_scanner, foundBy_time]

theorem scanner_starts (runs : b.engine.state = .running) (last : b.scanner.countdown = 1) (idle : b.scanner.step = .idle) :
    (frameBoundary order b).scanner = { b.scanner with countdown := (expiredTime b.time).inForce.scan, step := .row [] }
      ∧ Asks .scanner (.read b.anchor.postTable (min 16 b.anchor.slots)) (frameBoundary order b) := by
  have starts : leftBy .scanner order b = _ := countScan_starts (s := foundBy .scanner order b) (by rw [foundBy_engine]; exact runs)
    (by rw [foundBy_scanner]; exact last) (by rw [foundBy_scanner]; exact idle)
  rw [foundBy_scanner, foundBy_anchor, foundBy_time] at starts
  refine ⟨?_, Stands.asks ?_⟩
  · rw [frameBoundary_owned scanner_owned, starts, ask_scanner]
  · rw [frameBoundary_eq .scanner]
    refine takeAll_stands (fun y mem asks => not_mem_takersAfter order _ (asks_scanner asks ▸ mem)) (by decide) ?_
    rw [starts]
    exact stands_ask _ _ (by simp [foundBy_engine, runs])

theorem scanner_pends (runs : b.engine.state = .running) (last : b.scanner.countdown = 1) (busy : b.scanner.step ≠ .idle) :
    (frameBoundary order b).scanner = { b.scanner with countdown := (expiredTime b.time).inForce.scan, scanPending := true } := by
  rw [frameBoundary_owned scanner_owned, leftBy_scanner, countScan_pends (by rw [foundBy_engine]; exact runs)
    (by rw [foundBy_scanner]; exact last) (by rw [foundBy_scanner]; exact busy)]
  dsimp only
  rw [foundBy_scanner, foundBy_time]

/-! ### The cue loader (R47, R48) -/

/-- A load job no longer deferred. -/
def eligibleJob (j : LoadJob) : LoadJob := { j with deferred := false }

theorem foundBy_loader : (foundBy .loader order b).loader = b.loader := by rw [foundBy_owner loader_owned, frameExpires_eq]

theorem foundBy_playbacks : (foundBy .loader order b).playbacks = b.playbacks := by
  rw [foundBy_owner playbacks_owned, frameExpires_eq]

theorem leftBy_loader : leftBy .loader order b
    = takeLoadJob { foundBy .loader order b with loader := { b.loader with queue := b.loader.queue.map eligibleJob } } := by
  rw [← foundBy_loader order b]
  rfl

/-- No job is taken: the deferred marks alone are cleared. -/
theorem loader_stays (h : b.loader.current ≠ none ∨ b.loader.queue = [] ∨ b.engine.state = .halted) :
    (frameBoundary order b).loader = { b.loader with queue := b.loader.queue.map eligibleJob }
      ∧ (frameBoundary order b).playbacks = b.playbacks := by
  have stays : leftBy .loader order b
      = { foundBy .loader order b with loader := { b.loader with queue := b.loader.queue.map eligibleJob } } := by
    rw [leftBy_loader]
    rcases h with busy | empty | halted
    · exact takeLoadJob_busy (Option.isSome_iff_ne_none.2 busy)
    · exact takeLoadJob_waits fun j mem => by simp [empty] at mem
    · unfold takeLoadJob
      exact if_pos (by rw [← foundBy_engine order b .loader] at halted; exact halted)
  rw [frameBoundary_owned loader_owned, frameBoundary_owned playbacks_owned, stays]
  exact ⟨rfl, foundBy_playbacks ..⟩

/-- An IDLE loader takes the job at the head of its queue. -/
theorem loader_takes {j : LoadJob} {rest : List LoadJob} (idle : b.loader.current = none) (queue : b.loader.queue = j :: rest)
    (runs : b.engine.state ≠ .halted) :
    (frameBoundary order b).loader
        = { b.loader with queue := rest.map eligibleJob, current := some ⟨eligibleJob j, .lock, false, false, none, none⟩ }
      ∧ (frameBoundary order b).playbacks = setAt b.playbacks j.playback { playbackOf b j.playback with load := .reading }
      ∧ Asks .loader (.modify (b.anchor.banks[j.bank]?.getD 0) 0 2) (frameBoundary order b) := by
  have live : (foundBy .loader order b).engine.state ≠ .halted := by rwa [foundBy_engine]
  have takes := takeLoadJob_takes (j := eligibleJob j) (before := []) (after := rest.map eligibleJob)
    (s := { foundBy .loader order b with loader := { b.loader with queue := b.loader.queue.map eligibleJob } })
    live idle (by rw [queue]; rfl) (by simp) rfl
  rw [← leftBy_loader] at takes
  have found : playbackOf (foundBy .loader order b) j.playback = playbackOf b j.playback := by
    rw [playbackOf, foundBy_playbacks]
    rfl
  refine ⟨?_, ?_, Stands.asks ?_⟩
  · rw [frameBoundary_owned loader_owned, takes, ask_loader]
    rfl
  · rw [frameBoundary_owned playbacks_owned, takes, ask_playbacks, ← found, ← foundBy_playbacks order b]
    rfl
  · rw [frameBoundary_eq .loader]
    refine takeAll_stands (fun y mem asks => not_mem_takersAfter order _ (asks_loader asks ▸ mem)) (by decide) ?_
    rw [takes, ← foundBy_anchor order b .loader]
    exact stands_ask _ _ live

end Sys2Proof.Machine
end

section
/-! SUPPORT. The requests that end at a frame boundary, and the result that a waiting writer starts again (R104, R123, R175, R176). -/

namespace Sys2Proof.Machine

variable (order : List BoundaryTaker) (b : Block)

/-! ### The result writer (R176) -/

theorem frameExpires_moves : Moves [] b (frameExpires b) := by
  have timed : ∀ (f : TimeBase → TimeBase) (t : Block), Moves [] t (modTime f t) := fun _ _ => .of_same rfl rfl
  refine .trans ?_ (timed _ _)
  unfold installFrame
  split
  · exact .trans (timed _ _) (Moves.complete ..)
  · exact .of_same rfl rfl

/-- Every client but that of the result writer. -/
def otherClients : List Client := [.scanner, .loader, .tables, .talkback, .status]

theorem asksOf_others {y : BoundaryTaker} (h : y ≠ .results) : asksOf y ⊆ otherClients := by
  cases y with
  | results => exact absurd rfl h
  | line l => exact List.nil_subset _
  | _ => decide

theorem takeAll_others {ys : List BoundaryTaker} (h : .results ∉ ys) (s : Block) : Moves otherClients s (takeAll b ys s) :=
  takeAll_moves (fun _ mem => asksOf_others fun e => h (e ▸ mem)) s

/-- A writer that waits starts the head's result again. -/
theorem resultsBoundary_restarts {c : Completion} {rest : List Completion} {s : Block}
    (runs : s.engine.state = .running ∨ s.engine.state = .stopping) (waits : s.results.writer = .waiting)
    (queue : s.results.queue = c :: rest) :
    resultsBoundary s = ask .results (valuesBurst s.anchor c) { s with results := { s.results with writer := .values } } := by
  unfold resultsBoundary
  rw [if_pos waits]
  unfold startWriter setWriter
  dsimp only
  rw [queue]
  exact if_pos runs

theorem writer_restarts {c : Completion} {rest : List Completion} (runs : b.engine.state = .running ∨ b.engine.state = .stopping)
    (waits : b.results.writer = .waiting) (queue : b.results.queue = c :: rest) : WritesTheValuesOf c b (frameBoundary order b) := by
  have before : Moves otherClients b (foundBy .results order b) :=
    ((frameExpires_moves b).mono (List.nil_subset _)).trans (takeAll_others b (not_mem_takersBefore order _) _)
  have waiting : (foundBy .results order b).results.writer = .waiting := by
    rw [before.writer (by decide) (by rw [waits]; decide), waits]
  obtain ⟨more, found⟩ : ∃ more, (foundBy .results order b).results.queue = c :: more := by
    obtain ⟨more, split⟩ := before.queue
    exact ⟨rest ++ more, by rw [← split, queue, List.cons_append]⟩
  have restarts : leftBy .results order b = _ :=
    resultsBoundary_restarts (s := foundBy .results order b) (by rw [foundBy_engine]; exact runs) waiting found
  rw [foundBy_anchor] at restarts
  have after : Moves otherClients (leftBy .results order b) (frameBoundary order b) := by
    rw [frameBoundary_eq .results]
    exact takeAll_others b (not_mem_takersAfter order _) _
  have writes : (leftBy .results order b).results.writer = .values := by rw [restarts, ask_results]
  refine ⟨?_, Stands.asks (after.stands _ _ (by decide) (fun _ => by rw [writes]; decide) ?_)⟩
  · rw [after.writer (by decide) (by rw [writes]; decide), writes]
  · rw [restarts]
    refine stands_ask _ _ ?_
    rw [foundBy_engine]
    rcases runs with h | h <;> rw [h] <;> decide

/-! ### The SET FRAME (R104) -/

/-- The SET FRAME whose values are installed completes before any other request. -/
theorem setFrame_first {v : FrameValues} {owner : Fin 32} (pending : b.time.pending = some (v, owner)) (place : owner ∈ b.results.reserved)
    (runs : b.engine.state ≠ .halted) : ∃ later, (frameBoundary order b).results.queue
      = b.results.queue ++ ⟨owner, .ok, BitVec.ofNat 32 v.period, 0, 0⟩ :: later := by
  have first : (frameExpires b).results.queue = b.results.queue ++ [⟨owner, .ok, BitVec.ofNat 32 v.period, 0, 0⟩] := by
    unfold frameExpires installFrame
    rw [pending]
    exact complete_reserved_queue (s := modTime (fun t => { t with inForce := v, pending := none }) b) (List.contains_iff_mem.2 place) runs ..
  have later : Moves (.results :: otherClients) (frameExpires b) (frameBoundary order b) :=
    takeAll_moves (ys := boundaryOrder order) (fun y _ => by
      by_cases own : y = .results
      · rw [own]
        decide
      · exact List.subset_cons_of_subset _ (asksOf_others own)) _
  obtain ⟨more, queue⟩ := later.queue
  exact ⟨more, by rw [← queue, first, List.append_assoc, List.singleton_append]⟩

/-! ### The requests of one line's configuration (R123) -/

/-- The result queue and its reserved places stay. -/
def SamePlaces (s t : Block) : Prop := t.results.queue = s.results.queue ∧ t.results.reserved = s.results.reserved

theorem SamePlaces.of_results {s t : Block} (h : t.results = s.results) : SamePlaces s t := ⟨by rw [h], by rw [h]⟩

theorem SamePlaces.trans {s t u : Block} (h : SamePlaces s t) (k : SamePlaces t u) : SamePlaces s u :=
  ⟨k.1.trans h.1, k.2.trans h.2⟩

/-- Nothing is READY at the table loader. -/
structure Unready (s : Block) : Prop where
  staging : ∀ owner list, s.tables.staging ≠ .ready owner list
  shadows : ∀ k owner points, getAt s.tables.shadows k ≠ .ready owner points

theorem endShadow_unready {x : Shadow} (h : ∀ owner points, x ≠ .ready owner points) (code : ResultCode) (s : Block) :
    endShadow x code s = s := by
  cases x with
  | ready owner points => exact absurd rfl (h owner points)
  | filling points => rfl
  | empty => rfl

theorem Unready.of_tables {s t : Block} (h : Unready s) (tables : t.tables = s.tables) : Unready t :=
  ⟨by rw [tables]; exact h.staging, by rw [tables]; exact h.shadows⟩

theorem Unready.beginTable {s : Block} (h : Unready s) (j : TableJob) :
    Unready (beginTable j s) ∧ (Machine.beginTable j s).results = s.results := by
  cases j with
  | patch slot address count =>
    have filling : Unready (setStaging (.filling []) s) := ⟨fun _ _ => nofun, h.shadows⟩
    exact ⟨filling.of_tables (ask_tables ..), ask_results ..⟩
  | curve slot k address =>
    have filling : Unready (setShadow k (.filling []) s) := ⟨h.staging, fun m owner points => by
      simp only [setShadow, getAt_setAt_ite]
      split
      · exact nofun
      · exact h.shadows m owner points⟩
    have begins : Machine.beginTable (.curve slot k address) s
        = ask .tables (.read address (burstLength curvePoints)) (setShadow k (.filling []) s) := by
      unfold Machine.beginTable
      dsimp only
      rw [endShadow_unready (x := shadowOf s k) (h.shadows k)]
    rw [begins]
    exact ⟨filling.of_tables (ask_tables ..), ask_results ..⟩

theorem Unready.takeTableJob {s : Block} (h : Unready s) :
    Unready (takeTableJob s) ∧ (Machine.takeTableJob s).results = s.results := by
  unfold Machine.takeTableJob
  split
  · exact ⟨h, rfl⟩
  · split
    · rename_i j rest _ _
      split
      · have taken : Unready { s with tables := { s.tables with queue := rest, reader := some j } } := ⟨h.staging, h.shadows⟩
        exact taken.beginTable j
      · exact ⟨h, rfl⟩
    · exact ⟨h, rfl⟩

theorem Unready.installCurve {s : Block} (h : Unready s) (k : Fin 7) : installCurve k s = s := by
  unfold Machine.installCurve
  split
  · rename_i owner points ready
    exact absurd ready (h.shadows k owner points)
  · rfl

theorem Unready.installTables {s : Block} (h : Unready s) : installTables s = Machine.takeTableJob s := by
  have patch : installPatch s = s := by
    unfold installPatch
    split
    · rename_i owner list ready
      exact absurd ready (h.staging owner list)
    · rfl
  unfold Machine.installTables
  rw [patch, List.foldl_fixed' fun k => h.installCurve k]

/-- The mixer of a part with nothing READY leaves it so, and no request ends. -/
theorem Unready.mixerBoundary {s : Block} (h : Unready s) : Unready (mixerBoundary s) ∧ (mixerBoundary s).results = s.results := by
  have copied : ∀ t : Block, (copySnapshot t).tables = t.tables ∧ (copySnapshot t).results = t.results := fun t => by
    rw [ChangesAs.copies t]
    exact ⟨rfl, rfl⟩
  have swapped : (if swaps s then swap s else s).tables = s.tables ∧ (if swaps s then swap s else s).results = s.results := by
    split
    · exact copied _
    · exact ⟨rfl, rfl⟩
  have passes : ∀ u : Block, u.tables = s.tables → Unready (passStarts u) ∧ (passStarts u).results = u.results := fun u tables => by
    have incomplete : Unready (modStore (fun f => { f with complete := false }) u) := h.of_tables tables
    unfold passStarts
    dsimp only
    rw [incomplete.installTables]
    exact ⟨incomplete.takeTableJob.1.of_tables rfl, incomplete.takeTableJob.2⟩
  unfold Machine.mixerBoundary
  split
  · split
    · exact ⟨h.of_tables rfl, rfl⟩
    · exact ⟨h, rfl⟩
  · dsimp only
    split
    · exact ⟨(passes _ swapped.1).1, (passes _ swapped.1).2.trans swapped.2⟩
    · exact ⟨h.of_tables swapped.1, swapped.2⟩

/-- Of the installs of a boundary, at most that of line `l` is due. -/
structure InstallsOnly (l : Fin 4) (s : Block) : Prop where
  unready : Unready s
  lines : ∀ m, m ≠ l → (lineOf s m).pending = none

/-- A block other than line `l` then ends no request. -/
theorem InstallsOnly.takeBoundary {l : Fin 4} {s : Block} (h : InstallsOnly l s) (i : Bool) {y : BoundaryTaker} (other : y ≠ .line l) :
    InstallsOnly l (takeBoundary i y s) ∧ SamePlaces s (takeBoundary i y s) := by
  have changes := ChangesAs.takeBoundary i y s
  have kept : (Machine.takeBoundary i y s).tables = s.tables → (Machine.takeBoundary i y s).lines = s.lines →
      InstallsOnly l (Machine.takeBoundary i y s) := fun tables lines =>
    ⟨h.unready.of_tables tables, fun m => by rw [lineOf, lines]; exact h.lines m⟩
  cases y with
  | mixer =>
    obtain ⟨unready, results⟩ := h.unready.mixerBoundary
    refine ⟨⟨unready, fun m hm => ?_⟩, .of_results results⟩
    rw [lineOf_takeBoundary (y := .mixer) nofun]
    exact h.lines m hm
  | line m =>
    have none : (lineOf s m).pending = none := h.lines m fun e => other (e ▸ rfl)
    have installs : installLine m s = s := by
      unfold installLine
      dsimp only
      rw [none]
    have starts : Machine.takeBoundary i (.line m) s = startFrame m s := congrArg (startFrame m) installs
    have pending : ∀ n, (lineOf (startFrame m s) n).pending = (lineOf s n).pending := fun n => by
      unfold startFrame
      split
      · rw [lineOf_modLine_ite]
        split
        · rename_i same
          rw [same]
        · rfl
      · rfl
    rw [starts]
    refine ⟨⟨h.unready.of_tables ?_, fun n hn => by rw [pending]; exact h.lines n hn⟩, .of_results ?_⟩
    all_goals
      unfold startFrame
      split <;> rfl
  | results =>
    refine ⟨kept (by rw [changes]; rfl) (by rw [changes]; rfl), ?_⟩
    change SamePlaces s (resultsBoundary s)
    unfold resultsBoundary
    split
    · rw [startWriter_eq]
      exact ⟨rfl, rfl⟩
    · exact ⟨rfl, rfl⟩
  | loader => exact ⟨kept (by rw [changes]; rfl) (by rw [changes]; rfl), .of_results (by rw [changes]; rfl)⟩
  | scanner => exact ⟨kept (by rw [changes]; rfl) (by rw [changes]; rfl), .of_results (by rw [changes]; rfl)⟩
  | status => exact ⟨kept (by rw [changes]; rfl) (by rw [changes]; rfl), .of_results (by rw [changes]; rfl)⟩

theorem InstallsOnly.takeAll {l : Fin 4} {ys : List BoundaryTaker} {s : Block} (h : InstallsOnly l s) (others : .line l ∉ ys) :
    InstallsOnly l (takeAll b ys s) ∧ SamePlaces s (takeAll b ys s) := by
  induction ys generalizing s with
  | nil => exact ⟨h, rfl, rfl⟩
  | cons y rest ih =>
    obtain ⟨first, same⟩ := h.takeBoundary b.time.pending.isSome (y := y) fun e => others (e ▸ List.mem_cons_self)
    obtain ⟨last, later⟩ := ih first fun mem => others (List.mem_cons_of_mem _ mem)
    exact ⟨last, same.trans later⟩

/-- The requests that the install of a line's configuration ends, the SET LINE apart. -/
def endedBy (f : LineConfig) (x : Line) : List (Fin 32) := if f.talkback then [] else x.queries.map Query.slot

/-- The install of a line's configuration: its queued queries end CANCELLED when talkback goes off, and then its SET LINE OK (R123). -/
theorem installLine_queue {l : Fin 4} {f : LineConfig} {owner : Fin 32} {s : Block} (pending : (lineOf s l).pending = some (f, owner))
    (runs : s.engine.state ≠ .halted) (once : (endedBy f (lineOf s l) ++ [owner]).Nodup)
    (places : ∀ i ∈ endedBy f (lineOf s l) ++ [owner], i ∈ s.results.reserved) :
    (installLine l s).results.queue = s.results.queue ++ (endedBy f (lineOf s l)).map (fun i => ⟨i, .cancelled, 0, 0, 0⟩)
      ++ [⟨owner, .ok, BitVec.ofNat 32 (lineTime f), BitVec.ofNat 32 f.mode.code, 0⟩] := by
  obtain ⟨endedOnce, -, apart⟩ := List.nodup_append.1 once
  have ended : ∃ t, installLine l s
        = complete owner .ok (BitVec.ofNat 32 (lineTime f)) (BitVec.ofNat 32 f.mode.code) 0 (modLine l (installedLine f) t)
      ∧ Completes ((endedBy f (lineOf s l)).map fun i => (i, .cancelled)) s t := by
    unfold installLine endedBy
    dsimp only
    rw [pending]
    refine ⟨_, rfl, ?_⟩
    split
    · exact .of_same rfl rfl
    · rw [List.map_map]
      exact .endQueries .cancelled _ runs
  obtain ⟨t, installs, queue, reserved, engine⟩ := ended
  rw [installs]
  have slots : ((endedBy f (lineOf s l)).map fun i => (i, ResultCode.cancelled)).map Prod.fst = endedBy f (lineOf s l) := by
    rw [List.map_map]
    exact List.map_id _
  rw [slots] at reserved
  have place : owner ∈ t.results.reserved := by
    rw [reserved]
    exact List.mem_diff_of_mem (places owner (by simp)) fun mem => apart owner mem owner (List.mem_singleton_self _) rfl
  rw [complete_reserved_queue (s := modLine l (installedLine f) t) (List.contains_iff_mem.2 place) (by rw [modLine_engine, engine]; exact runs)]
  change t.results.queue ++ _ = _
  rw [queue, completions_of_nodup (by rw [slots]; exact endedOnce) ?_, List.map_map]
  · rfl
  · intro x mem
    obtain ⟨i, hi, e⟩ := List.mem_map.1 mem
    rw [← e]
    exact places i (List.mem_append_left _ hi)

theorem foundBy_line (l : Fin 4) : lineOf (foundBy (.line l) order b) l = lineOf b l := by
  have own := foundBy_owner (line_owned l) order b
  rw [own, frameExpires_eq]
  rfl

/-- At a boundary that installs one line's configuration alone, its requests alone end. -/
theorem setLine_alone {l : Fin 4} {f : LineConfig} {owner : Fin 32} (pending : (lineOf b l).pending = some (f, owner))
    (runs : b.engine.state ≠ .halted) (noFrame : b.time.pending = none) (alone : InstallsOnly l b)
    (once : (endedBy f (lineOf b l) ++ [owner]).Nodup) (places : ∀ i ∈ endedBy f (lineOf b l) ++ [owner], i ∈ b.results.reserved) :
    (frameBoundary order b).results.queue = b.results.queue ++ (endedBy f (lineOf b l)).map (fun i => ⟨i, .cancelled, 0, 0, 0⟩)
      ++ [⟨owner, .ok, BitVec.ofNat 32 (lineTime f), BitVec.ofNat 32 f.mode.code, 0⟩] := by
  have expired : InstallsOnly l (frameExpires b) ∧ SamePlaces b (frameExpires b) := by
    have quiet : (frameExpires b).results = b.results := by
      unfold frameExpires installFrame
      rw [noFrame]
      rfl
    rw [frameExpires_eq, quiet]
    exact ⟨⟨alone.unready.of_tables rfl, alone.lines⟩, rfl, rfl⟩
  obtain ⟨found, same⟩ := expired.1.takeAll b (not_mem_takersBefore order (.line l))
  have before : SamePlaces b (foundBy (.line l) order b) := expired.2.trans same
  have own := foundBy_line order b l
  have installed := installLine_queue (s := foundBy (.line l) order b) (l := l) (by rw [own]; exact pending)
    (by rw [foundBy_engine]; exact runs) (by rw [own]; exact once) (by rw [own, before.2]; exact places)
  rw [own, before.1] at installed
  have left : (leftBy (.line l) order b).results.queue = (installLine l (foundBy (.line l) order b)).results.queue := by
    change (startFrame l _).results.queue = _
    unfold startFrame
    split <;> rfl
  have goesOn : InstallsOnly l (leftBy (.line l) order b) := by
    refine ⟨found.unready.of_tables (tables_owned _ _ _ nofun), fun m hm => ?_⟩
    rw [leftBy, lineOf_takeBoundary fun e => hm (BoundaryTaker.line.inj e).symm]
    exact found.lines m hm
  rw [frameBoundary_eq (.line l), (goesOn.takeAll b (not_mem_takersAfter order (.line l))).2.1, left, installed]

end Sys2Proof.Machine
end

section
/-! SUPPORT. A line at a frame boundary (R112, R116, R118, R119, R123). -/

namespace Sys2Proof.Machine

/-- A line with its pending configuration, if any, in force. -/
def lineInstalled (x : Line) : Line :=
  match x.pending with
  | none => x
  | some (c, _) => installedLine c x

/-- A line that starts a level frame when it may. -/
def lineStarted (may : Bool) (x : Line) : Line :=
  if x.config.mode.sends && may then { x with tx := .brk, driver := x.config.mode == .send } else x

theorem lineInstalled_none {x : Line} (h : x.pending = none) : lineInstalled x = x := by rw [lineInstalled, h]

theorem lineInstalled_some {x : Line} {c : LineConfig} {owner : Fin 32} (h : x.pending = some (c, owner)) :
    lineInstalled x = installedLine c x := by rw [lineInstalled, h]

theorem lineOf_installLine (l : Fin 4) (s : Block) : lineOf (installLine l s) l = lineInstalled (lineOf s l) := by
  cases pending : (lineOf s l).pending with
  | none =>
    rw [lineInstalled_none pending]
    unfold installLine
    dsimp only
    rw [pending]
  | some p =>
    obtain ⟨c, owner⟩ := p
    rw [lineInstalled_some pending]
    unfold installLine
    dsimp only
    rw [pending]
    dsimp only
    rw [lineOf, complete_lines]
    change lineOf (modLine l _ _) l = _
    rw [lineOf_modLine_ite, if_pos rfl]
    split
    · rfl
    · rw [lineOf, (Posts.endQueries ..).lines]
      rfl

theorem lineOf_startFrame (l : Fin 4) (s : Block) : lineOf (startFrame l s) l = lineStarted (sendsNow s) (lineOf s l) := by
  unfold startFrame lineStarted
  split
  · rw [lineOf_modLine_ite, if_pos rfl]
  · rfl

theorem sendsNow_iff (s : Block) : sendsNow s = true ↔
    s.engine.state = .running ∨ s.engine.state = .stopping ∨ s.engine.state = .halted
      ∨ s.engine.state = .stopped ∧ s.control.hold = true := by
  unfold sendsNow
  cases s.engine.state <;> simp

theorem sends_iff (m : LineMode) : m.sends = true ↔ m = .send ∨ m = .loop := by cases m <;> decide

theorem receives_iff (m : LineMode) : m.receives = true ↔ m = .receive ∨ m = .loop := by cases m <;> decide

/-- A line after a boundary. -/
theorem lineOf_frameBoundary (order : List BoundaryTaker) (b : Block) (l : Fin 4) :
    lineOf (frameBoundary order b) l = lineStarted (sendsNow b) (lineInstalled (lineOf b l)) := by
  have same : sendsNow (installLine l (foundBy (.line l) order b)) = sendsNow b := by
    unfold sendsNow
    rw [installLine_engine, installLine_control, foundBy_engine, foundBy_control]
  have final := frameBoundary_owned (line_owned l) order b
  rw [← same, ← foundBy_line order b l, ← lineOf_installLine, ← lineOf_startFrame]
  exact final

/-! ### The receive side (R123) -/

theorem installReceiver_mode {old new : LineConfig} (h : new.mode ≠ old.mode) (x : Line) : installReceiver old new x
    = { x with rx := .hunt, staging := .empty, layer := Vector.replicate 256 0, signal := .none, signalTimer := none } :=
  if_pos h.symm

theorem installReceiver_rate {old new : LineConfig} (same : new.mode = old.mode) (receives : new.mode = .receive ∨ new.mode = .loop)
    (rate : new.rate ≠ old.rate) (x : Line) :
    installReceiver old new x = { x with rx := .hunt, staging := x.staging.dropFilling } := by
  unfold installReceiver
  rw [if_neg (by rw [same]; exact not_not_intro rfl), if_pos ⟨(receives_iff _).2 receives, rate.symm⟩]

theorem installReceiver_stays {old new : LineConfig} (same : new.mode = old.mode)
    (h : new.mode = .off ∨ new.mode = .send ∨ new.rate = old.rate) (x : Line) : installReceiver old new x = x := by
  unfold installReceiver
  rw [if_neg (by rw [same]; exact not_not_intro rfl), if_neg]
  rintro ⟨receives, rate⟩
  rcases h with off | send | kept
  · rw [off] at receives
    exact absurd receives (by decide)
  · rw [send] at receives
    exact absurd receives (by decide)
  · exact rate kept.symm

/-- The receive side of a line at the install of `c`: no other part of the line has a part in it. -/
theorem installReceiver_kept {old new : LineConfig} (x : Line) (same : new.mode = old.mode) :
    (installReceiver old new x).layer = x.layer ∧ (installReceiver old new x).signal = x.signal
      ∧ (installReceiver old new x).signalTimer = x.signalTimer := by
  unfold installReceiver
  rw [if_neg (by rw [same]; exact not_not_intro rfl)]
  split <;> exact ⟨rfl, rfl, rfl⟩

theorem installReceiver_eq (old new : LineConfig) (x : Line) : installReceiver old new x = { x with
    rx := (installReceiver old new x).rx, staging := (installReceiver old new x).staging, layer := (installReceiver old new x).layer
    signal := (installReceiver old new x).signal, signalTimer := (installReceiver old new x).signalTimer } := by
  unfold installReceiver
  split
  · rfl
  · split <;> rfl

/-- The configuration in force after an install. -/
def installedConfig (x : Line) : LineConfig := (x.pending.map Prod.fst).getD x.config

theorem lineInstalled_config (x : Line) : (lineInstalled x).config = installedConfig x := by
  unfold lineInstalled installedConfig
  split
  · rename_i none
    rw [none]
    rfl
  · rename_i some
    rw [some]
    rfl

/-- The install of a configuration, pending or not, at the receive side. -/
theorem lineInstalled_receives (x : Line) :
    (lineInstalled x).rx = (installReceiver x.config (installedConfig x) x).rx
      ∧ (lineInstalled x).staging = (installReceiver x.config (installedConfig x) x).staging
      ∧ (lineInstalled x).layer = (installReceiver x.config (installedConfig x) x).layer
      ∧ (lineInstalled x).signal = (installReceiver x.config (installedConfig x) x).signal
      ∧ (lineInstalled x).signalTimer = (installReceiver x.config (installedConfig x) x).signalTimer := by
  unfold lineInstalled installedConfig
  split
  · rename_i none
    have stays := installReceiver_stays (old := x.config) (new := x.config) rfl (.inr (.inr rfl)) x
    simp [none, stays]
  · rename_i some
    rw [some]
    exact ⟨rfl, rfl, rfl, rfl, rfl⟩

theorem lineInstalled_eq (x : Line) : lineInstalled x = { x with
    config := installedConfig x, pending := none, driver := (lineInstalled x).driver, queries := (lineInstalled x).queries
    rx := (lineInstalled x).rx, staging := (lineInstalled x).staging, layer := (lineInstalled x).layer
    signal := (lineInstalled x).signal, signalTimer := (lineInstalled x).signalTimer } := by
  cases pending : x.pending with
  | none =>
    have config : installedConfig x = x.config := by rw [installedConfig, pending]; rfl
    rw [lineInstalled_none pending, config, ← pending]
  | some p =>
    obtain ⟨c, owner⟩ := p
    have config : installedConfig x = c := by rw [installedConfig, pending]; rfl
    rw [lineInstalled_some pending, config]
    unfold installedLine
    dsimp only
    rw [installReceiver_eq]

theorem lineInstalled_queries (x : Line) :
    (x.pending = none ∨ (installedConfig x).talkback = true → (lineInstalled x).queries = x.queries)
      ∧ (x.pending ≠ none → (installedConfig x).talkback = false → (lineInstalled x).queries = []) := by
  cases pending : x.pending with
  | none =>
    rw [lineInstalled_none pending]
    exact ⟨fun _ => rfl, fun h => absurd rfl h⟩
  | some p =>
    have config : installedConfig x = p.1 := by rw [installedConfig, pending]; rfl
    have installed : lineInstalled x = installedLine p.1 x := lineInstalled_some (owner := p.2) pending
    rw [config, installed, Lights.installedLine_queries]
    exact ⟨fun h => if_pos (h.resolve_left nofun), fun _ off => if_neg (by simp [off])⟩

theorem lineInstalled_driver (x : Line) :
    (x.pending = none → (lineInstalled x).driver = x.driver)
      ∧ (x.pending ≠ none → (lineInstalled x).driver = (decide ((installedConfig x).mode = .send) && !(installedConfig x).talkback)) := by
  cases pending : x.pending with
  | none =>
    rw [lineInstalled_none pending]
    exact ⟨fun _ => rfl, fun h => absurd rfl h⟩
  | some p =>
    have config : installedConfig x = p.1 := by rw [installedConfig, pending]; rfl
    have installed : lineInstalled x = installedLine p.1 x := lineInstalled_some (owner := p.2) pending
    rw [config, installed]
    exact ⟨nofun, fun _ => rfl⟩

theorem lineStarted_starts {may : Bool} {y : Line} (h : (y.config.mode = .send ∨ y.config.mode = .loop) ∧ may = true) :
    lineStarted may y = { y with tx := .brk, driver := decide (y.config.mode = .send) } := by
  have sends := (sends_iff _).2 h.1
  unfold lineStarted
  rw [sends, h.2]
  rfl

theorem lineStarted_rests {may : Bool} {y : Line} (h : ¬((y.config.mode = .send ∨ y.config.mode = .loop) ∧ may = true)) :
    lineStarted may y = y := by
  rw [← sends_iff, ← Bool.and_eq_true] at h
  exact if_neg h

/-- The start of a level frame changes the transmitter's state and the driver. -/
theorem lineStarted_eq (may : Bool) (y : Line) :
    lineStarted may y = { y with tx := (lineStarted may y).tx, driver := (lineStarted may y).driver } := by
  unfold lineStarted
  split <;> rfl

/-- A line takes the boundary: its configuration is installed, and a frame starts where it may. -/
theorem line_takes_boundary (order : List BoundaryTaker) (b : Block) (l : Fin 4) : LineTakesTheBoundary l b (frameBoundary order b) := by
  unfold LineTakesTheBoundary
  rw [lineOf_frameBoundary, ← sendsNow_iff b]
  generalize lineOf b l = x
  generalize sendsNow b = may
  have config := lineInstalled_config x
  have started := lineStarted_eq may (lineInstalled x)
  obtain ⟨rx, staging, layer, signal, timer⟩ := lineInstalled_receives x
  obtain ⟨sameDriver, newDriver⟩ := lineInstalled_driver x
  obtain ⟨queries, noQueries⟩ := lineInstalled_queries x
  have starts := lineStarted_starts (may := may) (y := lineInstalled x)
  have rests := lineStarted_rests (may := may) (y := lineInstalled x)
  rw [config] at starts rests
  have tx : (lineInstalled x).tx = x.tx := by rw [lineInstalled_eq]
  refine ⟨?_, fun h => ?_, fun h => ?_, ?_, ?_, fun mode => ?_, fun mode => ?_, fun mode receives rate => ?_, fun mode h => ?_⟩
  · rw [started, lineInstalled_eq]
    rfl
  · rw [starts h]
    exact ⟨rfl, rfl⟩
  · rw [rests h]
    exact ⟨tx, sameDriver, newDriver⟩
  · rw [started]
    exact queries
  · rw [started]
    exact noQueries
  · rw [started]
    dsimp only
    rw [rx, staging, layer, signal, timer, installReceiver_mode (new := installedConfig x) mode]
    exact ⟨rfl, rfl, rfl, rfl, rfl⟩
  · rw [started]
    dsimp only
    rw [layer, signal, timer]
    exact installReceiver_kept x mode
  · rw [started]
    dsimp only
    rw [rx, staging, installReceiver_rate (new := installedConfig x) mode receives rate]
    refine ⟨rfl, ?_⟩
    cases x.staging <;> rfl
  · rw [started]
    dsimp only
    rw [rx, staging, installReceiver_stays (new := installedConfig x) mode h]
    exact ⟨rfl, rfl⟩

end Sys2Proof.Machine
end

section
/-! SUPPORT. The words of a status page (R26, R178, R181). -/

namespace Sys2Proof.Machine

/-! ### Where the words stand -/

/-- Word `j` of block `k`, in a list put together from blocks of one length. -/
theorem getElem?_blocks {α β : Type} {f : α → List β} {n : Nat} (long : ∀ x, (f x).length = n) {j : Nat} (hj : j < n) :
    ∀ (xs : List α) (k : Nat), (xs.flatMap f)[n * k + j]? = xs[k]?.bind fun x => (f x)[j]?
  | [], _ => rfl
  | x :: rest, 0 => by
    rw [List.flatMap_cons, Nat.mul_zero, Nat.zero_add, List.getElem?_append_left (by rw [long]; exact hj)]
    rfl
  | x :: rest, k + 1 => by
    rw [List.flatMap_cons, List.getElem?_append_right (by rw [long, Nat.mul_succ]; omega), long, List.getElem?_cons_succ,
      ← getElem?_blocks long hj rest k]
    congr 1
    rw [Nat.mul_succ]
    omega

theorem getElem?_after {α : Type} {xs ys : List α} {n : Nat} (long : xs.length = n) (k : Nat) : (xs ++ ys)[n + k]? = ys[k]? := by
  rw [List.getElem?_append_right (by omega), long, Nat.add_sub_cancel_left]

theorem length_blocks {α β : Type} {f : α → List β} {n : Nat} (long : ∀ x, (f x).length = n) (xs : List α) :
    (xs.flatMap f).length = n * xs.length := by
  rw [List.length_flatMap, List.map_congr_left fun x _ => long x, List.map_const', List.sum_replicate, smul_eq_mul, Nat.mul_comm]

/-- The words of the part as a whole, of the playbacks, of the lines and of the triggers. -/
def wholeWords (s : Block) : List Word :=
  [packed [(s.engine.state.code, 0), (s.engine.fault.code, 8)], s.time.clock, s.time.frames,
   countWord s.mixer.lateMixes, countWord s.status.skipped, countWord s.port.faults,
   countWord s.loader.sweeps, countWord s.loader.stuck, countWord s.superseded, countWord (poolFree s)]

def triggerWords (x : Trigger) : List Word := [countWord x.accepted, countWord x.dropped]

variable (s : Block)

theorem wholeWords_length : (wholeWords s).length = 10 := rfl

theorem playbackBlocks_length : (allPlaybacks.flatMap fun p => playbackWords s.time.clock (playbackOf s p)).length = 32 :=
  length_blocks (n := 4) (fun _ => rfl) allPlaybacks

theorem lineBlocks_length : (allLines.flatMap fun l => lineWords (lineOf s l)).length = 44 :=
  length_blocks (n := 11) (fun _ => rfl) allLines

theorem triggerBlocks_length : (allTriggers.flatMap fun t => triggerWords (triggerOf s t)).length = 16 :=
  length_blocks (n := 2) (fun _ => rfl) allTriggers

theorem pageBody_eq : pageBody s = wholeWords s
    ++ ((allPlaybacks.flatMap fun p => playbackWords s.time.clock (playbackOf s p))
    ++ ((allLines.flatMap fun l => lineWords (lineOf s l))
    ++ ((allTriggers.flatMap fun t => triggerWords (triggerOf s t)) ++ [settledWord s]))) := by
  simp only [pageBody, wholeWords, triggerWords, List.append_assoc]

theorem pageBody_length : (pageBody s).length = 103 := by
  rw [pageBody_eq]
  simp only [List.length_append, playbackBlocks_length, lineBlocks_length, triggerBlocks_length, List.length_singleton]
  rfl

theorem pageBody_whole {k : Nat} (hk : k < 10) : (pageBody s)[k]? = (wholeWords s)[k]? := by
  rw [pageBody_eq]
  exact List.getElem?_append_left hk

theorem pageBody_playback (p : Fin 8) {j : Nat} (hj : j < 4) :
    (pageBody s)[10 + (4 * p.val + j)]? = (playbackWords s.time.clock (playbackOf s p))[j]? := by
  have here : allPlaybacks[p.val]? = some p := by fin_cases p <;> rfl
  rw [pageBody_eq, getElem?_after (wholeWords_length s), List.getElem?_append_left (by rw [playbackBlocks_length]; omega),
    getElem?_blocks (n := 4) (fun _ => rfl) hj, here]
  rfl

theorem pageBody_line (l : Fin 4) {j : Nat} (hj : j < 11) : (pageBody s)[10 + (32 + (11 * l.val + j))]? = (lineWords (lineOf s l))[j]? := by
  have here : allLines[l.val]? = some l := by fin_cases l <;> rfl
  rw [pageBody_eq, getElem?_after (wholeWords_length s), getElem?_after (playbackBlocks_length s),
    List.getElem?_append_left (by rw [lineBlocks_length]; omega), getElem?_blocks (n := 11) (fun _ => rfl) hj, here]
  rfl

theorem pageBody_trigger (t : Fin 8) {j : Nat} (hj : j < 2) :
    (pageBody s)[10 + (32 + (44 + (2 * t.val + j)))]? = (triggerWords (triggerOf s t))[j]? := by
  have here : allTriggers[t.val]? = some t := by fin_cases t <;> rfl
  rw [pageBody_eq, getElem?_after (wholeWords_length s), getElem?_after (playbackBlocks_length s), getElem?_after (lineBlocks_length s),
    List.getElem?_append_left (by rw [triggerBlocks_length]; omega), getElem?_blocks (n := 2) (fun _ => rfl) hj, here]
  rfl

theorem pageBody_settled : (pageBody s)[102]? = some (settledWord s) := by
  rw [pageBody_eq, show 102 = 10 + (32 + (44 + (16 + 0))) from rfl, getElem?_after (wholeWords_length s), getElem?_after (playbackBlocks_length s),
    getElem?_after (lineBlocks_length s), getElem?_after (triggerBlocks_length s)]
  rfl

/-! ### What the words hold -/

theorem code_of_engine (x : EngineState) : [EngineState.stopped, .starting, .running, .stopping, .halted].idxOf x = x.code := by
  cases x <;> rfl

theorem code_of_fault (x : FaultCode) : [FaultCode.none, .anchorBad, .busHalt].idxOf x = x.code := by cases x <;> rfl

theorem code_of_fade (x : FadeState) : [FadeState.idle, .fading, .holding, .paused, .releasing].idxOf x = x.code := by cases x <;> rfl

theorem code_of_load (x : LoadState) : [LoadState.none, .waiting, .reading].idxOf x = x.code := by cases x <;> rfl

theorem code_of_mode (x : LineMode) : [LineMode.off, .send, .receive, .loop].idxOf x = x.code := by cases x <;> rfl

theorem code_of_signal (x : SignalState) : [SignalState.none, .present, .lost].idxOf x = x.code := by cases x <;> rfl

theorem code_of_lastFrame (x : LastFrame) :
    [LastFrame.none, .ok, .error .framing, .error .check, .error .short, .error .unexpected, .error .overrun].idxOf x = x.code := by
  cases x with
  | error e => cases e <;> rfl
  | none => rfl
  | ok => rfl

theorem packed_two (a b n : Nat) : packed [(a, 0), (b, n)] = BitVec.ofNat 32 (a + 2 ^ n * b) := by
  simp [packed, Nat.mul_comm]

theorem packed_three (a b c m n : Nat) : packed [(a, 0), (b, m), (c, n)] = BitVec.ofNat 32 (a + 2 ^ m * b + 2 ^ n * c) := by
  simp [packed, Nat.mul_comm, Nat.add_assoc]

theorem packed_four (a b c d k m n : Nat) :
    packed [(a, 0), (b, k), (c, m), (d, n)] = BitVec.ofNat 32 (a + 2 ^ k * b + 2 ^ m * c + 2 ^ n * d) := by
  simp [packed, Nat.mul_comm, Nat.add_assoc]

theorem timing_progress_is (tm : FadeTiming) (now : Time) :
    (showDiff tm.fadeEnd tm.start = 0 → tm.progress now = 1000)
      ∧ (showDiff tm.fadeEnd tm.start ≠ 0 →
        (tm.progress now : Int) = max 0 (min 1000 (Int.tdiv (tm.elapsed now * 1000) (showDiff tm.fadeEnd tm.start)))) := by
  unfold FadeTiming.progress
  dsimp only
  refine ⟨fun none => if_pos none, fun some => ?_⟩
  rw [if_neg some]
  omega

theorem progress_is (x : Playback) (now : Time) : ProgressIs x now (x.progress now) := by
  have part := timing_progress_is x.timing now
  have since : x.timing.elapsed now = match x.timing.paused with | some f => f | none => showDiff now x.timing.start := by
    unfold FadeTiming.elapsed
    cases x.timing.paused <;> rfl
  rw [since] at part
  have fades : x.progress now = x.timing.progress now → x.fade ≠ .idle → x.fade ≠ .holding →
      (x.fade = .paused → x.remembered ≠ some .holding) →
      ProgressIs x now (x.progress now) := fun same idle holding paused => by
    rw [same]
    exact ⟨fun h => absurd h idle, fun h => (h.elim holding fun k => paused k.1 k.2).elim, fun _ => part.1, fun _ => part.2⟩
  cases fade : x.fade with
  | idle =>
    have zero : x.progress now = 0 := by rw [Playback.progress, fade]
    exact ⟨fun _ => zero, by simp [fade], by simp [fade], by simp [fade]⟩
  | fading => exact fades (by rw [Playback.progress, fade]) (by simp [fade]) (by simp [fade]) (by simp [fade])
  | releasing => exact fades (by rw [Playback.progress, fade]) (by simp [fade]) (by simp [fade]) (by simp [fade])
  | holding =>
    have whole : x.progress now = 1000 := by rw [Playback.progress, fade]
    exact ⟨by simp [fade], fun _ => whole, by simp [fade], by simp [fade]⟩
  | paused =>
    by_cases held : x.remembered = some .holding
    · have whole : x.progress now = 1000 := by rw [Playback.progress, fade, held]
      exact ⟨by simp [fade], fun _ => whole, by simp [fade, held], by simp [fade, held]⟩
    · refine fades ?_ (by simp [fade]) (by simp [fade]) fun _ => held
      rw [Playback.progress, fade]
      cases remembered : x.remembered with
      | none => rfl
      | some f =>
        cases f with
        | holding => exact absurd remembered held
        | _ => rfl

/-- The settled levels, one bit a trigger. -/
theorem settledWord_eq : settledWord s = BitVec.ofNat 32 (Nat.ofBits fun t : Fin 8 => (triggerOf s t).settled) := by
  have bits : ∀ x, bit x = x.toNat := by decide
  unfold settledWord packed
  congr 1
  simp only [allTriggers, bits, Nat.ofBits, Fin.foldr_succ, Fin.foldr_zero, List.map_cons, List.map_nil, List.sum_cons, List.sum_nil]
  change _ = 2 * (2 * (2 * (2 * (2 * (2 * (2 * (2 * 0 + (triggerOf s 7).settled.toNat) + (triggerOf s 6).settled.toNat)
    + (triggerOf s 5).settled.toNat) + (triggerOf s 4).settled.toNat) + (triggerOf s 3).settled.toNat)
    + (triggerOf s 2).settled.toNat) + (triggerOf s 1).settled.toNat) + (triggerOf s 0).settled.toNat
  change (triggerOf s 0).settled.toNat * 2 ^ 0 + ((triggerOf s 1).settled.toNat * 2 ^ 1 + ((triggerOf s 2).settled.toNat * 2 ^ 2
    + ((triggerOf s 3).settled.toNat * 2 ^ 3 + ((triggerOf s 4).settled.toNat * 2 ^ 4 + ((triggerOf s 5).settled.toNat * 2 ^ 5
    + ((triggerOf s 6).settled.toNat * 2 ^ 6 + ((triggerOf s 7).settled.toNat * 2 ^ 7 + 0))))))) = _
  omega

theorem settledWord_small : (settledWord s).toNat < 256 := by
  have small := Nat.ofBits_lt_two_pow fun t : Fin 8 => (triggerOf s t).settled
  rw [settledWord_eq, BitVec.toNat_ofNat]
  omega

theorem settledWord_bit (t : Fin 8) : (settledWord s).getLsbD t.val = (triggerOf s t).settled := by
  rw [settledWord_eq, BitVec.getLsbD_ofNat, Nat.testBit_ofBits_lt _ _ t.isLt, decide_eq_true (by omega), Bool.true_and]

/-- A page latched from a part is the page of that part. -/
theorem pageBody_is : IsThePageOf s (pageBody s) := by
  have whole : ∀ {k : Nat} {w : Word}, k < 10 → (wholeWords s)[k]? = some w → (pageBody s)[k]?.getD 0 = w := fun hk h => by
    rw [pageBody_whole s hk, h]
    rfl
  refine ⟨pageBody_length s, ?_, ?_, ?_, ?_, ?_, ?_, ?_, ?_, ?_, ?_, fun p => ?_, fun l => ?_, fun t => ?_, fun t => ?_, ?_⟩
  · refine whole (k := 0) (by decide) ?_
    rw [code_of_engine, code_of_fault]
    exact congrArg some (packed_two ..)
  · exact whole (k := 1) (by decide) rfl
  · exact whole (k := 2) (by decide) rfl
  · exact whole (k := 3) (by decide) rfl
  · exact whole (k := 4) (by decide) rfl
  · exact whole (k := 5) (by decide) rfl
  · exact whole (k := 6) (by decide) rfl
  · exact whole (k := 7) (by decide) rfl
  · exact whole (k := 8) (by decide) rfl
  · exact whole (k := 9) (by decide) rfl
  · have word : ∀ {j : Nat}, j < 4 → ∀ w, (playbackWords s.time.clock (playbackOf s p))[j]? = some w →
        (pageBody s)[11 + j + 4 * p.val - 1]?.getD 0 = w := fun {j} hj w h => by
      rw [show 11 + j + 4 * p.val - 1 = 10 + (4 * p.val + j) by omega, pageBody_playback s p hj, h]
      rfl
    refine ⟨?_, ?_, ⟨_, _, progress_is _ _, masterValue_is _ _, ?_⟩, ?_⟩
    · refine word (j := 0) (by decide) _ ?_
      rw [code_of_fade, code_of_load]
      exact congrArg some (packed_three ..)
    · refine word (j := 1) (by decide) _ ?_
      cases cue : (playbackOf s p).lastCue with
      | none =>
        simp only [playbackWords, cue]
        exact congrArg some (packed_two ..)
      | some c =>
        simp only [playbackWords, cue]
        exact congrArg some (packed_two ..)
    · exact word (j := 2) (by decide) _ (congrArg some (packed_two ..))
    · exact word (j := 3) (by decide) _ rfl
  · have word : ∀ {j : Nat}, j < 11 → ∀ w, (lineWords (lineOf s l))[j]? = some w → (pageBody s)[43 + j + 11 * l.val - 1]?.getD 0 = w :=
      fun {j} hj w h => by
        rw [show 43 + j + 11 * l.val - 1 = 10 + (32 + (11 * l.val + j)) by omega, pageBody_line s l hj, h]
        rfl
    refine ⟨?_, ?_, ?_, ?_, ?_, ?_, ?_, ?_, ?_, ?_, ?_⟩
    · refine word (j := 0) (by decide) _ ?_
      rw [code_of_mode, code_of_signal, code_of_lastFrame]
      exact congrArg some (packed_four ..)
    · exact word (j := 1) (by decide) _ rfl
    · exact word (j := 2) (by decide) _ rfl
    · exact word (j := 3) (by decide) _ rfl
    · exact word (j := 4) (by decide) _ rfl
    · exact word (j := 5) (by decide) _ rfl
    · exact word (j := 6) (by decide) _ rfl
    · exact word (j := 7) (by decide) _ rfl
    · exact word (j := 8) (by decide) _ rfl
    · exact word (j := 9) (by decide) _ rfl
    · exact word (j := 10) (by decide) _ rfl
  · have word : ∀ {j : Nat}, j < 2 → ∀ w, (triggerWords (triggerOf s t))[j]? = some w → (pageBody s)[87 + j + 2 * t.val - 1]?.getD 0 = w :=
      fun {j} hj w h => by
        rw [show 87 + j + 2 * t.val - 1 = 10 + (32 + (44 + (2 * t.val + j))) by omega, pageBody_trigger s t hj, h]
        rfl
    exact ⟨word (j := 0) (by decide) _ rfl, word (j := 1) (by decide) _ rfl⟩
  · change ((pageBody s)[102]?.getD 0).getLsbD t.val = _
    rw [pageBody_settled]
    exact settledWord_bit s t
  · change ((pageBody s)[102]?.getD 0).toNat < 256
    rw [pageBody_settled]
    exact settledWord_small s

end Sys2Proof.Machine
end

section
/-! SUPPORT. The status writer at a frame boundary: the write that falls due, the page it latches, and the order of the jobs (R105, R177,
R178, R180). -/

namespace Sys2Proof.Machine

variable (order : List BoundaryTaker) (b : Block)

/-! ### The countdown (R105, R177) -/

theorem mixes_iff (s : Block) : mixes s = true ↔ s.engine.state = .running ∨ s.engine.state = .stopping ∨ s.engine.state = .halted := by
  unfold mixes
  cases s.engine.state <;> decide

theorem decide_mixes (s : Block) :
    decide (s.engine.state = .running ∨ s.engine.state = .stopping ∨ s.engine.state = .halted) = mixes s := by
  unfold mixes
  cases s.engine.state <;> rfl

theorem countStatus_waits {i : Bool} {s : Block} (h : ¬(mixes s = true ∧ s.status.countdown = 1)) : countStatus i s
    = modStatus (fun w => { w with
        countdown := if i then s.time.inForce.status else if mixes s then s.status.countdown - 1 else s.status.countdown }) s := by
  have waits : (mixes s && decide (s.status.countdown = 1)) = false := by
    rw [← Bool.not_eq_true, Bool.and_eq_true, decide_eq_true_iff]
    exact h
  unfold countStatus
  dsimp only
  rw [decide_mixes, waits, if_neg Bool.false_ne_true, Bool.false_or]
  simp only [← mixes_iff]

theorem countStatus_due {i : Bool} {s : Block} (writes : mixes s = true) (last : s.status.countdown = 1) :
    countStatus i s = statusDue (modStatus (fun w => { w with countdown := s.time.inForce.status }) s) := by
  have due : (mixes s && decide (s.status.countdown = 1)) = true := by rw [writes, last]; rfl
  unfold countStatus
  dsimp only
  rw [decide_mixes, due]
  rfl

/-! ### The order of the jobs (R180) -/

/-- A snapshot's job waits for a swap. -/
def SnapshotWaits (s : Block) : Prop := ∃ slot a, s.status.snapshot = some ⟨slot, a, .waiting⟩

/-- From `s` to `t` no job but a snapshot's joins the order, and that only when it waits; a request of the first job stands. -/
structure Queues (s t : Block) : Prop where
  joined : ∃ more, t.status.order = s.status.order ++ more ∧ ∀ j ∈ more, j = .snapshot
  stays : ¬SnapshotWaits s → t.status.order = s.status.order ∧ t.status.snapshot = s.status.snapshot
  asks : s.status.order ≠ [] → ∀ k, Stands .status k s.port → Stands .status k t.port

namespace Queues

theorem of_status {s t : Block} (status : t.status.order = s.status.order ∧ t.status.snapshot = s.status.snapshot)
    (asks : ∀ k, Stands .status k s.port → Stands .status k t.port) : Queues s t :=
  ⟨⟨[], by rw [status.1, List.append_nil], nofun⟩, fun _ => status, fun _ => asks⟩

theorem trans {s t u : Block} (h : Queues s t) (k : Queues t u) : Queues s u := by
  obtain ⟨first, orderT, onlyT⟩ := h.joined
  obtain ⟨next, orderU, onlyU⟩ := k.joined
  refine ⟨⟨first ++ next, by rw [orderU, orderT, List.append_assoc], fun j mem => ?_⟩, fun waits => ?_, fun some kind there => ?_⟩
  · exact (List.mem_append.1 mem).elim (onlyT j) (onlyU j)
  · obtain ⟨order, snapshot⟩ := h.stays waits
    have stillWaits : ¬SnapshotWaits t := fun ⟨slot, a, job⟩ => waits ⟨slot, a, by rw [← snapshot, job]⟩
    obtain ⟨order', snapshot'⟩ := k.stays stillWaits
    exact ⟨order'.trans order, snapshot'.trans snapshot⟩
  · refine k.asks (fun none => some ?_) kind (h.asks some kind there)
    rw [orderT] at none
    exact (List.append_eq_nil_iff.1 none).1

theorem copySnapshot_status (s : Block) :
    (SnapshotWaits s ∧ (copySnapshot s).status.order = s.status.order ++ [.snapshot]) ∨ ¬SnapshotWaits s ∧ copySnapshot s = s := by
  unfold copySnapshot
  split
  · rename_i slot a waits
    refine .inl ⟨⟨slot, a, waits⟩, ?_⟩
    unfold joinStatus
    dsimp only
    split
    · rw [(askStatus_posts _).onlyStatus.2]
      rfl
    · rfl
  · rename_i none
    exact .inr ⟨fun ⟨slot, a, waits⟩ => none slot a waits, rfl⟩

theorem status_of_tabulates {s t : Block} (h : Tabulates s t) : t.status = s.status := by
  rw [h.rest]
  rfl

theorem passStarts_status (s : Block) : (passStarts s).status = s.status := by
  have kept := status_of_tabulates (Tabulates.installTables (modStore (fun f => { f with complete := false }) s))
  unfold passStarts
  dsimp only
  generalize installTables (modStore (fun f => { f with complete := false }) s) = installed at kept ⊢
  exact kept

/-- Of the mixer's operations a swap alone reaches the status writer. -/
theorem mixerBoundary_status (s : Block) : (Machine.mixerBoundary s).status = s.status ∨ (Machine.mixerBoundary s).status = (swap s).status := by
  have swapped : (if swaps s then swap s else s).status = s.status ∨ (if swaps s then swap s else s).status = (swap s).status := by
    split
    · exact .inr rfl
    · exact .inl rfl
  unfold Machine.mixerBoundary
  split
  · left
    split <;> rfl
  · dsimp only
    split
    · rw [passStarts_status]
      exact swapped
    · exact swapped

theorem mixerBoundary (s : Block) : Queues s (mixerBoundary s) := by
  have asks : s.status.order ≠ [] → ∀ k, Stands .status k s.port → Stands .status k (Machine.mixerBoundary s).port :=
    fun some k => (Moves.mixerBoundary (cs := [.tables]) (by decide) fun none => absurd none some).stands .status k (by decide) nofun
  have unchanged : (Machine.mixerBoundary s).status = s.status → Queues s (Machine.mixerBoundary s) := fun same =>
    ⟨⟨[], by rw [same, List.append_nil], nofun⟩, fun _ => by rw [same]; exact ⟨rfl, rfl⟩, asks⟩
  rcases mixerBoundary_status s with same | swapped
  · exact unchanged same
  · rcases copySnapshot_status (setLoadFlags (modStore (fun f => { f with aPresented := !f.aPresented, complete := false }) s)) with
      ⟨waits, order⟩ | ⟨-, none⟩
    · refine ⟨⟨[.snapshot], by rw [swapped]; exact order, by simp⟩, fun h => absurd waits h, asks⟩
    · refine unchanged (swapped.trans ?_)
      unfold swap
      rw [none]
      rfl

theorem takeBoundary {y : BoundaryTaker} (other : y ≠ .status) (i : Bool) (s : Block) : Queues s (takeBoundary i y s) := by
  by_cases mixer : y = .mixer
  · subst mixer
    exact mixerBoundary s
  · have asks : ∀ k, Stands .status k s.port → Stands .status k (Machine.takeBoundary i y s).port := fun k =>
      (takeBoundary_moves i y s).stands .status k (fun mem => (asks_status mem).elim other mixer) nofun
    have status : (Machine.takeBoundary i y s).status = s.status := by
      rw [ChangesAs.takeBoundary i y s]
      cases y with
      | mixer => exact absurd rfl mixer
      | status => exact absurd rfl other
      | _ => rfl
    exact of_status (by rw [status]; exact ⟨rfl, rfl⟩) asks

theorem takeAll {ys : List BoundaryTaker} (h : .status ∉ ys) (s : Block) : Queues s (takeAll b ys s) := by
  induction ys generalizing s with
  | nil => exact of_status ⟨rfl, rfl⟩ fun _ => id
  | cons y rest ih =>
    exact (takeBoundary (fun e => h (e ▸ List.mem_cons_self)) _ s).trans (ih (fun mem => h (List.mem_cons_of_mem _ mem)) _)

end Queues

/-! ### The page that the status writer latches (R178) -/

theorem beginPage_status (s : Block) : (beginPage s).status
    = { s.status with page := some ⟨pageBody s, 0⟩, order := s.status.order ++ [.page] } := by
  unfold beginPage joinStatus
  dsimp only
  split
  · rw [(askStatus_posts _).onlyStatus.2]
    rfl
  · rfl

/-- The page job that is the first asks for word 0 with the next odd edition. -/
theorem beginPage_stands {s : Block} (first : s.status.order = []) (runs : s.engine.state ≠ .halted) :
    Stands .status (.write s.anchor.statusPage [s.status.edition + 1]) (beginPage s).port := by
  have order : (modStatus (fun w => { w with page := some ⟨pageBody s, 0⟩ }) s).status.order.isEmpty = true := List.isEmpty_iff.2 first
  unfold beginPage joinStatus
  dsimp only
  rw [if_pos order]
  have burst : statusBurst (modStatus (fun w => { w with order := w.order ++ [.page] })
      (modStatus (fun w => { w with page := some ⟨pageBody s, 0⟩ }) s)) = some (.write s.anchor.statusPage [s.status.edition + 1]) := by
    simp [statusBurst, modStatus, first, pageBurst]
  unfold askStatus
  rw [burst]
  exact stands_ask _ _ runs

/-- What a page shows of the part. -/
theorem pageBody_congr {s u : Block} (engine : s.engine = u.engine) (time : s.time = u.time) (mixer : s.mixer = u.mixer)
    (skipped : s.status.skipped = u.status.skipped) (faults : s.port.faults = u.port.faults)
    (loads : s.loader.sweeps = u.loader.sweeps ∧ s.loader.stuck = u.loader.stuck) (superseded : s.superseded = u.superseded)
    (playbacks : s.playbacks = u.playbacks) (lines : ∀ l, lineOf s l = lineOf u l) (triggers : s.triggers = u.triggers) :
    pageBody s = pageBody u := by
  have free : poolFree s = poolFree u := by
    have each : ∀ p, playbackOf s p = playbackOf u p := fun p => by rw [playbackOf, playbacks]; rfl
    simp only [poolFree, poolHeld, poolAwaiting, each, mixer]
  have pins : ∀ t, triggerOf s t = triggerOf u t := fun t => by rw [triggerOf, triggers]; rfl
  have each : ∀ p, playbackOf s p = playbackOf u p := fun p => by rw [playbackOf, playbacks]; rfl
  simp only [pageBody, settledWord, engine, time, mixer, skipped, faults, loads.1, loads.2, superseded, free, pins, each, lines]

end Sys2Proof.Machine
end

section
/-! SUPPORT. The status write that falls due at a frame boundary, and what a frame boundary does (R104, R177, R178, R180). -/

namespace Sys2Proof.Machine

variable (order : List BoundaryTaker) (b : Block)

/-! ### What the status writer finds -/

theorem takeLoadJob_counts (s : Block) :
    (takeLoadJob s).loader.sweeps = s.loader.sweeps ∧ (takeLoadJob s).loader.stuck = s.loader.stuck := by
  unfold takeLoadJob
  split
  · exact ⟨rfl, rfl⟩
  · split
    · rw [ask_loader]
      exact ⟨rfl, rfl⟩
    · exact ⟨rfl, rfl⟩

/-- The loader's counts. -/
def loadCounts (s : Block) : Nat × Nat := (s.loader.sweeps, s.loader.stuck)

theorem takeBoundary_loadCounts (i : Bool) (y : BoundaryTaker) (s : Block) : loadCounts (takeBoundary i y s) = loadCounts s := by
  by_cases loader : y = .loader
  · subst loader
    obtain ⟨sweeps, stuck⟩ := takeLoadJob_counts
      { s with loader := { s.loader with queue := s.loader.queue.map fun j => { j with deferred := false } } }
    exact Prod.ext sweeps stuck
  · rw [loadCounts, loader_owned i y s loader]
    rfl

theorem of_pageSide {s : Block} {w : StatusWriter} (h : pageSide s = w) : s.status.countdown = w.countdown
    ∧ s.status.edition = w.edition ∧ s.status.page = w.page ∧ s.status.skipped = w.skipped := by
  rw [← h]
  exact ⟨rfl, rfl, rfl, rfl⟩

/-- The status writer finds its page, counts and edition as the boundary began. -/
theorem foundBy_pageSide : pageSide (foundBy .status order b) = pageSide b := by
  rw [foundBy_owner pageSide_owned, frameExpires_eq]
  rfl

theorem frameBoundary_pageSide : pageSide (frameBoundary order b) = pageSide (leftBy .status order b) :=
  frameBoundary_owned pageSide_owned order b

theorem lineOf_asFoundBy (y : BoundaryTaker) (t : Block) (l : Fin 4) :
    lineOf (asFoundBy y order b t) l = if takenBefore order (.line l) y then lineOf t l else lineOf b l :=
  getAt_ofFn (fun l => if takenBefore order (.line l) y then lineOf t l else lineOf b l) l

/-- The page that the status writer latches is that of the part as it finds it. -/
theorem page_asFound (n : Nat) : pageBody (modStatus (fun w => { w with countdown := n }) (foundBy .status order b))
    = pageBody (asFoundBy .status order b (frameBoundary order b)) := by
  have counts : loadCounts (foundBy .status order b) = loadCounts b := by
    rw [foundBy_keeps takeBoundary_loadCounts, frameExpires_eq]
    rfl
  obtain ⟨-, -, -, skipped⟩ := of_pageSide (foundBy_pageSide order b)
  refine pageBody_congr (foundBy_engine ..) ?_ ?_ skipped ?_
    ⟨congrArg Prod.fst counts, congrArg Prod.snd counts⟩ ?_ ?_ (fun l => ?_) ?_
  · exact (foundBy_time order b .status).trans (frameBoundary_time order b).symm
  · exact (foundBy_other (x := .status) mixer_owned nofun order b).trans (by rw [frameExpires_eq]; rfl)
  · exact (foundBy_keeps (g := fun s => s.port.faults) takeBoundary_faults ..).trans (frameExpires_faults b)
  · exact (foundBy_keeps takeBoundary_superseded ..).trans (by rw [frameExpires_eq]; rfl)
  · exact (foundBy_other (x := .status) playbacks_owned nofun order b).trans (by rw [frameExpires_eq]; rfl)
  · have found := foundBy_other (x := .status) (line_owned l) nofun order b
    have expired : lineOf (frameExpires b) l = lineOf b l := by
      rw [frameExpires_eq]
      rfl
    rw [expired] at found
    exact Eq.trans found (lineOf_asFoundBy ..).symm
  · exact (foundBy_keeps takeBoundary_triggers ..).trans (by rw [frameExpires_eq]; rfl)

/-! ### The countdown, and the write that falls due (R105, R177) -/

theorem statusDue_halted {s : Block} (h : s.engine.state = .halted) : statusDue s = s := if_pos h

theorem statusDue_busy {s : Block} {j : PageJob} (runs : s.engine.state ≠ .halted) (page : s.status.page = some j) :
    statusDue s = modStatus (fun w => { w with skipped := countUp w.skipped }) s := by
  unfold statusDue
  rw [if_neg runs, page]

theorem statusDue_begins {s : Block} (runs : s.engine.state ≠ .halted) (page : s.status.page = none) : statusDue s = beginPage s := by
  unfold statusDue
  rw [if_neg runs, page]

theorem mixes_foundBy (y : BoundaryTaker) : mixes (foundBy y order b) = mixes b := by
  unfold mixes
  rw [foundBy_engine]

theorem pageSide_countdown (n : Nat) (s : Block) :
    pageSide (modStatus (fun w => { w with countdown := n }) s) = { pageSide s with countdown := n } := rfl

theorem status_waits (h : ¬(mixes b = true ∧ b.status.countdown = 1)) : pageSide (frameBoundary order b) = { pageSide b with
    countdown := if b.time.pending.isSome then (expiredTime b.time).inForce.status
      else if mixes b then b.status.countdown - 1 else b.status.countdown } := by
  obtain ⟨countdown, -⟩ := of_pageSide (foundBy_pageSide order b)
  have left : leftBy .status order b = _ := countStatus_waits (s := foundBy .status order b) (by rwa [mixes_foundBy, countdown])
  rw [mixes_foundBy, countdown, foundBy_time] at left
  rw [frameBoundary_pageSide, left, pageSide_countdown, foundBy_pageSide]
  rfl

/-- The status writer as it finds itself, its countdown loaded anew. -/
def reloaded : Block := modStatus (fun w => { w with countdown := (expiredTime b.time).inForce.status }) (foundBy .status order b)

theorem reloaded_pageSide : pageSide (reloaded order b) = { pageSide b with countdown := (expiredTime b.time).inForce.status } := by
  rw [reloaded, pageSide_countdown, foundBy_pageSide]

theorem leftBy_status (writes : mixes b = true) (last : b.status.countdown = 1) : leftBy .status order b = statusDue (reloaded order b) := by
  obtain ⟨countdown, -⟩ := of_pageSide (foundBy_pageSide order b)
  have left : leftBy .status order b = _ := countStatus_due (s := foundBy .status order b) (by rwa [mixes_foundBy]) (by rwa [countdown])
  rw [left, foundBy_time]
  rfl

theorem status_halted (halted : b.engine.state = .halted) (last : b.status.countdown = 1) :
    pageSide (frameBoundary order b) = { pageSide b with countdown := (expiredTime b.time).inForce.status } := by
  rw [frameBoundary_pageSide, leftBy_status order b ((mixes_iff b).2 (.inr (.inr halted))) last, statusDue_halted, reloaded_pageSide]
  exact (congrArg Engine.state (foundBy_engine order b .status)).trans halted

theorem reloaded_runs (runs : b.engine.state ≠ .halted) : (reloaded order b).engine.state ≠ .halted := by
  rw [← foundBy_engine order b .status] at runs
  exact runs

theorem status_skips {j : PageJob} (writes : mixes b = true) (last : b.status.countdown = 1) (runs : b.engine.state ≠ .halted)
    (page : b.status.page = some j) : pageSide (frameBoundary order b)
      = { pageSide b with countdown := (expiredTime b.time).inForce.status, skipped := countUp b.status.skipped } := by
  have side := reloaded_pageSide order b
  obtain ⟨-, -, same, skipped⟩ := of_pageSide side
  have counted : pageSide (modStatus (fun w => { w with skipped := countUp w.skipped }) (reloaded order b))
      = { pageSide (reloaded order b) with skipped := countUp (reloaded order b).status.skipped } := rfl
  rw [frameBoundary_pageSide, leftBy_status order b writes last, statusDue_busy (reloaded_runs order b runs) (same.trans page), counted,
    skipped, side]
  rfl

/-- The page job that begins, what it latches, and the order of the jobs. -/
theorem status_begins (writes : mixes b = true) (last : b.status.countdown = 1) (runs : b.engine.state ≠ .halted)
    (page : b.status.page = none) :
    pageSide (frameBoundary order b) = { pageSide b with
        countdown := (expiredTime b.time).inForce.status
        page := some ⟨pageBody (asFoundBy .status order b (frameBoundary order b)), 0⟩ }
      ∧ leftBy .status order b = beginPage (reloaded order b) := by
  have side := reloaded_pageSide order b
  obtain ⟨-, -, same, -⟩ := of_pageSide side
  have begins : leftBy .status order b = beginPage (reloaded order b) := by
    rw [leftBy_status order b writes last, statusDue_begins (reloaded_runs order b runs) (same.trans page)]
  have latched : pageSide (beginPage (reloaded order b))
      = { pageSide (reloaded order b) with page := some ⟨pageBody (reloaded order b), 0⟩ } := by
    unfold pageSide
    rw [beginPage_status]
  refine ⟨?_, begins⟩
  rw [frameBoundary_pageSide, begins, latched, side, ← page_asFound]
  rfl

/-- The jobs that stand before and after the page job that begins. -/
theorem page_joins (begins : leftBy .status order b = beginPage (reloaded order b)) :
    (∃ before after, (frameBoundary order b).status.order = b.status.order ++ before ++ .page :: after
      ∧ (∀ j ∈ before, j = .snapshot) ∧ (¬SnapshotWaits b → before = [] ∧ after = []))
    ∧ (b.status.order = [] → (frameBoundary order b).status.order.head? = some .page → b.engine.state ≠ .halted →
      Stands .status (.write b.anchor.statusPage [b.status.edition + 1]) (frameBoundary order b).port) := by
  have expired : (frameExpires b).status = b.status := by rw [frameExpires_eq]
  have earlier : Queues (frameExpires b) (foundBy .status order b) := Queues.takeAll b (not_mem_takersBefore order .status) _
  have later : Queues (leftBy .status order b) (frameBoundary order b) := by
    rw [frameBoundary_eq .status]
    exact Queues.takeAll b (not_mem_takersAfter order .status) _
  obtain ⟨before, found, only⟩ := earlier.joined
  obtain ⟨after, final, -⟩ := later.joined
  have left : (leftBy .status order b).status.order = b.status.order ++ before ++ [.page] := by
    rw [begins, beginPage_status]
    change (foundBy .status order b).status.order ++ _ = _
    rw [found, expired]
  refine ⟨⟨before, after, ?_, only, fun waits => ?_⟩, fun none head runs => ?_⟩
  · rw [final, left, List.append_assoc, List.singleton_append]
  · have still : ¬SnapshotWaits (frameExpires b) := by
      unfold SnapshotWaits
      rw [expired]
      exact waits
    obtain ⟨stays, snapshot⟩ := earlier.stays still
    have none : before = [] := by
      rw [found] at stays
      exact List.append_right_eq_self.1 stays
    have stillLeft : ¬SnapshotWaits (leftBy .status order b) := by
      unfold SnapshotWaits
      rw [begins, beginPage_status]
      change ¬∃ slot a, (foundBy .status order b).status.snapshot = _
      rw [snapshot]
      exact still
    have last := (later.stays stillLeft).1
    rw [final] at last
    exact ⟨none, List.append_right_eq_self.1 last⟩
  · have alone : before = [] := by
      rw [final, left, none] at head
      cases before with
      | nil => rfl
      | cons j rest =>
        have snapshot := only j List.mem_cons_self
        rw [snapshot] at head
        exact absurd head (by simp)
    have first : (reloaded order b).status.order = [] := by
      change (foundBy .status order b).status.order = []
      rw [found, expired, none, alone]
      rfl
    have stands := beginPage_stands first (reloaded_runs order b runs)
    rw [← begins, show (reloaded order b).anchor = b.anchor from foundBy_anchor order b .status,
      (of_pageSide (reloaded_pageSide order b)).2.1] at stands
    exact later.asks (by rw [left]; simp) _ stands

end Sys2Proof.Machine
end

section
/-! SUPPORT. A frame boundary installs, reloads and counts, whatever the order in which the blocks take it (R104). -/

namespace Sys2Proof.Machine

section Parts

variable (order : List BoundaryTaker) (b : Block)

theorem status_write_falls_due (writes : mixes b = true) (last : b.status.countdown = 1) (runs : b.engine.state ≠ .halted) :
    TheStatusWriteFallsDue order b (frameBoundary order b) := by
  refine ⟨fun page => ?_, fun page => ?_⟩
  · obtain ⟨side, begins⟩ := status_begins order b writes last runs page
    obtain ⟨-, edition, latched, skipped⟩ := of_pageSide side
    obtain ⟨⟨before, after, jobs, -, alone⟩, asks⟩ := page_joins order b begins
    refine ⟨skipped, edition, ⟨_, latched, pageBody_is _⟩, by rw [jobs]; simp, fun none waits => ?_,
      fun none head => (asks none head runs).asks⟩
    obtain ⟨noneBefore, noneAfter⟩ := alone fun ⟨slot, a, job⟩ => waits slot a job
    rw [jobs, none, noneBefore, noneAfter]
    rfl
  · obtain ⟨j, some⟩ := Option.ne_none_iff_exists'.1 page
    obtain ⟨-, -, same, skipped⟩ := of_pageSide (status_skips order b writes last runs some)
    exact ⟨same, skipped⟩

theorem scan_takes_boundary :
    let t := frameBoundary order b
    let scanDue := b.engine.state = .running ∧ b.scanner.countdown = 1
    (b.time.pending ≠ none ∨ scanDue → t.scanner.countdown = t.time.inForce.scan)
      ∧ (¬b.time.pending ≠ none → ¬scanDue →
        t.scanner.countdown = if b.engine.state = .running then b.scanner.countdown - 1 else b.scanner.countdown)
      ∧ (scanDue → b.scanner.step = .idle → t.scanner.step = .row [] ∧ t.scanner.scanPending = b.scanner.scanPending
        ∧ Asks .scanner (.read b.anchor.postTable (min 16 b.anchor.slots)) t)
      ∧ (scanDue → b.scanner.step ≠ .idle → t.scanner.step = b.scanner.step ∧ t.scanner.scanPending = true)
      ∧ (¬scanDue → t.scanner.step = b.scanner.step ∧ t.scanner.scanPending = b.scanner.scanPending) := by
  dsimp only
  rw [frameBoundary_time]
  by_cases due : b.engine.state = .running ∧ b.scanner.countdown = 1
  · by_cases idle : b.scanner.step = .idle
    · obtain ⟨scanner, asks⟩ := scanner_starts order b due.1 due.2 idle
      rw [scanner]
      exact ⟨fun _ => rfl, fun _ h => absurd due h, fun _ _ => ⟨rfl, rfl, asks⟩, fun _ h => absurd idle h, fun h => absurd due h⟩
    · rw [scanner_pends order b due.1 due.2 idle]
      exact ⟨fun _ => rfl, fun _ h => absurd due h, fun _ h => absurd h idle, fun _ _ => ⟨rfl, rfl⟩, fun h => absurd due h⟩
  · rw [scanner_waits order b due]
    refine ⟨fun h => if_pos ?_, fun h _ => if_neg ?_, fun h => absurd h due, fun h => absurd h due, fun _ => ⟨rfl, rfl⟩⟩
    · exact Option.isSome_iff_ne_none.2 (h.resolve_right due)
    · exact fun some => h (Option.isSome_iff_ne_none.1 some)

theorem countdowns_take_boundary : CountdownsTakeTheBoundary order b (frameBoundary order b) := by
  obtain ⟨reload, count, begins, pends, waits⟩ := scan_takes_boundary order b
  unfold CountdownsTakeTheBoundary
  dsimp only
  rw [← mixes_iff b]
  refine ⟨reload, count, begins, pends, waits, ?_⟩
  rw [frameBoundary_time]
  by_cases due : mixes b = true ∧ b.status.countdown = 1
  · obtain ⟨writes, last⟩ := due
    have falls := status_write_falls_due order b writes last
    by_cases halted : b.engine.state = .halted
    · obtain ⟨countdown, -, page, skipped⟩ := of_pageSide (status_halted order b halted last)
      exact ⟨fun _ => countdown, fun _ h => absurd ⟨writes, last⟩ h, fun _ h => absurd writes h, fun _ h => absurd halted h,
        fun _ => ⟨page, skipped⟩⟩
    · have countdown : (frameBoundary order b).status.countdown = (expiredTime b.time).inForce.status := by
        cases page : b.status.page with
        | none => exact (of_pageSide (status_begins order b writes last halted page).1).1
        | some j => exact (of_pageSide (status_skips order b writes last halted page)).1
      exact ⟨fun _ => countdown, fun _ h => absurd ⟨writes, last⟩ h, fun _ h => absurd writes h, fun _ _ => falls halted,
        fun h => absurd h (not_or.2 ⟨not_not_intro ⟨writes, last⟩, halted⟩)⟩
  · obtain ⟨countdown, -, page, skipped⟩ := of_pageSide (status_waits order b due)
    rw [countdown]
    refine ⟨fun h => if_pos ?_, fun h _ writes => ?_, fun h stands => ?_, fun h => absurd h due, fun _ => ⟨page, skipped⟩⟩
    · exact Option.isSome_iff_ne_none.2 (h.resolve_right due)
    · exact (if_neg fun some => h (Option.isSome_iff_ne_none.1 some)).trans (if_pos writes)
    · exact (if_neg fun some => h (Option.isSome_iff_ne_none.1 some)).trans (if_neg stands)

theorem loader_and_writer_take_boundary : LoaderAndWriterTakeTheBoundary b (frameBoundary order b) :=
  ⟨loader_stays order b, fun _ _ => loader_takes order b, fun runs _ _ => writer_restarts order b runs⟩

theorem boundary_ends_requests : ABoundaryEndsRequests b (frameBoundary order b) := by
  refine ⟨fun v owner pending place runs => setFrame_first order b pending place runs,
    fun l f owner pending runs noFrame alone staging shadows once places => ?_⟩
  exact setLine_alone order b pending runs noFrame ⟨⟨staging, shadows⟩, alone⟩ once places

end Parts

/-- Settles O18, block by block: what a block finds, what it changes, and that the others leave it. -/
theorem aFrameBoundaryInstallsReloadsAndCounts : Obligations.AFrameBoundaryInstallsReloadsAndCounts := by
  unfold Obligations.AFrameBoundaryInstallsReloadsAndCounts
  intro order b q clocks
  have runs : exec (.frameBoundary order) ⟨b, q⟩ = .next ⟨frameBoundary order b, q⟩ := by
    change execFrameBoundary order ⟨b, q⟩ = _
    rw [execFrameBoundary, answer, clocks]
    rfl
  have time := frameBoundary_time order b
  refine ⟨_, runs, ?_, ?_, ?_, ?_, ?_, ?_, frameBoundary_mem .., frameBoundary_engine .., frameBoundary_control .., line_takes_boundary order b,
    countdowns_take_boundary order b, loader_and_writer_take_boundary order b, boundary_ends_requests order b⟩
  all_goals
    rw [time]
    rfl

end Sys2Proof.Machine
end

section
/-! SUPPORT. Which operations of the scanner, the time base, the outputs, the trigger unit and the engine controller leave the mixer as it
is. -/

namespace Sys2Proof.Machine

@[simp] theorem startScan_mixer (s : Block) : (startScan s).mixer = s.mixer := by simp [startScan]
@[simp] theorem scanDue_mixer (s : Block) : (scanDue s).mixer = s.mixer := by unfold scanDue; split <;> simp
@[simp] theorem endScan_mixer (s : Block) : (endScan s).mixer = s.mixer := by unfold endScan; split <;> simp
@[simp] theorem visit_mixer (taken : Nat) (s : Block) (xs : List (Fin 32)) : (visit taken s xs).mixer = s.mixer := by
  induction xs with
  | nil => exact endScan_mixer s
  | cons i rest ih =>
    rw [visit]
    split
    · exact endScan_mixer s
    · split
      · exact ih
      · split <;> simp
@[simp] theorem rowRead_mixer (row words : List Word) (s : Block) : (rowRead row words s).mixer = s.mixer := by
  unfold rowRead
  dsimp only
  split <;> simp
@[simp] theorem claimDone_mixer (i : Fin 32) (rest : List (Fin 32)) (taken : Nat) (value : Word) (s : Block) :
    (claimDone i rest taken value s).mixer = s.mixer := by
  unfold claimDone
  split
  · dsimp only
    split <;> simp
  · exact visit_mixer ..
@[simp] theorem scannerFault_mixer (s : Block) : (scannerFault s).mixer = s.mixer := by unfold scannerFault; split <;> simp
@[simp] theorem scannerHalt_mixer (s : Block) : (scannerHalt s).mixer = s.mixer := by unfold scannerHalt; split <;> simp
@[simp] theorem countScan_mixer (installed : Bool) (s : Block) : (countScan installed s).mixer = s.mixer := by
  unfold countScan
  dsimp only
  split <;> simp
@[simp] theorem placeFrame_mixer (slot : Fin 32) (v : FrameValues) (s : Block) : (placeFrame slot v s).mixer = s.mixer := by
  unfold placeFrame
  split <;> simp
@[simp] theorem arriveSetFrame_mixer (slot : Fin 32) (period scan status : Word) (s : Block) :
    (arriveSetFrame slot period scan status s).mixer = s.mixer := by
  unfold arriveSetFrame
  split
  · simp
  · split <;> simp
@[simp] theorem dropPendingFrame_mixer (s : Block) : (dropPendingFrame s).mixer = s.mixer := by unfold dropPendingFrame; split <;> simp
@[simp] theorem frameExpires_mixer (s : Block) : (frameExpires s).mixer = s.mixer := by
  unfold frameExpires installFrame
  split <;> simp
@[simp] theorem arriveSetOutputs_mixer (slot : Fin 32) (clock modes inverts : Word) (s : Block) :
    (arriveSetOutputs slot clock modes inverts s).mixer = s.mixer := by
  unfold arriveSetOutputs
  split <;> simp
@[simp] theorem arriveSetTrigger_mixer (t : Fin 8) (slot : Fin 32) (edge debounce action playback bank cue time : Word) (s : Block) :
    (arriveSetTrigger t slot edge debounce action playback bank cue time s).mixer = s.mixer := by
  unfold arriveSetTrigger
  split <;> simp
@[simp] theorem sweepFrom_mixer (bank : Nat) (s : Block) : (sweepFrom bank s).mixer = s.mixer := by
  unfold sweepFrom
  split
  · simp
  · rfl
@[simp] theorem anchorRead_mixer (before words : List Word) (s : Block) : (anchorRead before words s).mixer = s.mixer := by
  unfold anchorRead
  dsimp only
  split
  · simp
  · split
    · simp
    · rfl
@[simp] theorem startDone_mixer (words : List Word) (s : Block) : (startDone words s).mixer = s.mixer := by
  unfold startDone
  split
  · rfl
  · exact anchorRead_mixer ..
  · rw [sweepFrom_mixer]
    split <;> rfl
@[simp] theorem startFault_mixer (s : Block) : (startFault s).mixer = s.mixer := by
  unfold startFault
  split
  · rfl
  · rfl
  · exact sweepFrom_mixer ..
@[simp] theorem releaseReset_mixer (s : Block) : (releaseReset s).mixer = s.mixer := by
  unfold releaseReset
  dsimp only
  split <;> rfl

end Sys2Proof.Machine
end

section
/-! SUPPORT. The mixer sees every playback as it is once the held edits have landed, and holds edits only during a pass (R40): what leaves
this to be seen, and what an edit gives it. -/

namespace Sys2Proof.Machine

/-! ### The views as an invariant -/

/-- What the mixer sees of playback `p` once the held edits have landed (R40). -/
def landedView (s : Block) (p : Fin 8) : PlaybackView := getAt (landEdits s.mixer.views s.mixer.held) p

/-- The mixer's views, with the held edits, are the playbacks' own, and edits are held only during a pass (R40). -/
structure ViewsInv (s : Block) : Prop where
  between : s.mixer.pass = none → s.mixer.held = []
  landed : ∀ p, landedView s p = (playbackOf s p).view

theorem viewsInv_iff (s : Block) : ViewsInv s ↔ viewsOk s = true := by
  have between : (s.mixer.pass = none → s.mixer.held = []) ↔ (s.mixer.pass.isSome || s.mixer.held.isEmpty) = true := by
    cases s.mixer.pass <;> simp
  simp only [viewsOk, Bool.and_eq_true, all_playbacks, beq_iff_eq, ← between]
  exact ⟨fun h => ⟨h.between, h.landed⟩, fun ⟨between, landed⟩ => ⟨between, landed⟩⟩

/-- A mixer that holds no edits between passes is to see, after a list of edits, what it was to see before with these landed. -/
theorem landEdits_handed {m : Mixer} (between : m.pass = none → m.held = []) (es : List HeldEdit) :
    landEdits (handed m es).views (handed m es).held = landEdits (landEdits m.views m.held) es := by
  unfold handed
  split
  · rename_i none
    simp only [between none, landEdits]
  · exact landEdits_append ..

/-- A mixer handed edits holds them only during a pass. -/
theorem handed_between {m : Mixer} (between : m.pass = none → m.held = []) (es : List HeldEdit) (none : (handed m es).pass = none) :
    (handed m es).held = [] := by
  rw [handed_pass] at none
  simpa only [handed, none] using between none

/-- A playback replaced and the edit of it: the mixer is to see the new one (R40). -/
theorem ViewsInv.edited {s : Block} (h : ViewsInv s) {p : Fin 8} {x : Playback} {freed : Nat} :
    ViewsInv (edit p freed (setPlayback p x s)) := by
  have mixer : (edit p freed (setPlayback p x s)).mixer = handed s.mixer [⟨p, x.view, freed⟩] := by
    rw [edit_handed, playbackOf_setPlayback, setPlayback_mixer]
  refine ⟨?_, fun q => ?_⟩
  · rw [mixer]
    exact handed_between h.between _
  · rw [landedView, mixer, landEdits_handed h.between, playbackOf_edit, landEdits, landEdits]
    by_cases e : q = p
    · subst e
      rw [getAt_setAt, playbackOf_setPlayback]
    · rw [getAt_setAt_ne _ _ _ _ e, playbackOf_setPlayback_ne _ _ _ _ e]
      exact h.landed q

/-- The held edits land as the pass ends, and nothing else is to be seen (R40, R67). -/
theorem ViewsInv.passEnds {s : Block} (h : ViewsInv s) {latch : PassLatch} : ViewsInv (passEnds latch s) := ⟨fun _ => rfl, h.landed⟩

/-! ### What the views do not see -/

/-- What leaves the mixer's views, the held edits and what is to be seen of each playback as they are; no pass ends. -/
structure Unseen (s t : Block) : Prop where
  playbacks : ∀ p, (playbackOf t p).view = (playbackOf s p).view
  views : t.mixer.views = s.mixer.views
  held : t.mixer.held = s.mixer.held
  pass : t.mixer.pass = none → s.mixer.pass = none

theorem ViewsInv.unseen {s t : Block} (h : ViewsInv s) (k : Unseen s t) : ViewsInv t := by
  refine ⟨fun none => ?_, fun p => ?_⟩
  · rw [k.held]
    exact h.between (k.pass none)
  · rw [landedView, k.views, k.held, k.playbacks]
    exact h.landed p

/-- `t` with all that the views see taken from `s`. -/
def sameSeen (s t : Block) : Block :=
  { t with
    playbacks := s.playbacks
    mixer := { t.mixer with views := s.mixer.views, held := s.mixer.held, pass := s.mixer.pass } }

namespace Unseen

theorem refl (s : Block) : Unseen s s := ⟨fun _ => rfl, rfl, rfl, id⟩

theorem trans {s t u : Block} (h : Unseen s t) (k : Unseen t u) : Unseen s u :=
  ⟨fun p => (k.playbacks p).trans (h.playbacks p), k.views.trans h.views, k.held.trans h.held, h.pass ∘ k.pass⟩

/-- An operation that changes nothing of it. -/
theorem of_frame {s t : Block} (h : t = sameSeen s t) : Unseen s t := by
  rw [h]
  exact ⟨fun _ => rfl, rfl, rfl, id⟩

theorem of_mixer {s t : Block} (playbacks : t.playbacks = s.playbacks) (mixer : t.mixer = s.mixer) : Unseen s t := by
  refine ⟨fun p => ?_, ?_, ?_, ?_⟩
  · rw [playbackOf, playbackOf, playbacks]
  all_goals rw [mixer]
  exact id

theorem of_posts {s t : Block} (h : Posts s t) : Unseen s t := by
  rw [h.rest]
  exact of_frame rfl

theorem of_tabulates {s t : Block} (h : Tabulates s t) : Unseen s t := by
  rw [h.rest]
  exact of_frame rfl

theorem of_lights {s t : Block} (h : Lights s t) : Unseen s t := by
  rw [h.rest]
  exact of_frame rfl

theorem of_reports {s t : Block} (h : Reports s t) : Unseen s t := by
  rw [h.rest]
  exact of_frame rfl

/-! #### The playbacks and the cue loader -/

theorem setPlayback {p : Fin 8} {x : Playback} {s : Block} (h : x.view = (playbackOf s p).view) : Unseen s (setPlayback p x s) := by
  refine ⟨fun q => ?_, rfl, rfl, id⟩
  by_cases e : q = p
  · subst e
    rw [playbackOf_setPlayback]
    exact h
  · rw [playbackOf_setPlayback_ne _ _ _ _ e]

theorem modPlayback {p : Fin 8} {f : Playback → Playback} {s : Block} (h : ∀ x, (f x).view = x.view) : Unseen s (modPlayback p f s) :=
  setPlayback (h _)

theorem takeLoadJob (s : Block) : Unseen s (takeLoadJob s) := by
  have mixer : (Machine.takeLoadJob s).mixer = s.mixer := by rw [takeLoadJob_rest]
  refine ⟨fun p => ?_, ?_, ?_, ?_⟩
  · obtain ⟨_, same⟩ := takeLoadJob_playback s p
    rw [same]
    rfl
  all_goals rw [mixer]
  exact id

theorem submitLoad (p : Fin 8) (bank : Nat) (search : Search) (s : Block) : Unseen s (submitLoad p bank search s) := by
  refine .trans ?_ (takeLoadJob _)
  refine .trans ?_ (modPlayback fun _ => rfl)
  exact of_frame rfl

theorem followEnd (p : Fin 8) (s : Block) : Unseen s (followEnd p s) := by
  unfold Machine.followEnd
  dsimp only
  split
  · exact setPlayback rfl
  · exact .trans (t := Machine.setPlayback p { playbackOf s p with follow := none } s) (setPlayback rfl) (of_frame rfl)

theorem followIfDue (p : Fin 8) (s : Block) : Unseen s (followIfDue p s) := by
  unfold Machine.followIfDue
  split
  · exact followEnd p s
  · exact refl s

theorem finishHead (p : Fin 8) (code : ResultCode) (v1 v2 : Word) (s : Block) : Unseen s (finishHead p code v1 v2 s) := by
  unfold Machine.finishHead
  split
  · refine .trans ?_ (of_posts (Posts.completeOrigin ..))
    exact modPlayback fun _ => rfl
  · exact refl s

theorem serveLoad (p : Fin 8) (choice : Option (Nat × Search)) (s : Block) : Unseen s (serveLoad p choice s) := by
  unfold Machine.serveLoad
  dsimp only
  refine .trans (modPlayback (f := fun x => { x with follow := none }) (p := p) fun _ => rfl) ?_
  split
  · exact finishHead ..
  · split
    · exact submitLoad ..
    · exact finishHead ..

theorem abandonLoad (p : Fin 8) (s : Block) : Unseen s (abandonLoad p s) := by
  unfold Machine.abandonLoad
  split
  · exact refl s
  · refine .trans ?_ (finishHead ..)
    refine .trans ?_ (modPlayback fun _ => rfl)
    exact of_frame rfl
  · rw [markAbandoned_eq]
    exact of_frame rfl

theorem cancelAndAbandon (p : Fin 8) (s : Block) : Unseen s (cancelAndAbandon p s) := by
  refine .trans ?_ (abandonLoad p _)
  refine .trans ?_ (of_posts (Posts.cancelRequests ..))
  exact setPlayback rfl

theorem queueFull (o : Origin) (s : Block) : Unseen s (queueFull o s) := by
  cases o with
  | post i => exact of_posts (Posts.completePlain ..)
  | trigger t => exact of_frame rfl
  | follow => exact refl s

theorem freeLoad (p : Fin 8) (s : Block) : Unseen s (freeLoad p s) := modPlayback fun _ => rfl

theorem enterUnlock (c : CurrentLoad) (s : Block) : Unseen s (enterUnlock c s) :=
  .trans (t := setCurrent { c with stage := .unlock } s) (of_frame rfl) (of_posts (Posts.ask ..))

theorem readBank (c : CurrentLoad) (stage : LoadStage) (k words : Nat) (s : Block) : Unseen s (readBank c stage k words s) :=
  .trans (t := setCurrent { c with stage := stage } s) (of_frame rfl) (of_posts (Posts.ask ..))

theorem putBack (c : CurrentLoad) (s : Block) : Unseen s (putBack c s) := by
  have waiting : Unseen s (Machine.modPlayback c.job.playback (fun x => { x with load := .waiting }) s) := modPlayback fun _ => rfl
  refine .trans ?_ (takeLoadJob _)
  exact waiting.trans (of_frame rfl)

/-- Entries inserted join the incoming list, which the mixer does not read (R29, R40). -/
theorem takeEntries_view (words : List Word) (x : Playback) : (takeEntries x words).1.view = x.view := by
  induction words generalizing x with
  | nil => rfl
  | cons w rest ih =>
    unfold takeEntries
    split
    · exact ih _
    · rfl

theorem loaderBoundary (s : Block) : Unseen s (loaderBoundary s) := by
  refine .trans ?_ (takeLoadJob _)
  exact of_frame rfl

/-! #### The mixer and the engine controller -/

theorem passStarts (s : Block) : Unseen s (passStarts s) := by
  have installed : Unseen s (installTables (modStore (fun f => { f with complete := false }) s)) := by
    refine .trans ?_ (of_tabulates (Tabulates.installTables _))
    exact of_frame rfl
  have latched : ∀ (l : PassLatch) (t : Block), Unseen t (modMixer (fun m => { m with pass := some l }) t) :=
    fun _ _ => ⟨fun _ => rfl, rfl, rfl, nofun⟩
  exact installed.trans (latched _ _)

theorem mixerBoundary (s : Block) : Unseen s (mixerBoundary s) := by
  have swapped : Unseen s (if swaps s then swap s else s) := by
    split
    · refine .trans ?_ (of_reports (Reports.copySnapshot _))
      exact of_frame rfl
    · exact refl s
  unfold Machine.mixerBoundary
  split
  · split
    · exact of_frame rfl
    · exact refl s
  · dsimp only
    split
    · exact swapped.trans (passStarts _)
    · exact swapped

/-- A block takes the boundary: a pass can start, and none ends (R73, R74). -/
theorem takeBoundary (installed : Bool) (y : BoundaryTaker) (s : Block) : Unseen s (takeBoundary installed y s) := by
  cases y with
  | mixer => exact mixerBoundary s
  | loader => exact loaderBoundary s
  | line l => exact of_lights (Lights.lineBoundary ..)
  | scanner => exact of_mixer (countScan_playbacks ..) (countScan_mixer ..)
  | status => exact of_reports (Reports.countStatus ..)
  | results => exact of_reports (Reports.resultsBoundary s)

theorem arriveSetGrand (slot : Fin 32) (level time : Word) (s : Block) : Unseen s (arriveSetGrand slot level time s) := by
  unfold Machine.arriveSetGrand
  split
  · dsimp only
    refine .trans ?_ (of_posts (Posts.complete ..))
    exact of_frame rfl
  · exact of_posts (Posts.completePlain ..)

theorem arriveBlackout (slot : Fin 32) (action : Word) (s : Block) : Unseen s (arriveBlackout slot action s) := by
  unfold Machine.arriveBlackout
  dsimp only
  split
  · refine .trans ?_ (of_posts (Posts.complete ..))
    exact of_frame rfl
  · exact of_posts (Posts.completePlain ..)

/-- A start marks a pass that runs, and ends none (R67). -/
theorem enterStarting (s : Block) : Unseen s (enterStarting s) := by
  refine .trans ?_ (of_posts (Posts.ask ..))
  exact ⟨fun _ => rfl, rfl, rfl, Option.map_eq_none_iff.1⟩

theorem startIfSet (s : Block) : Unseen s (startIfSet s) := by
  unfold Machine.startIfSet
  split
  · exact enterStarting s
  · exact refl s

theorem enterStopped (s : Block) : Unseen s (enterStopped s) := by
  refine .trans ?_ (startIfSet _)
  exact of_frame rfl

theorem abortStart (done : Nat) (s : Block) : Unseen s (abortStart done s) := by
  unfold Machine.abortStart
  split
  · exact of_frame rfl
  · refine .trans ?_ (enterStopped _)
    exact of_frame rfl

theorem endAborted (done : Nat) (s : Block) : Unseen s (endAborted done s) := by
  unfold Machine.endAborted
  split
  · exact refl s
  · dsimp only
    refine .trans ?_ (enterStopped _)
    split <;> exact of_frame rfl

theorem clockLocks (s : Block) : Unseen s (clockLocks s) := by
  unfold Machine.clockLocks
  dsimp only
  split
  · refine .trans ?_ (startIfSet _)
    exact of_frame rfl
  · exact of_frame rfl

end Unseen

end Sys2Proof.Machine
end

section
/-! SUPPORT. Every operation of the playbacks and the cue loader gives the mixer an edit of what it changes, so the views are kept (R40). -/

namespace Sys2Proof.Machine

namespace ViewsInv

variable {s : Block} (h : ViewsInv s)

include h

/-! ### The playbacks (R7 to R24) -/

theorem fadeEnds {p : Fin 8} : ViewsInv (fadeEnds p s) := by
  unfold Machine.fadeEnds
  dsimp only
  split
  · exact (h.edited.unseen (t := raiseInt .playback _) (.of_frame rfl)).unseen (Unseen.followIfDue ..)
  · exact h.edited.unseen (.of_frame rfl)
  · exact h

theorem fadeEndIfDue {p : Fin 8} : ViewsInv (fadeEndIfDue p s) := by
  unfold Machine.fadeEndIfDue
  split
  · exact h.fadeEnds
  · exact h

theorem servePause {p : Fin 8} : ViewsInv (servePause p s) := by
  unfold Machine.servePause
  dsimp only
  split
  · exact h.edited.unseen (Unseen.finishHead ..)
  · exact h.edited.unseen (Unseen.finishHead ..)
  · exact h.edited.unseen (Unseen.finishHead ..)
  · exact h.unseen (Unseen.finishHead ..)

theorem serveResume {p : Fin 8} : ViewsInv (serveResume p s) := by
  unfold Machine.serveResume
  dsimp only
  split
  · exact (h.edited.unseen (Unseen.finishHead ..)).fadeEndIfDue
  · exact (h.edited.unseen (Unseen.finishHead ..)).fadeEndIfDue
  · exact (h.edited.unseen (Unseen.finishHead ..)).unseen (Unseen.followIfDue ..)
  · exact h.unseen (Unseen.finishHead ..)

theorem serveHead {p : Fin 8} : ViewsInv (serveHead p s) := by
  unfold Machine.serveHead
  dsimp only
  split
  · exact h
  · split
    · exact h.unseen (Unseen.serveLoad ..)
    · exact h.unseen (Unseen.serveLoad ..)
    · exact h.servePause
    · exact h.serveResume

theorem serveUpTo {n : Nat} {p : Fin 8} : ViewsInv (serveUpTo n p s) := by
  induction n generalizing s with
  | zero => exact h
  | succ n ih =>
    unfold Machine.serveUpTo
    split
    · exact ih h.serveHead
    · exact h

theorem serve {p : Fin 8} : ViewsInv (serve p s) := h.serveUpTo

theorem arriveQueued {p : Fin 8} {o : Origin} {k : QueuedKind} : ViewsInv (arriveQueued p o k s) := by
  unfold Machine.arriveQueued
  split
  · split
    · have joined : ViewsInv (modPlayback p (fun x => { x with queue := x.queue ++ [⟨o, k⟩] }) s) :=
        h.unseen (Unseen.modPlayback fun _ => rfl)
      exact joined.serve
    · exact h.unseen (Unseen.queueFull ..)
  · exact h.unseen (.of_posts (Posts.completeOrigin ..))

theorem arriveRelease {p : Fin 8} {o : Origin} {time : Option Nat} : ViewsInv (arriveRelease p o time s) := by
  have cleared : ViewsInv (modPlayback p (fun x => { x with follow := none }) (cancelAndAbandon p s)) :=
    (h.unseen (Unseen.cancelAndAbandon ..)).unseen (Unseen.modPlayback fun _ => rfl)
  unfold Machine.arriveRelease
  dsimp only
  split
  · split
    · exact cleared.unseen (.of_posts (Posts.completeOrigin ..))
    · have built : ViewsInv (releaseBuild p time (modPlayback p (fun x => { x with follow := none }) (cancelAndAbandon p s))) :=
        cleared.edited
      exact built.fadeEndIfDue.unseen (.of_posts (Posts.completeOrigin ..))
  · exact h.unseen (.of_posts (Posts.completeOrigin ..))

theorem arriveSetMaster {p : Fin 8} {slot : Fin 32} {level time : Word} : ViewsInv (arriveSetMaster p slot level time s) := by
  unfold Machine.arriveSetMaster
  split
  · exact h.edited.unseen (.of_posts (Posts.complete ..))
  · exact h.unseen (.of_posts (Posts.completePlain ..))

theorem masterSettles {p : Fin 8} : ViewsInv (masterSettles p s) := h.edited

theorem clearPlayback {p : Fin 8} : ViewsInv (clearPlayback p s) := (h.unseen (Unseen.cancelAndAbandon p s)).edited

theorem clearPlaybacks : ViewsInv (clearPlaybacks s) := foldl_invariant (fun _ _ k => k.clearPlayback) allPlaybacks h

/-! ### The cue loader (R10, R11, R48 to R60) -/

theorem loadCompleted {p : Fin 8} {bank : Nat} {c : CueHeader} : ViewsInv (loadCompleted p bank c s) := by
  have stamped : ViewsInv { s with mixer := { s.mixer with takeStamp := nextStamp s.mixer.takeStamp } } := h.unseen (.of_frame rfl)
  exact (stamped.edited.unseen (Unseen.finishHead ..)).fadeEndIfDue.serve

theorem loadEnded {p : Fin 8} {code : ResultCode} : ViewsInv (loadEnded p code s) := by
  have ended : ViewsInv (modPlayback p (fun x => { x with load := .none }) s) := h.unseen (Unseen.modPlayback fun _ => rfl)
  exact (ended.unseen (Unseen.finishHead ..)).serve

theorem endUnfinished {c : CurrentLoad} {code : ResultCode} : ViewsInv (endUnfinished c code s) := by
  have idle : ViewsInv { s with loader := { s.loader with current := none } } := h.unseen (.of_frame rfl)
  exact idle.loadEnded.unseen (Unseen.takeLoadJob _)

theorem failLoad {c : CurrentLoad} {code : ResultCode} : ViewsInv (failLoad c code s) := by
  have freed : ViewsInv (freeLoad c.job.playback s) := h.unseen (Unseen.freeLoad ..)
  unfold Machine.failLoad
  dsimp only
  split
  · exact freed.unseen (Unseen.enterUnlock ..)
  · exact freed.endUnfinished

theorem lockDone {c : CurrentLoad} {value : Word} : ViewsInv (lockDone c value s) := by
  unfold Machine.lockDone
  dsimp only
  split
  · split
    · exact h.failLoad
    · exact h.unseen (Unseen.readBank ..)
  · split
    · exact h.failLoad
    · split
      · exact h.unseen (Unseen.putBack ..)
      · exact h.failLoad

theorem countRead {c : CurrentLoad} {n : Nat} : ViewsInv (countRead c n s) := by
  unfold Machine.countRead
  split
  · exact h.failLoad
  · split
    · exact h.failLoad
    · exact h.unseen (Unseen.readBank ..)

theorem directoryRead {c : CurrentLoad} {count position : Nat} {words : List Word} : ViewsInv (directoryRead c count position words s) := by
  unfold Machine.directoryRead
  dsimp only
  split
  · split
    · split
      · exact h.failLoad
      · exact h.unseen (Unseen.readBank ..)
    · exact h.failLoad
  · split
    · exact h.unseen (Unseen.readBank ..)
    · exact h.failLoad

theorem headerRead {c : CurrentLoad} {number offset : Nat} {words : List Word} : ViewsInv (headerRead c number offset words s) := by
  unfold Machine.headerRead
  split
  · exact h.failLoad
  · dsimp only
    split
    · rename_i kept _ _
      have reserved : ViewsInv (modPlayback c.job.playback (fun x => { x with reservation := kept.count }) s) :=
        h.unseen (Unseen.modPlayback fun _ => rfl)
      split
      · exact reserved.unseen (Unseen.enterUnlock ..)
      · exact reserved.unseen (Unseen.readBank ..)
    · exact h.failLoad

theorem entriesRead {c : CurrentLoad} {offset position : Nat} {words : List Word} : ViewsInv (entriesRead c offset position words s) := by
  have filled := h.unseen (Unseen.setPlayback (Unseen.takeEntries_view (words.take ((c.header.map CueHeader.count).getD 0 - position))
    (playbackOf s c.job.playback)))
  unfold Machine.entriesRead
  dsimp only
  split
  · split
    · exact filled.unseen (Unseen.readBank ..)
    · exact filled.unseen (Unseen.enterUnlock ..)
  · exact filled.failLoad

theorem unlockDone {c : CurrentLoad} : ViewsInv (unlockDone c s) := by
  unfold Machine.unlockDone
  split
  · have idle := (h.unseen (Unseen.modPlayback (p := c.job.playback) (f := fun x => { x with reservation := 0 }) fun _ => rfl)).unseen
      (t := { modPlayback c.job.playback (fun x => { x with reservation := 0 }) s with loader := { s.loader with current := none } })
      (.of_frame rfl)
    exact idle.loadCompleted.unseen (Unseen.takeLoadJob _)
  · exact (h.unseen (Unseen.freeLoad ..)).endUnfinished

theorem loaderDone {words : List Word} : ViewsInv (loaderDone words s) := by
  unfold Machine.loaderDone
  split
  · exact h
  · split
    · exact h.lockDone
    · exact h.unlockDone
    · split
      · exact h.failLoad
      · exact h.countRead
    · split
      · exact h.failLoad
      · exact h.directoryRead
    · split
      · exact h.failLoad
      · exact h.headerRead
    · split
      · exact h.failLoad
      · exact h.entriesRead

theorem loaderFault {read : Bool} : ViewsInv (loaderFault read s) := by
  have stuck : ViewsInv (countStuck s) := h.unseen (.of_frame rfl)
  unfold Machine.loaderFault
  split
  · exact h
  · split
    · split
      · exact (stuck.unseen (Unseen.freeLoad ..)).endUnfinished
      · exact (h.unseen (Unseen.freeLoad ..)).endUnfinished
    · exact (stuck.unseen (Unseen.freeLoad ..)).endUnfinished
    · exact h.failLoad
    · exact h.failLoad
    · exact h.failLoad
    · exact h.failLoad

theorem haltCurrent : ViewsInv (haltCurrent s) := by
  unfold Machine.haltCurrent
  split
  · exact h
  · dsimp only
    refine ViewsInv.loadEnded (.unseen ?_ (Unseen.freeLoad ..))
    split <;> exact h.unseen (.of_frame rfl)

theorem loaderHalt : ViewsInv (loaderHalt s) := by
  have emptied : ViewsInv { s with loader := { s.loader with queue := [] } } := h.unseen (.of_frame rfl)
  exact (foldl_invariant (fun _ _ k => k.loadEnded) s.loader.queue emptied).haltCurrent

end ViewsInv

end Sys2Proof.Machine
end

section
/-! SUPPORT. Every command keeps the mixer's views equal to the playbacks, one case for each (R40); O58. -/

namespace Sys2Proof.Machine

namespace ViewsInv

section

variable {s : Block} (h : ViewsInv s)

include h

theorem posts {t : Block} (k : Posts s t) : ViewsInv t := h.unseen (.of_posts k)

theorem tabulates {t : Block} (k : Tabulates s t) : ViewsInv t := h.unseen (.of_tabulates k)

theorem lights {t : Block} (k : Lights s t) : ViewsInv t := h.unseen (.of_lights k)

theorem reports {t : Block} (k : Reports s t) : ViewsInv t := h.unseen (.of_reports k)

/-- Work at rest, and the mixer as it was. -/
theorem rests {t : Block} (k : Rests s t) (mixer : t.mixer = s.mixer) : ViewsInv t := h.unseen (.of_mixer k.playbacks mixer)

/-! ### Requests and the scanner (R171 to R174) -/

theorem withTarget {n : Nat} {slot : Fin 32} {w : Word} {f : Fin n → Block → Block} (k : ∀ x, ViewsInv (f x s)) :
    ViewsInv (withTarget n slot w f s) := by
  unfold Machine.withTarget
  split
  · exact k _
  · exact h.posts (Posts.completePlain ..)

/-- A request reaches its owner by its kind (R174). -/
theorem dispatch {slot : Fin 32} {words : List Word} : ViewsInv (dispatch slot words s) := by
  unfold Machine.dispatch
  dsimp only
  split
  · exact h.rests (Rests.arriveSetFrame ..) (arriveSetFrame_mixer ..)
  · exact h.withTarget fun _ => h.lights (Lights.arriveSetLine ..)
  · exact h.rests (Rests.arriveSetOutputs ..) (arriveSetOutputs_mixer ..)
  · exact h.withTarget fun _ => h.rests (Rests.arriveSetTrigger ..) (arriveSetTrigger_mixer ..)
  · exact h.tabulates (Tabulates.arrivePatch ..)
  · exact h.tabulates (Tabulates.arriveCurve ..)
  · exact h.unseen (Unseen.arriveSetGrand ..)
  · exact h.unseen (Unseen.arriveBlackout ..)
  · exact h.reports (Reports.arriveSnapshot ..)
  · exact h.withTarget fun _ => h.lights (Lights.arriveClearLine ..)
  · exact h.withTarget fun _ => h.lights (Lights.arriveQuery ..)
  · exact h.withTarget fun _ => h.arriveQueued
  · exact h.withTarget fun _ => h.arriveQueued
  · exact h.withTarget fun _ => h.arriveQueued
  · exact h.withTarget fun _ => h.arriveQueued
  · exact h.withTarget fun _ => h.arriveRelease
  · exact h.withTarget fun _ => h.arriveSetMaster
  · exact h.posts (Posts.completePlain ..)

theorem scannerDone {words : List Word} : ViewsInv (scannerDone words s) := by
  unfold Machine.scannerDone
  split
  · exact h
  · exact h.unseen (.of_mixer (rowRead_playbacks ..) (rowRead_mixer ..))
  · exact h.unseen (.of_mixer (claimDone_playbacks ..) (claimDone_mixer ..))
  · unfold bodyDone
    split
    · exact h.dispatch.unseen (.of_mixer (visit_playbacks ..) (visit_mixer ..))
    · exact (h.posts (Posts.completePlain ..)).rests (Rests.endScan _) (endScan_mixer _)

/-! ### The port (R182 to R189) -/

theorem clientDone {c : Client} {words : List Word} : ViewsInv (clientDone c words s) := by
  have started : ViewsInv (startDone words s) := h.rests (Rests.startDone ..) (startDone_mixer ..)
  cases c with
  | scanner =>
    unfold Machine.clientDone
    dsimp only
    split
    · exact started
    · exact h.scannerDone
  | results => exact h.reports (Reports.resultsDone s)
  | loader =>
    unfold Machine.clientDone
    dsimp only
    split
    · exact started
    · exact h.loaderDone
  | tables => exact h.tabulates (Tabulates.tablesDone ..)
  | talkback => exact h.lights (Lights.endReply .ok s)
  | status => exact h.reports (Reports.statusDone s)

theorem clientFault {c : Client} {words : List Word} : ViewsInv (clientFault c words s) := by
  have started : ViewsInv (startFault s) := h.rests (Rests.startFault s) (startFault_mixer s)
  cases c with
  | scanner =>
    unfold Machine.clientFault
    dsimp only
    split
    · exact started
    · exact h.rests (Rests.scannerFault s) (scannerFault_mixer s)
  | results => exact h.reports (Reports.setWriter ..)
  | loader =>
    unfold Machine.clientFault
    dsimp only
    split
    · exact started
    · exact h.loaderFault
  | tables => exact h.tabulates (Tabulates.tablesFault s)
  | talkback => exact h.lights (Lights.endReply .busFault s)
  | status => exact h.reports (Reports.statusFault s)

theorem enterHalted : ViewsInv (enterHalted s) := by
  have reported : ViewsInv (raiseInt .fault { s with
      engine := { s.engine with state := .halted, fault := .busHalt, start := .idle, aborting := false }
      port := s.port.withdraw }) := h.unseen (.of_frame rfl)
  have ended := (reported.rests (Rests.scannerHalt _) (scannerHalt_mixer _)).loaderHalt
  exact (((ended.tabulates (Tabulates.tablesHalt _)).lights (Lights.talkbackHalt _)).reports (Reports.statusHalt _)).reports
    (Reports.resultsHalt _)

theorem endDone {t : Tenure} : ViewsInv (endDone t s) := by
  have performed : ViewsInv { perform (t.reach (tenureLength t.kind s.mem) s.mem).kind (t.reach (tenureLength t.kind s.mem) s.mem).done s with
      port := { s.port.release with consecutive := 0 } } := h.unseen (.of_frame rfl)
  exact performed.clientDone.unseen (.of_frame rfl)

theorem endTenure : ViewsInv (endTenure s) := by
  unfold Machine.endTenure
  split
  · exact h.endDone
  · exact h

theorem endFaulted {t : Tenure} {done : Nat} {landed : Bool} : ViewsInv (endFaulted t done landed s) := by
  have counted : ViewsInv (countFault (t.underWay done s.mem) landed s) := h.unseen (.of_frame rfl)
  have halted : ViewsInv (modEngine (fun e => { e with state := .halted }) (countFault (t.underWay done s.mem) landed s)) :=
    counted.unseen (.of_frame rfl)
  unfold Machine.endFaulted
  dsimp only
  split
  · exact halted.clientFault.enterHalted
  · split
    · exact counted.unseen (Unseen.enterStopped _)
    · exact counted.clientFault.unseen (.of_frame rfl)

theorem faultTenure {done : Nat} {landed : Bool} : ViewsInv (faultTenure done landed s) := by
  unfold Machine.faultTenure
  split
  · exact h.endFaulted
  · exact h

theorem grantTimesOut : ViewsInv (grantTimesOut s) := by
  unfold Machine.grantTimesOut
  split
  · exact h.endFaulted
  · exact h

/-! ### CONTROL (R190 to R194) -/

theorem enterStopping : ViewsInv (enterStopping s) := by
  have stopping : ViewsInv (modEngine (fun e => { e with state := .stopping }) s) := h.unseen (.of_frame rfl)
  have talkback := (stopping.clearPlaybacks.tabulates (Tabulates.tablesStop _)).lights (Lights.talkbackStop _)
  have lines := (talkback.rests (Rests.dropPendingFrame _) (dropPendingFrame_mixer _)).lights (Lights.dropPendingLines _)
  have holds : ∀ t : Block, Unseen t (modStore (fun f => { f with hold := true }) t) := fun _ => .of_frame rfl
  exact (lines.reports (Reports.statusStop _)).unseen (holds _)

theorem leaveHalted : ViewsInv (leaveHalted s) := by
  have frame := h.clearPlaybacks.rests (Rests.dropPendingFrame _) (dropPendingFrame_mixer _)
  have lines := (frame.lights (Lights.dropPendingLines _)).lights (Lights.forgetQueries _)
  exact lines.unseen (Unseen.enterStopped _)

theorem writeControl {v : Word} {done : Nat} : ViewsInv (writeControl v done s) := by
  have written : ViewsInv { s with control := controlOf v } := h.unseen (.of_frame rfl)
  unfold Machine.writeControl
  dsimp only
  split
  · exact written.unseen (Unseen.startIfSet _)
  · exact written.unseen (Unseen.abortStart ..)
  · exact written.enterStopping
  · exact written.leaveHalted
  · exact written

/-! ### Events of time and triggers -/

theorem frameBoundary {order : List BoundaryTaker} : ViewsInv (frameBoundary order s) :=
  foldl_invariant (fun _ _ k => k.unseen (Unseen.takeBoundary ..)) _ (h.rests (Rests.frameExpires s) (frameExpires_mixer s))

theorem endPass : ViewsInv (endPass s) := by
  unfold Machine.endPass
  split
  · exact foldl_invariant (fun _ l k => k.lights (Lights.commit l _)) allLines h.passEnds
  · exact h

theorem performAction {t : Fin 8} {r : TriggerRecord} : ViewsInv (performAction t r s) := by
  unfold Machine.performAction
  split
  · exact h
  · exact h.arriveQueued
  · exact h.arriveQueued
  · exact h.arriveQueued
  · exact h.arriveQueued
  · exact h.arriveRelease
  · exact h.unseen (.of_frame rfl)

theorem settle {t : Fin 8} {level : Bool} : ViewsInv (settle t level s) := by
  have moved : ViewsInv (modTrigger t (fun g => { g with settled := level, timer := none }) s) := h.unseen (.of_frame rfl)
  unfold Machine.settle examineEdge
  dsimp only
  split
  · have accepted := moved.unseen (t := raiseInt .trigger (modTrigger t (fun g => { g with accepted := countUp g.accepted })
      (modTrigger t (fun g => { g with settled := level, timer := none }) s))) (.of_frame rfl)
    split
    · exact accepted.performAction
    · exact accepted
  · exact moved

theorem pinChanges {t : Fin 8} {level : Bool} : ViewsInv (pinChanges t level s) := by
  unfold Machine.pinChanges
  dsimp only
  split
  · exact h
  · split
    · exact h.unseen (.of_frame rfl)
    · split
      · exact (h.unseen (t := modTrigger t (fun g => { g with pin := level }) s) (.of_frame rfl)).settle
      · exact h.unseen (.of_frame rfl)

theorem receiverEvent {l : Fin 4} {frame : Line → Line} {reply : Block → Block} (k : Lights s (reply s)) :
    ViewsInv (receiverEvent l frame reply s) := by
  unfold Machine.receiverEvent
  dsimp only
  split
  · exact h.unseen (.of_frame rfl)
  · split
    · exact h.lights k
    · exact h

end

/-! ### Resets (R195) -/

theorem reset : ViewsInv Block.reset := by
  refine ⟨fun _ => rfl, fun p => ?_⟩
  simp only [landedView, Block.reset, Mixer.reset, landEdits, playbackOf, getAt, Vector.getElem_replicate]
  rfl

theorem coldReset {landed : Nat} {s : Block} : ViewsInv (coldReset landed s) := reset.unseen (.of_frame rfl)

theorem warmReset {cause : ResetCause} {landed : Nat} {s : Block} : ViewsInv (warmReset cause landed s) := reset.unseen (.of_frame rfl)

/-! ### Commands -/

/-- A request's place is reserved, and its owner takes it (R172, R174). -/
theorem requested {slot : Fin 32} {owner : Block → Block} {s t : State} (e : request slot owner s = .next t) (h : ViewsInv s.block)
    (k : ∀ b, ViewsInv b → ViewsInv (owner b)) : ViewsInv t.block :=
  holds_of_answer (f := fun b => owner (reservePlace slot b)) e h (k _ (h.unseen (.of_frame rfl)))

/-- Every command keeps the views. -/
theorem exec {c : Instr} {s t : State} (h : ViewsInv s.block) (e : exec c s = .next t) : ViewsInv t.block := by
  cases c with
  | coldReset landed => exact holds_of_answer e h coldReset
  | resetPin landed => exact holds_of_answer e h warmReset
  | softReset value landed => exact holds_of_answer e h warmReset
  | clockReady => exact holds_of_answer e h (h.unseen (Unseen.clockLocks _))
  | runSet value => exact holds_of_answer e h h.writeControl
  | runClear write => exact holds_of_answer e h h.writeControl
  | stoppingDrained => exact holds_of_answer e h (h.unseen (Unseen.enterStopped _))
  | controlBlackout write => exact holds_of_answer e h h.writeControl
  | controlHold write => exact holds_of_answer e h h.writeControl
  | controlWait write => exact holds_of_answer e h h.writeControl
  | anchorWrite value => exact holds_of_answer (f := fun b => { b with anchorReg := value }) e h (h.unseen (.of_frame rfl))
  | nudge value => exact holds_of_answer e h (h.rests (Rests.scanDue _) (scanDue_mixer _))
  | intstatusWrite value =>
    exact holds_of_answer (f := fun b => { b with intStatus := b.intStatus &&& ~~~clearedBits value b.engine.state }) e h
      (h.unseen (.of_frame rfl))
  | intmaskWrite value => exact holds_of_answer (f := fun b => { b with intMask := value.setWidth 6 }) e h (h.unseen (.of_frame rfl))
  | registerWriteOther offset value => exact holds_of_answer (f := fun b => b) e h h
  | frameBoundary order => exact holds_of_answer e h h.frameBoundary
  | mixComplete => exact holds_of_answer e h h.endPass
  | setFrame slot period scan status => exact requested e h fun _ k => k.rests (Rests.arriveSetFrame ..) (arriveSetFrame_mixer ..)
  | setLine slot line mode rate count talkback base timeout action =>
    exact requested e h fun _ k => k.withTarget fun _ => k.lights (Lights.arriveSetLine ..)
  | setOutputs slot clock modes inverts => exact requested e h fun _ k => k.rests (Rests.arriveSetOutputs ..) (arriveSetOutputs_mixer ..)
  | setTrigger slot trigger edge debounce action playback bank cue time =>
    exact requested e h fun _ k => k.withTarget fun _ => k.rests (Rests.arriveSetTrigger ..) (arriveSetTrigger_mixer ..)
  | patch slot address count => exact requested e h fun _ k => k.tabulates (Tabulates.arrivePatch ..)
  | loadCurve slot curve address => exact requested e h fun _ k => k.tabulates (Tabulates.arriveCurve ..)
  | setGrand slot level time => exact requested e h fun _ k => k.unseen (Unseen.arriveSetGrand ..)
  | blackout slot action => exact requested e h fun _ k => k.unseen (Unseen.arriveBlackout ..)
  | snapshot slot address => exact requested e h fun _ k => k.reports (Reports.arriveSnapshot ..)
  | clearLineStatus slot line => exact requested e h fun _ k => k.withTarget fun _ => k.lights (Lights.arriveClearLine ..)
  | query slot line address code count bytes0 bytes4 reply =>
    exact requested e h fun _ k => k.withTarget fun _ => k.lights (Lights.arriveQuery ..)
  | go slot playback bank cue time => exact requested e h fun _ k => k.withTarget fun _ => k.arriveQueued
  | goNext slot playback bank => exact requested e h fun _ k => k.withTarget fun _ => k.arriveQueued
  | pause slot playback => exact requested e h fun _ k => k.withTarget fun _ => k.arriveQueued
  | resume slot playback => exact requested e h fun _ k => k.withTarget fun _ => k.arriveQueued
  | release slot playback time => exact requested e h fun _ k => k.withTarget fun _ => k.arriveRelease
  | setMaster slot playback level time => exact requested e h fun _ k => k.withTarget fun _ => k.arriveSetMaster
  | fadeEnd p => exact holds_of_answer (f := fun b => Machine.serve p (Machine.fadeEnds p b)) e h h.fadeEnds.serve
  | followExpiry p =>
    exact holds_of_answer (f := fun b => Machine.serve p (followEnd p b)) e h (h.unseen (Unseen.followEnd ..)).serve
  | masterSettling p => exact holds_of_answer e h h.masterSettles
  | grandSettling => exact holds_of_answer e h (h.unseen (.of_frame rfl))
  | mgntGrant stores => exact holds_of_answer e h (h.unseen (.of_frame rfl))
  | tenureEnd => exact holds_of_answer e h h.endTenure
  | grantTimeout => exact holds_of_answer e h h.grantTimesOut
  | readyTimeout done landed => exact holds_of_answer e h h.faultTenure
  | busError done landed => exact holds_of_answer e h h.faultTenure
  | levelFrameEnd l => exact holds_of_answer e h (h.lights (Lights.levelFrameEnded ..))
  | trailEnd l => exact holds_of_answer e h (h.lights (Lights.trailEnded ..))
  | queryFrameEnd l => exact holds_of_answer e h (h.lights (Lights.queryFrameEnded ..))
  | turnaroundEnd l => exact holds_of_answer e h (h.lights (Lights.turnaroundEnded ..))
  | replyStart l => exact holds_of_answer e h (h.lights (Lights.replyStarts ..))
  | replyStartTimeout l => exact holds_of_answer e h (h.lights (Lights.replyTimesOut ..))
  | replyCharacter l flag data => exact holds_of_answer e h (h.lights (Lights.talkbackCharacter ..))
  | replyCollision l kind => exact holds_of_answer e h (h.lights (Lights.replyCollides ..))
  | replyGapExpiry l => exact holds_of_answer e h (h.lights (Lights.replyGap ..))
  | queryWindowEnd l => exact holds_of_answer e h (h.lights (Lights.windowEnds ..))
  | rxBreak l => exact holds_of_answer e h (h.receiverEvent (Lights.replyCollides ..))
  | rxBreakEnd l => exact holds_of_answer e h (h.receiverEvent (Lights.refl _))
  | rxCharacter l flag data =>
    refine holds_of_answer (f := fun b =>
      if (lineOf b l).config.mode.receives then receiveCharacter l flag data b else talkbackCharacter l flag data b) e h ?_
    split
    · exact h.lights (Lights.receiveCharacter ..)
    · exact h.lights (Lights.talkbackCharacter ..)
  | rxLowStop l => exact holds_of_answer e h (h.receiverEvent (Lights.replyCollides ..))
  | rxGapExpiry l => exact holds_of_answer e h (h.receiverEvent (Lights.replyGap ..))
  | signalTimerExpiry l => exact holds_of_answer e h (h.lights (Lights.signalExpires ..))
  | pwmPeriodEnd => exact holds_of_answer e h (h.unseen (.of_frame rfl))
  | triggerPinChange t level =>
    refine holds_of_answer e h ?_
    split
    · exact h.pinChanges
    · exact h.unseen (.of_frame rfl)
  | debounceExpiry t => exact holds_of_answer e h h.settle
  | startOfALow l => exact holds_of_answer e h (h.receiverEvent (Lights.replyStarts ..))
  | tenureEnded done => exact holds_of_answer e h (h.unseen (Unseen.endAborted ..))
  | resetRelease => exact holds_of_answer e h (h.rests (Rests.releaseReset _) (releaseReset_mixer _))
  | millisecondBaseTick => exact holds_of_answer e h (h.unseen (.of_frame rfl))

/-- Every step keeps the views. -/
theorem step {s t : State} (h : ViewsInv s.block) (e : step s = .next t) : ViewsInv t.block := by
  unfold Machine.step at e
  split at e
  · cases e
    exact h
  · rename_i rest _
    exact exec (s := { s with pending := rest }) h e

end ViewsInv

/-- Settles O58: each change of a playback that the mixer sees comes with its edit, edits are held only during a pass, and the pass's end
lands them all. -/
theorem everyStepKeepsTheViews : Obligations.EveryStepKeepsTheViews := by
  unfold Obligations.EveryStepKeepsTheViews
  intro s t ok e
  exact (viewsInv_iff _).1 (((viewsInv_iff _).2 ok).step e)

end Sys2Proof.Machine
end

section
/-! SUPPORT. The entry of the engine into STARTING and STOPPED (R67, R192), and the abort of a start (R62, R182, R187). -/

namespace Sys2Proof.Machine

/-! ### Entering STARTING and STOPPED -/

theorem start_nextClient {p : Port} (c : Client) (k : TenureKind) (free : p.nextClient = none) : (p.start c k).nextClient = none := by
  rw [nextClient_none] at free ⊢
  intro d
  rw [Port.waitingOf, Port.start, getAt_setAt_ite]
  split
  · rfl
  · exact free d

/-- The engine is STOPPED. -/
def stoppedEngine (e : Engine) : Engine := { e with state := .stopped, start := .idle, aborting := false }

theorem enterStopped_rests {s : Block} (run : s.control.run = false) : enterStopped s = { s with engine := stoppedEngine s.engine } :=
  if_neg fun both => by
    have set : s.control.run = true := both.2.1
    exact Bool.false_ne_true (run.symm.trans set)

theorem enterStopped_starts {s : Block} (run : s.control.run = true) (ready : s.time.ready = true) :
    enterStopped s = enterStarting { s with engine := stoppedEngine s.engine } := if_pos ⟨rfl, run, ready⟩

/-- Entry into STARTING changes the engine, the port, the mixer and the frame store. -/
theorem enterStarting_eq (s : Block) : enterStarting s = { s with
    engine := (enterStarting s).engine, port := (enterStarting s).port, mixer := (enterStarting s).mixer, store := (enterStarting s).store } := by
  unfold enterStarting
  rw [ask_eq]

theorem enterStopped_eq (s : Block) : enterStopped s = { s with
    engine := (enterStopped s).engine, port := (enterStopped s).port, mixer := (enterStopped s).mixer, store := (enterStopped s).store } := by
  unfold enterStopped startIfSet
  split
  · rw [enterStarting_eq]
    rfl
  · rfl

theorem starting_runs : EngineState.starting ≠ .halted := by decide

/-- Whatever the engine was doing when it entered STARTING. -/
theorem theStartIsEntered {b s : Block}
    (engine : { s.engine with state := .starting, fault := .none, start := .anchor [], aborting := false }
      = { b.engine with state := .starting, fault := .none, start := .anchor [], aborting := false })
    (anchorReg : s.anchorReg = b.anchorReg) (mixer : s.mixer = b.mixer) (store : s.store = b.store) :
    TheStartIsEntered b (enterStarting s) := by
  refine ⟨?_, ?_, ?_, ?_, ?_⟩
  · rw [← engine, enterStarting, ask_engine]
  · rw [enterStarting, ask_consecutive]
  · rw [← anchorReg]
    exact (stands_ask _ _ starting_runs).asks
  · rw [← mixer, enterStarting, ask_mixer]
  · rw [← store, enterStarting, ask_store]

/-- At an IDLE port with nothing waiting the anchor read begins at once (R188). -/
theorem enterStarting_port {s : Block} (idle : s.port.state = .idle) (none : s.port.nextClient = none) :
    (enterStarting s).port = Port.start { s.port with consecutive := 0 } .scanner (.read s.anchorReg 16) := by
  have begins := ask_idle (s := { s with
    engine := { s.engine with state := .starting, fault := .none, start := .anchor [], aborting := false }
    port := { s.port with consecutive := 0 }
    mixer := { s.mixer with takeStamp := 1, pass := s.mixer.pass.map fun l => { l with restarted := true } }
    store := { s.store with hold := false, complete := false } }) starting_runs idle none .scanner (.read s.anchorReg Config.burst)
  exact congrArg Block.port begins

/-! ### The end of a tenure that an abort waits for (R62, R187) -/

/-- The part at the end of an aborted tenure, `n` of its words done, before the engine is STOPPED. -/
def aborted (tn : Tenure) (n : Nat) (b : Block) : Block :=
  { b with
    mem := performWords tn.kind (tn.reach n b.mem).done b.mem
    port := b.port.release.withdraw
    loader := { b.loader with sweeps := if (tn.reach n b.mem).wrote then countUp b.loader.sweeps else b.loader.sweeps } }

theorem endAborted_some {tn : Tenure} {b : Block} (current : b.port.current = some tn) (done : Nat) :
    endAborted done b = enterStopped (aborted tn (tn.lastWord done) b) := by
  rw [endAborted, current]
  dsimp only
  rw [aborted]
  split <;> rfl

theorem lastWord_lastWord (tn : Tenure) (done : Nat) : tn.lastWord (max tn.done (min done (tn.done + 1))) = tn.lastWord done := by
  unfold Tenure.lastWord
  omega

theorem aborted_write {tn : Tenure} {a : Word} {ws : List Word} (kind : tn.kind = .write a ws) (n : Nat) (b : Block) :
    (aborted tn n b).mem = b.mem.writeBurst a (ws.take n) := by
  rw [aborted, reach_done, kind, performWords, tenureLength, ← List.take_eq_take_min]

/-- A read-modify-write that has not begun its write when it ends makes none. -/
theorem aborted_modify_read {tn : Tenure} {a expect put : Word} (kind : tn.kind = .modify a expect put) {n : Nat} {b : Block}
    (read : n ≤ 1 ∨ b.mem.load (wordAddress a) ≠ expect) :
    (aborted tn n b).mem = b.mem ∧ (aborted tn n b).loader.sweeps = b.loader.sweeps := by
  have few : ¬2 ≤ (tn.reach n b.mem).done := by
    rw [reach_done, kind, tenureLength]
    rcases read with one | other
    · omega
    · rw [if_neg other]
      omega
  refine ⟨?_, ?_⟩
  · rw [aborted, kind, performWords]
    exact if_neg fun both => few both.1
  · have held : (tn.reach n b.mem).wrote = false := by
      rw [Tenure.wrote, reach_kind, kind]
      simp only [few, decide_false, Bool.false_and]
    rw [aborted, held]
    rfl

/-- One that has made its write frees the lock word and is counted (R62). -/
theorem aborted_modify_wrote {tn : Tenure} {a expect put : Word} (kind : tn.kind = .modify a expect put) {n : Nat} {b : Block}
    (two : n = 2) (meets : b.mem.load (wordAddress a) = expect) :
    (aborted tn n b).mem = b.mem.store (wordAddress a) put ∧ (aborted tn n b).loader.sweeps = countUp b.loader.sweeps := by
  subst two
  have done : (tn.reach 2 b.mem).done = 2 := by rw [reach_done, kind, tenureLength, if_pos meets]; rfl
  refine ⟨?_, ?_⟩
  · rw [aborted, done, kind, performWords]
    exact if_pos ⟨Nat.le_refl 2, meets⟩
  · have made : (tn.reach 2 b.mem).wrote = true := by
      rw [Tenure.wrote, done, reach_value_of_modify 2 b.mem kind, reach_kind, kind, meets]
      simp
    rw [aborted, made]
    rfl

end Sys2Proof.Machine
end

section
/-! SUPPORT. RUN_CLEAR in STARTING (R62, R182, R187, R192). -/

namespace Sys2Proof.Machine

theorem runClear_starting {v : Word} {done : Nat} {b : Block} {q : List Instr} (phase : b.engine.phase = .released)
    (state : b.engine.state = .starting) :
    exec (.runClear ⟨v, done⟩) ⟨b, q⟩ = .next ⟨abortStart done { b with control := controlOf (withRun false v) }, q⟩ := by
  have takes := answer_taken ((live_iff b).2 phase) (writeControl (withRun false v) done) b q
  have aborts : writeControl (withRun false v) done b = abortStart done { b with control := controlOf (withRun false v) } := by
    simp only [writeControl, state, withRun_false]
  rw [aborts] at takes
  exact takes

/-- With no granted tenure the engine is STOPPED at once. -/
theorem abortStart_ends {done : Nat} {s : Block} (run : s.control.run = false) (free : s.port.state ≠ .transferring) :
    abortStart done s = { s with engine := stoppedEngine s.engine, port := s.port.withdraw.release } :=
  (if_neg free).trans (enterStopped_rests run)

/-- A granted tenure goes on, and stands at the words it has done. -/
theorem abortStart_waits {done : Nat} {s : Block} (granted : s.port.state = .transferring) :
    abortStart done s = { s with
      engine := { s.engine with aborting := true }
      port := (if s.engine.aborting then s.port else s.port.reach done s.mem).withdraw } := if_pos granted

/-- The tenure held at an abort. -/
theorem abortStart_current {done : Nat} {s : Block} (granted : s.port.state = .transferring) :
    (abortStart done s).port.state = .transferring
      ∧ (abortStart done s).port.current
        = if s.engine.aborting then s.port.current else s.port.current.map fun tn => tn.underWay done s.mem := by
  rw [abortStart_waits granted]
  split
  · exact ⟨granted, rfl⟩
  · rw [Port.reach, if_pos granted]
    exact ⟨granted, rfl⟩

theorem reach_consecutive (p : Port) (n : Nat) (m : Memory) : (p.reach n m).consecutive = p.consecutive := by
  unfold Port.reach
  split <;> rfl

/-- What a tenure under way shows of itself, by its kind (R182; notes/assumptions/4.md). -/
theorem underWay_shows (tn : Tenure) (done : Nat) (m : Memory) :
    (∀ a n, tn.kind = .read a n → (tn.underWay done m).done = min done (n - 1) ∧ (tn.underWay done m).value = none)
    ∧ (∀ a ws, tn.kind = .write a ws → (tn.underWay done m).done = min done (ws.length - 1) ∧ (tn.underWay done m).value = none)
    ∧ ∀ a expect put, tn.kind = .modify a expect put →
      let begun := 1 ≤ done ∧ m.load (wordAddress a) = expect
      (begun → (tn.underWay done m).done = 1 ∧ (tn.underWay done m).value = some expect)
        ∧ (¬begun → (tn.underWay done m).done = 0 ∧ (tn.underWay done m).value = none) := by
  refine ⟨fun a n kind => ?_, fun a ws kind => ?_, fun a expect put kind => ?_⟩
  · refine ⟨by rw [underWay_done, kind, tenureLength], ?_⟩
    rw [Tenure.underWay, Tenure.reach, kind]
  · refine ⟨by rw [underWay_done, kind, tenureLength], ?_⟩
    rw [Tenure.underWay, Tenure.reach, kind]
  · have held := underWay_modify kind done m
    have value : (tn.underWay done m).value = if (tn.underWay done m).done = 0 then none else some (m.load (wordAddress a)) := by
      rw [Tenure.underWay, Tenure.reach, kind]
    refine ⟨fun begun => ?_, fun none => ?_⟩
    · rw [if_pos begun] at held
      rw [value, held]
      exact ⟨rfl, congrArg some begun.2⟩
    · rw [if_neg none] at held
      rw [value, held]
      exact ⟨rfl, rfl⟩

/-- Settles O12: the abort by whether a tenure is granted, and the end of the granted one by its kind and the words done. -/
theorem anAbortedStartEndsInStopped : Obligations.AnAbortedStartEndsInStopped := by
  unfold Obligations.AnAbortedStartEndsInStopped
  refine ⟨fun v done b q phase state => ⟨_, runClear_starting phase state, ?_⟩, fun b q tn done phase granted current aborting => ?_⟩
  · have run : (controlOf (withRun false v)).run = false := withRun_false v
    generalize control : controlOf (withRun false v) = c at run ⊢
    have takes : ControlTakes false v c := control ▸ controlTakes_controlOf false v
    by_cases granted : b.port.state = .transferring
    · have port := abortStart_current (done := done) (s := { b with control := c }) granted
      have whole := abortStart_waits (done := done) (s := { b with control := c }) granted
      generalize abortStart done { b with control := c } = t at port whole ⊢
      obtain ⟨transferring, held⟩ := port
      refine ⟨?_, ?_, ?_, ?_, ?_, ?_, fun free => absurd granted free, fun _ => ⟨?_, transferring, fun either => ?_, fun tn fresh current => ?_⟩⟩
      · rw [whole]; exact takes
      · rw [whole]
      · rw [whole]; exact withdraw_nextClient _
      · rw [whole]; dsimp only; split <;> simp only [withdraw_consecutive, reach_consecutive]
      · rw [whole]; dsimp only; split <;> simp only [withdraw_faults, reach_faults]
      · rw [whole]
      · rw [whole]
      · rw [held]
        rcases either with none | already
        · dsimp only
          rw [none]
          split <;> rfl
        · exact if_pos already
      · refine ⟨tn.underWay done b.mem, ?_, rfl, rfl, underWay_shows tn done b.mem⟩
        rw [held]
        dsimp only
        rw [fresh, current]
        rfl
    · have whole := abortStart_ends (done := done) (s := { b with control := c }) run granted
      rw [whole]
      exact ⟨takes, rfl, withdraw_nextClient _, rfl, rfl, rfl, fun _ => ⟨rfl, rfl, rfl, rfl⟩, fun transferring => absurd transferring granted⟩
  · have event : (live b && b.port.state == .transferring && b.engine.aborting) = true := by simp [live, phase, granted, aborting]
    have ends : ∀ n, exec (.tenureEnded n) ⟨b, q⟩ = .next ⟨enterStopped (aborted tn (tn.lastWord n) b), q⟩ := fun n =>
      endAborted_some current n ▸ answer_taken event (endAborted n) b q
    refine ⟨by rw [ends, ends, lastWord_lastWord], _, ends done, ?_, fun run => ?_, fun run ready => ?_, ?_, ?_, ?_, ?_⟩
    · rw [enterStopped_faults]
      rfl
    · rw [enterStopped_rests (s := aborted tn (tn.lastWord done) b) run]
      exact ⟨rfl, rfl, rfl, rfl, withdraw_nextClient b.port.release, rfl, rfl, rfl⟩
    · rw [enterStopped_starts (s := aborted tn (tn.lastWord done) b) run ready]
      have none : b.port.release.withdraw.nextClient = none := withdraw_nextClient b.port.release
      have port := enterStarting_port (s := { aborted tn (tn.lastWord done) b with engine := stoppedEngine (aborted tn (tn.lastWord done) b).engine }) rfl none
      refine ⟨theStartIsEntered rfl rfl rfl rfl, ?_, ?_⟩
      · rw [port]
        rfl
      · rw [port]
        exact start_nextClient _ _ none
    · rw [enterStopped_eq]
      rfl
    · intro a n kind
      rw [enterStopped_mem, aborted, kind]
      rfl
    · intro a ws kind lo hi
      rw [enterStopped_mem, aborted_write kind, lastWord_of_range lo hi]
    · intro a expect put kind
      have mem := enterStopped_mem (aborted tn (tn.lastWord done) b)
      have loader : (enterStopped (aborted tn (tn.lastWord done) b)).loader = (aborted tn (tn.lastWord done) b).loader := by
        rw [enterStopped_eq]
      rw [mem, loader]
      refine ⟨fun few => aborted_modify_read kind ?_, fun one two meets => aborted_modify_wrote kind ?_ meets⟩
      · unfold Tenure.lastWord
        rcases few with none | ⟨one, few⟩ | other
        · exact .inl (by omega)
        · exact .inl (by omega)
        · exact .inr other
      · unfold Tenure.lastWord
        omega

end Sys2Proof.Machine
end

section
/-! SUPPORT. The arbiter of an IDLE port: which of the waiting clients it serves, and what waits on (R182, R188). -/

namespace Sys2Proof.Machine

theorem idxOf_after (last c : Client) : last.after.idxOf c = turnsAfter last c := by cases last <;> cases c <;> rfl

theorem turnsAfter_injective {last c d : Client} (h : turnsAfter last c = turnsAfter last d) : c = d := by
  rw [← idxOf_after, ← idxOf_after] at h
  exact (List.idxOf_inj (mem_after last c)).1 h

/-- No client that waits comes before the next one. -/
theorem nextClient_first {p : Port} {c d : Client} {k l : TenureKind} (next : p.nextClient = some (d, l)) (waits : p.waitingOf c = some k) :
    p.waitingOf d = some l ∧ turnsAfter p.pointer d ≤ turnsAfter p.pointer c := by
  rw [Port.nextClient, List.findSome?_eq_some_iff] at next
  obtain ⟨before, e, after, order, there, none⟩ := next
  obtain ⟨l', found, pair⟩ := Option.map_eq_some_iff.1 there
  cases pair
  have later : c ∉ before := fun mem => by simpa [waits] using none c mem
  refine ⟨found, ?_⟩
  rw [← idxOf_after, ← idxOf_after, order, List.idxOf_append_of_notMem later]
  refine le_trans ?_ (Nat.le_add_right ..)
  by_cases mem : d ∈ before
  · rw [List.idxOf_append_of_mem mem]
    exact List.idxOf_le_length
  · rw [List.idxOf_append_of_notMem mem, List.idxOf_cons_self]
    exact Nat.le_refl _

/-- A waiting client, or one before it, is served. -/
theorem arbitrate_serves {p : Port} {c : Client} {k : TenureKind} (idle : p.state = .idle) (waits : p.waitingOf c = some k) :
    ∃ d l, p.waitingOf d = some l ∧ turnsAfter p.pointer d ≤ turnsAfter p.pointer c ∧ p.arbitrate = p.start d l := by
  cases next : p.nextClient with
  | none =>
    rw [(nextClient_none p).1 next c] at waits
    exact nomatch waits
  | some served =>
    obtain ⟨found, first⟩ := nextClient_first next waits
    exact ⟨served.1, served.2, found, first, by rw [Port.arbitrate, if_pos idle, next]⟩

theorem waitingOf_start_self (p : Port) (c : Client) (k : TenureKind) : (p.start c k).waitingOf c = none := getAt_setAt ..

theorem waitingOf_start_other {c d : Client} (p : Port) (k : TenureKind) (other : c ≠ d) :
    (p.start d k).waitingOf c = p.waitingOf c := getAt_setAt_ne _ _ _ _ fun i => other (index_injective i)

/-- Client `c`'s request waits at an IDLE port, and the block that uses `c` is at the work it was asked for. -/
structure WaitsAtWork (c : Client) (k : TenureKind) (s : Block) : Prop where
  idle : s.port.state = .idle
  waits : s.port.waitingOf c = some k
  work : AtWork c s

/-- What an ended client's work leaves waiting is served in order. -/
theorem servesInOrder {ended : Client} {b v : Block}
    (left : ∀ c k, b.port.waitingOf c = some k → c ≠ ended → AtWork c b → WaitsAtWork c k v ∧ v.port.pointer = b.port.pointer) :
    ServesInOrder ended b (serveNext v) := by
  intro c k waits other work none
  obtain ⟨stays, pointer⟩ := left c k waits other work
  obtain ⟨d, l, found, first, serves⟩ := arbitrate_serves stays.idle stays.waits
  have port : (serveNext v).port = v.port.start d l := serves
  rw [pointer] at first
  rw [port]
  have served : d = c → l = k := fun e => by
    subst e
    exact Option.some.inj (found.symm.trans stays.waits)
  refine ⟨fun c' k' apart waits' other' work' => ?_, ?_, fun alone => ?_⟩
  · have behind : d ≠ c' := by
      rintro rfl
      have same : turnsAfter b.port.pointer d = turnsAfter b.port.pointer c := by
        refine Nat.le_antisymm first (Nat.le_of_not_lt fun less => ?_)
        rw [none d less] at waits'
        exact nomatch waits'
      exact apart (turnsAfter_injective same)
    rw [waitingOf_start_other _ _ behind.symm]
    exact (left c' k' waits' other' work').1.waits
  · by_cases own : d = c
    · have kind := served own
      subst own kind
      exact .inl ⟨rfl, rfl, waitingOf_start_self ..⟩
    · refine .inr ⟨d, l, Nat.lt_of_le_of_ne first fun e => own (turnsAfter_injective e), rfl, rfl, ?_⟩
      rw [waitingOf_start_other _ _ (Ne.symm own)]
      exact stays.waits
  · by_cases own : d = c
    · have kind := served own
      subst own kind
      exact ⟨rfl, rfl⟩
    · exact absurd rfl (alone d l (Nat.lt_of_le_of_ne first fun e => own (turnsAfter_injective e)))

/-- A port that keeps its pointer and what waits serves the first of it. -/
theorem serveNext_first {p : Port} {v : Block} {c : Client} {k : TenureKind} (idle : v.port.state = .idle) (pointer : v.port.pointer = p.pointer)
    (waiting : v.port.waiting = p.waiting) (waits : p.waitingOf c = some k)
    (none : ∀ c', turnsAfter p.pointer c' < turnsAfter p.pointer c → p.waitingOf c' = none) :
    (serveNext v).port.current = some ⟨c, k, 0, Option.none⟩ ∧ (serveNext v).port.pointer = c ∧ (serveNext v).port.state = .requesting := by
  have same : ∀ c, v.port.waitingOf c = p.waitingOf c := fun c => by rw [Port.waitingOf, waiting, Port.waitingOf]
  obtain ⟨d, l, found, first, serves⟩ := arbitrate_serves idle ((same c).trans waits)
  rw [pointer] at first
  rw [same] at found
  have own : d = c := turnsAfter_injective (Nat.le_antisymm first (Nat.le_of_not_lt fun less => by
    rw [none d less] at found
    exact nomatch found))
  subst own
  cases found.symm.trans waits
  have port : (serveNext v).port = v.port.start d k := serves
  rw [port]
  exact ⟨rfl, rfl, rfl⟩

end Sys2Proof.Machine
end

section
/-! SUPPORT. Requests that wait on: an operation asks at the port for its own client, for an idle result writer, loader or reader, and for
no other; so what waits for a block at work stays where it is (R183, R188). -/

namespace Sys2Proof.Machine

/-- What of the part a waiting request depends on: the port, and the work of the blocks that share their clients with requests. -/
def portAndWork (s : Block) : Port × WriterStep × Option CurrentLoad × Option TableJob :=
  (s.port, s.results.writer, s.loader.current, s.tables.reader)

/-- From `s` to `t` a request of client `c` that waits at an IDLE port, its block at work, waits on, and the pointer stays. -/
structure WaitsOn (c : Client) (s t : Block) : Prop where
  on : ∀ k, WaitsAtWork c k s → WaitsAtWork c k t ∧ t.port.pointer = s.port.pointer

theorem WaitsAtWork.someWaits {c : Client} {k : TenureKind} {s : Block} (h : WaitsAtWork c k s) : s.port.nextClient ≠ none := fun none => by
  have waits := h.waits
  rw [(nextClient_none s.port).1 none c] at waits
  exact nomatch waits

namespace WaitsOn

variable {c : Client}

theorem refl (s : Block) : WaitsOn c s s := ⟨fun _ h => ⟨h, rfl⟩⟩

theorem trans {s t u : Block} (h : WaitsOn c s t) (g : WaitsOn c t u) : WaitsOn c s u := by
  refine ⟨fun k waits => ?_⟩
  obtain ⟨first, pointer⟩ := h.on k waits
  obtain ⟨second, pointer'⟩ := g.on k first
  exact ⟨second, pointer'.trans pointer⟩

theorem foldl {α : Type} {f : Block → α → Block} (h : ∀ t x, WaitsOn c t (f t x)) (xs : List α) (s : Block) : WaitsOn c s (xs.foldl f s) := by
  induction xs generalizing s with
  | nil => exact refl s
  | cons x rest ih => exact (h s x).trans (ih (f s x))

theorem of_work {s t : Block} (port : t.port = s.port) (work : AtWork c s → AtWork c t) : WaitsOn c s t :=
  ⟨fun _ h => ⟨⟨port ▸ h.idle, port ▸ h.waits, work h.work⟩, by rw [port]⟩⟩

/-- An operation that leaves the port and the work of its clients. -/
theorem of_same {s t : Block} (h : portAndWork t = portAndWork s) : WaitsOn c s t := by
  obtain ⟨port, writer, current, reader⟩ : t.port = s.port ∧ t.results.writer = s.results.writer ∧ t.loader.current = s.loader.current
    ∧ t.tables.reader = s.tables.reader := by simpa only [portAndWork, Prod.mk.injEq] using h
  refine of_work port ?_
  rw [AtWork, AtWork, writer, current, reader]
  exact id

/-- Another client's request waits behind it (R188). -/
theorem ask {d : Client} (other : c ≠ d) (k : TenureKind) (s : Block) : WaitsOn c s (ask d k s) := by
  refine ⟨fun _ h => ?_⟩
  by_cases halted : s.engine.state = .halted
  · rw [ask_halted halted]
    exact ⟨h, rfl⟩
  · rw [ask_waits halted (.inr h.someWaits)]
    refine ⟨⟨h.idle, ?_, h.work⟩, rfl⟩
    rw [Port.waitingOf, getAt_setAt_ne _ _ _ _ fun i => other (index_injective i)]
    exact h.waits

/-- Such an operation before another. -/
theorem preceded {s t u : Block} (h : WaitsOn c t u) (same : portAndWork t = portAndWork s) : WaitsOn c s u := (of_same same).trans h

/-! ### Completions (R175, R176) -/

/-- A busy result writer is left at its work. -/
theorem complete (i : Fin 32) (code : ResultCode) (v1 v2 v3 : Word) (s : Block) : WaitsOn c s (complete i code v1 v2 v3 s) := by
  refine ⟨fun k h => ?_⟩
  have rest := complete_eq i code v1 v2 v3 s
  by_cases own : c = .results
  · have busy : s.results.writer ≠ .idle := h.work.1 own
    have idle : writerBegins s = false := by simp [writerBegins, busy]
    have writer : (Machine.complete i code v1 v2 v3 s).results.writer = s.results.writer := by
      rw [complete_results, idle]
      split
      · split <;> rfl
      · rfl
    refine (of_same ?_).on k h
    rw [rest, portAndWork, portAndWork, writer, complete_port, idle, Bool.and_false, if_neg Bool.false_ne_true]
  · have work : AtWork c (Machine.complete i code v1 v2 v3 s) := by
      rw [rest]
      exact ⟨fun e => absurd e own, h.work.2⟩
    have ⟨waits, pointer⟩ : ((Machine.complete i code v1 v2 v3 s).port.state = .idle
        ∧ (Machine.complete i code v1 v2 v3 s).port.waitingOf c = some k)
        ∧ (Machine.complete i code v1 v2 v3 s).port.pointer = s.port.pointer := by
      rw [complete_port]
      split
      · have ⟨asked, pointer⟩ := ask own (valuesBurst s.anchor (headAfter s.results.queue ⟨i, code, v1, v2, v3⟩)) s |>.on k h
        exact ⟨⟨asked.idle, asked.waits⟩, pointer⟩
      · exact ⟨⟨h.idle, h.waits⟩, rfl⟩
    exact ⟨⟨waits.1, waits.2, work⟩, pointer⟩

theorem completePlain (i : Fin 32) (code : ResultCode) (s : Block) : WaitsOn c s (completePlain i code s) := complete i code 0 0 0 s

theorem completeOrigin (o : Origin) (code : ResultCode) (v1 v2 : Word) (s : Block) : WaitsOn c s (completeOrigin o code v1 v2 s) := by
  cases o with
  | post i => exact complete i code v1 v2 0 s
  | trigger t => exact refl s
  | follow => exact refl s

/-! ### The playbacks (R6 to R23) -/

/-- A loader at work takes no job. -/
theorem takeLoadJob (s : Block) : WaitsOn c s (takeLoadJob s) := by
  by_cases own : c = .loader
  · refine ⟨fun k h => ?_⟩
    rw [takeLoadJob_busy (h.work.2.1 own)]
    exact ⟨h, rfl⟩
  · have asks : ∀ (x : Loader) (ps : Vector Playback 8) (j : TenureKind),
        WaitsOn c s (Machine.ask .loader j { s with loader := x, playbacks := ps }) := fun x ps j =>
      .trans (t := { s with loader := x, playbacks := ps }) (of_work rfl fun work => ⟨work.1, fun e => absurd e own, work.2.2⟩) (ask own j _)
    unfold Machine.takeLoadJob
    split
    · exact refl s
    · split
      · exact asks ..
      · exact refl s

theorem submitLoad (p : Fin 8) (bank : Nat) (search : Search) (s : Block) : WaitsOn c s (submitLoad p bank search s) :=
  .preceded (takeLoadJob _) rfl

theorem edit (p : Fin 8) (freed : Nat) (s : Block) : WaitsOn c s (edit p freed s) := by
  unfold Machine.edit
  dsimp only
  split <;> exact of_same rfl

/-- A playback replaced, and the edit of it. -/
theorem edited (p : Fin 8) (x : Playback) (freed : Nat) (s : Block) : WaitsOn c s (Machine.edit p freed (setPlayback p x s)) :=
  .preceded (edit ..) rfl

theorem followEnd (p : Fin 8) (s : Block) : WaitsOn c s (followEnd p s) := by
  unfold Machine.followEnd
  dsimp only
  split <;> exact of_same rfl

theorem followIfDue (p : Fin 8) (s : Block) : WaitsOn c s (followIfDue p s) := by
  unfold Machine.followIfDue
  split
  · exact followEnd p s
  · exact refl s

theorem raiseInt (src : IntSource) (s : Block) : WaitsOn c s (raiseInt src s) := of_same rfl

theorem fadeEnds (p : Fin 8) (s : Block) : WaitsOn c s (fadeEnds p s) := by
  unfold Machine.fadeEnds
  dsimp only
  split
  · exact .trans (.trans (edited ..) (raiseInt _ _)) (followIfDue p _)
  · exact .trans (edited ..) (raiseInt _ _)
  · exact refl s

theorem fadeEndIfDue (p : Fin 8) (s : Block) : WaitsOn c s (fadeEndIfDue p s) := by
  unfold Machine.fadeEndIfDue
  split
  · exact fadeEnds p s
  · exact refl s

theorem finishHead (p : Fin 8) (code : ResultCode) (v1 v2 : Word) (s : Block) : WaitsOn c s (finishHead p code v1 v2 s) := by
  unfold Machine.finishHead
  split
  · exact .preceded (completeOrigin ..) rfl
  · exact refl s

theorem servePause (p : Fin 8) (s : Block) : WaitsOn c s (servePause p s) := by
  unfold Machine.servePause
  dsimp only
  split
  · exact .trans (edited ..) (finishHead ..)
  · exact .trans (edited ..) (finishHead ..)
  · exact .trans (edited ..) (finishHead ..)
  · exact finishHead ..

theorem serveResume (p : Fin 8) (s : Block) : WaitsOn c s (serveResume p s) := by
  unfold Machine.serveResume
  dsimp only
  split
  · exact .trans (.trans (edited ..) (finishHead ..)) (fadeEndIfDue p _)
  · exact .trans (.trans (edited ..) (finishHead ..)) (fadeEndIfDue p _)
  · exact .trans (.trans (edited ..) (finishHead ..)) (followIfDue p _)
  · exact finishHead ..

theorem serveLoad (p : Fin 8) (choice : Option (Nat × Search)) (s : Block) : WaitsOn c s (serveLoad p choice s) := by
  unfold Machine.serveLoad
  dsimp only
  refine .trans (t := modPlayback p (fun x => { x with follow := none }) s) (of_same rfl) ?_
  split
  · exact finishHead ..
  · split
    · exact submitLoad ..
    · exact finishHead ..

theorem serveHead (p : Fin 8) (s : Block) : WaitsOn c s (serveHead p s) := by
  unfold Machine.serveHead
  dsimp only
  split
  · exact refl s
  · split
    · exact serveLoad ..
    · exact serveLoad ..
    · exact servePause p s
    · exact serveResume p s

theorem serve (p : Fin 8) (s : Block) : WaitsOn c s (serve p s) := by
  have upTo : ∀ n s, WaitsOn c s (serveUpTo n p s) := fun n => by
    induction n with
    | zero => exact refl
    | succ n ih =>
      intro s
      unfold serveUpTo
      split
      · exact .trans (serveHead p s) (ih _)
      · exact refl s
  exact upTo ..

theorem queueFull (o : Origin) (s : Block) : WaitsOn c s (queueFull o s) := by
  cases o with
  | post i => exact completePlain ..
  | trigger t => exact of_same rfl
  | follow => exact refl s

theorem arriveQueued (p : Fin 8) (o : Origin) (k : QueuedKind) (s : Block) : WaitsOn c s (arriveQueued p o k s) := by
  unfold Machine.arriveQueued
  split
  · split
    · exact .preceded (serve p _) rfl
    · exact queueFull ..
  · exact completeOrigin ..

/-- The loader's current job stays, with its mark (R59). -/
theorem markAbandoned (p : Fin 8) (s : Block) : WaitsOn c s (markAbandoned p s) := by
  unfold Machine.markAbandoned
  split
  · split
    · exact of_work rfl fun work => ⟨work.1, fun _ => rfl, work.2.2⟩
    · exact refl s
  · exact refl s

theorem cancelAndAbandon (p : Fin 8) (s : Block) : WaitsOn c s (cancelAndAbandon p s) := by
  have abandons : ∀ t, WaitsOn c t (abandonLoad p t) := fun t => by
    unfold abandonLoad
    split
    · exact refl t
    · exact .preceded (finishHead ..) rfl
    · exact markAbandoned p t
  have cancels : ∀ rs t, WaitsOn c t (cancelRequests rs t) := foldl fun _ _ => completeOrigin ..
  refine .trans ?_ (abandons _)
  exact .preceded (cancels _ _) rfl

theorem arriveRelease (p : Fin 8) (o : Origin) (time : Option Nat) (s : Block) : WaitsOn c s (arriveRelease p o time s) := by
  unfold Machine.arriveRelease
  dsimp only
  split
  · refine .trans (t := modPlayback p (fun x => { x with follow := none }) (Machine.cancelAndAbandon p s))
      (.trans (cancelAndAbandon p s) (of_same rfl)) ?_
    split
    · exact completeOrigin ..
    · exact .trans (.trans (edited ..) (fadeEndIfDue p _)) (completeOrigin ..)
  · exact completeOrigin ..

theorem arriveSetMaster (p : Fin 8) (slot : Fin 32) (level time : Word) (s : Block) : WaitsOn c s (arriveSetMaster p slot level time s) := by
  unfold Machine.arriveSetMaster
  split
  · exact .trans (edited ..) (complete ..)
  · exact completePlain ..

/-! ### The table loader (R84 to R97) -/

theorem endShadow (x : Shadow) (code : ResultCode) (s : Block) : WaitsOn c s (endShadow x code s) := by
  cases x with
  | ready owner points => exact completePlain ..
  | filling points => exact refl s
  | empty => exact refl s

/-- A reader at work takes no job. -/
theorem takeTableJob (s : Block) : WaitsOn c s (takeTableJob s) := by
  by_cases own : c = .tables
  · refine ⟨fun k h => ?_⟩
    obtain ⟨j, reader⟩ := Option.isSome_iff_exists.1 (h.work.2.2 own)
    have stays : Machine.takeTableJob s = s := by
      unfold Machine.takeTableJob
      rw [reader]
      split <;> rfl
    rw [stays]
    exact ⟨h, rfl⟩
  · have begins : ∀ (j : TableJob) (t : Block), WaitsOn c t (beginTable j t) := fun j t => by
      cases j with
      | patch slot address count => exact .preceded (ask own _ _) rfl
      | curve slot i address => exact .trans (endShadow (shadowOf t i) .cancelled t) (.preceded (ask own _ _) rfl)
    have taken : ∀ x : TableLoader, WaitsOn c s { s with tables := x } := fun x =>
      of_work rfl fun work => ⟨work.1, work.2.1, fun e => absurd e own⟩
    unfold Machine.takeTableJob
    split
    · exact refl s
    · split
      · split
        · exact (taken _).trans (begins ..)
        · exact refl s
      · exact refl s

theorem submitTable (slot : Fin 32) (j : TableJob) (s : Block) : WaitsOn c s (submitTable slot j s) := by
  unfold Machine.submitTable
  split
  · exact .preceded (takeTableJob _) rfl
  · exact completePlain ..

/-! ### Requests (R174) -/

theorem arrivePatch (slot : Fin 32) (address count : Word) (s : Block) : WaitsOn c s (arrivePatch slot address count s) := by
  unfold Machine.arrivePatch
  split
  · exact submitTable ..
  · exact completePlain ..

theorem arriveCurve (slot : Fin 32) (curve address : Word) (s : Block) : WaitsOn c s (arriveCurve slot curve address s) := by
  unfold Machine.arriveCurve
  split
  · exact submitTable ..
  · exact completePlain ..

theorem arriveSetFrame (slot : Fin 32) (period scan status : Word) (s : Block) : WaitsOn c s (arriveSetFrame slot period scan status s) := by
  unfold Machine.arriveSetFrame
  split
  · exact complete ..
  · split
    · exact complete ..
    · unfold placeFrame
      dsimp only
      split
      · exact .trans (completePlain ..) (of_same rfl)
      · exact of_same rfl

theorem arriveSetLine (l : Fin 4) (slot : Fin 32) (mode rate count talkback base timeout action : Word) (s : Block) :
    WaitsOn c s (arriveSetLine l slot mode rate count talkback base timeout action s) := by
  unfold Machine.arriveSetLine
  split
  · exact complete ..
  · split
    · unfold placeLine
      dsimp only
      split
      · exact .trans (completePlain ..) (of_same rfl)
      · exact of_same rfl
    · exact complete ..

theorem arriveSetOutputs (slot : Fin 32) (clock modes inverts : Word) (s : Block) :
    WaitsOn c s (arriveSetOutputs slot clock modes inverts s) := by
  unfold Machine.arriveSetOutputs
  split
  · exact complete ..
  · exact complete ..
  · exact .preceded (completePlain ..) rfl

theorem arriveSetTrigger (t : Fin 8) (slot : Fin 32) (edge debounce action playback bank cue time : Word) (s : Block) :
    WaitsOn c s (arriveSetTrigger t slot edge debounce action playback bank cue time s) := by
  unfold Machine.arriveSetTrigger
  split
  · exact complete ..
  · exact .preceded (complete ..) rfl

theorem arriveSetGrand (slot : Fin 32) (level time : Word) (s : Block) : WaitsOn c s (arriveSetGrand slot level time s) := by
  unfold Machine.arriveSetGrand
  split
  · exact .preceded (complete ..) rfl
  · exact completePlain ..

theorem arriveBlackout (slot : Fin 32) (action : Word) (s : Block) : WaitsOn c s (arriveBlackout slot action s) := by
  unfold Machine.arriveBlackout
  dsimp only
  split
  · exact .preceded (complete ..) rfl
  · exact completePlain ..

theorem arriveSnapshot (slot : Fin 32) (address : Word) (s : Block) : WaitsOn c s (arriveSnapshot slot address s) := by
  unfold Machine.arriveSnapshot
  split
  · exact completePlain ..
  · exact of_same rfl

theorem arriveQuery (l : Fin 4) (slot : Fin 32) (address code count bytes0 bytes4 reply : Word) (s : Block) :
    WaitsOn c s (arriveQuery l slot address code count bytes0 bytes4 reply s) := by
  unfold Machine.arriveQuery
  dsimp only
  split
  · split
    · exact complete ..
    · split
      · exact of_same rfl
      · exact completePlain ..
  · exact completePlain ..

theorem arriveClearLine (l : Fin 4) (slot : Fin 32) (s : Block) : WaitsOn c s (arriveClearLine l slot s) :=
  .preceded (complete ..) rfl

theorem withTarget {n : Nat} {slot : Fin 32} {w : Word} {f : Fin n → Block → Block} {s : Block} (h : ∀ x, WaitsOn c s (f x s)) :
    WaitsOn c s (withTarget n slot w f s) := by
  unfold Machine.withTarget
  split
  · exact h _
  · exact completePlain ..

theorem dispatch (slot : Fin 32) (words : List Word) (s : Block) : WaitsOn c s (dispatch slot words s) := by
  unfold Machine.dispatch
  dsimp only
  split
  · exact arriveSetFrame ..
  · exact withTarget fun _ => arriveSetLine ..
  · exact arriveSetOutputs ..
  · exact withTarget fun _ => arriveSetTrigger ..
  · exact arrivePatch ..
  · exact arriveCurve ..
  · exact arriveSetGrand ..
  · exact arriveBlackout ..
  · exact arriveSnapshot ..
  · exact withTarget fun _ => arriveClearLine ..
  · exact withTarget fun _ => arriveQuery ..
  · exact withTarget fun _ => arriveQueued ..
  · exact withTarget fun _ => arriveQueued ..
  · exact withTarget fun _ => arriveQueued ..
  · exact withTarget fun _ => arriveQueued ..
  · exact withTarget fun _ => arriveRelease ..
  · exact withTarget fun _ => arriveSetMaster ..
  · exact completePlain ..

end WaitsOn

end Sys2Proof.Machine
end

section
/-! SUPPORT. Requests that wait on (continued): what the end of a client's tenure, Done or by a fault, leaves waiting of the others (R183,
R188). -/

namespace Sys2Proof.Machine

namespace WaitsOn

variable {c : Client}

/-! ### The scanner (R171 to R173) -/

section

variable (other : c ≠ .scanner)

include other

theorem endScan (s : Block) : WaitsOn c s (endScan s) := by
  unfold Machine.endScan
  dsimp only
  split
  · exact .preceded (ask other _ _) rfl
  · exact of_same rfl

theorem visit (rest : List (Fin 32)) (taken : Nat) (s : Block) : WaitsOn c s (visit taken s rest) := by
  induction rest with
  | nil => exact endScan other s
  | cons i rest ih =>
    unfold Machine.visit
    split
    · exact endScan other s
    · split
      · exact ih
      · split
        · exact endScan other s
        · exact .preceded (ask other _ _) rfl

theorem scannerDone (words : List Word) (s : Block) : WaitsOn c s (scannerDone words s) := by
  unfold Machine.scannerDone
  split
  · exact refl s
  · unfold rowRead
    dsimp only
    split
    · exact .preceded (ask other _ _) rfl
    · exact visit other ..
  · unfold claimDone
    dsimp only
    split
    · split
      · exact .preceded (ask other _ _) rfl
      · refine .trans ?_ (endScan other _)
        exact .preceded (completePlain ..) rfl
    · exact visit other ..
  · unfold bodyDone
    split
    · exact .trans (dispatch ..) (visit other ..)
    · exact .trans (completePlain ..) (endScan other _)

theorem scannerFault (s : Block) : WaitsOn c s (scannerFault s) := by
  unfold Machine.scannerFault
  split
  · exact .trans (completePlain ..) (endScan other _)
  · exact endScan other s

end

/-! ### The result writer (R176) -/

section

variable (other : c ≠ .results)

include other

theorem setWriter (w : WriterStep) (s : Block) : WaitsOn c s (setWriter w s) := of_work rfl fun work => ⟨fun e => absurd e other, work.2⟩

theorem startWriter (s : Block) : WaitsOn c s (startWriter s) := by
  unfold Machine.startWriter
  split
  · split
    · exact .trans (setWriter other .values s) (ask other _ _)
    · exact refl s
  · exact refl s

theorem resultsDone (s : Block) : WaitsOn c s (resultsDone s) := by
  unfold Machine.resultsDone
  split
  · exact .trans (setWriter other .done s) (ask other _ _)
  · rename_i rest _ _
    refine .trans (.trans ?_ (raiseInt _ _)) (startWriter other _)
    exact of_work rfl fun work => ⟨fun e => absurd e other, work.2⟩
  · exact refl s

end

/-! ### The cue loader (R49 to R59) -/

theorem freeLoad (p : Fin 8) (s : Block) : WaitsOn c s (freeLoad p s) := of_same rfl

theorem loadEnded (p : Fin 8) (code : ResultCode) (s : Block) : WaitsOn c s (loadEnded p code s) := by
  refine .trans ?_ (serve p _)
  exact .preceded (finishHead ..) rfl

theorem loadCompleted (p : Fin 8) (bank : Nat) (h : CueHeader) (s : Block) : WaitsOn c s (loadCompleted p bank h s) := by
  unfold Machine.loadCompleted
  dsimp only
  refine .trans (.trans (.trans ?_ (finishHead ..)) (fadeEndIfDue p _)) (serve p _)
  exact .preceded (edited ..) rfl

section

variable (other : c ≠ .loader)

include other

theorem setLoader (x : Loader) (s : Block) : WaitsOn c s { s with loader := x } :=
  of_work rfl fun work => ⟨work.1, fun e => absurd e other, work.2.2⟩

theorem endJob {report : Block → Block} (h : ∀ t, WaitsOn c t (report t)) (s : Block) : WaitsOn c s (endJob report s) :=
  .trans (.trans (setLoader other _ s) (h _)) (takeLoadJob _)

theorem endUnfinished (x : CurrentLoad) (code : ResultCode) (s : Block) : WaitsOn c s (endUnfinished x code s) :=
  endJob other (fun _ => loadEnded ..) s

theorem enterUnlock (x : CurrentLoad) (s : Block) : WaitsOn c s (enterUnlock x s) := .trans (setLoader other _ s) (ask other _ _)

theorem readBank (x : CurrentLoad) (stage : LoadStage) (k words : Nat) (s : Block) : WaitsOn c s (readBank x stage k words s) :=
  .trans (setLoader other _ s) (ask other _ _)

theorem failLoad (x : CurrentLoad) (code : ResultCode) (s : Block) : WaitsOn c s (failLoad x code s) := by
  unfold Machine.failLoad
  dsimp only
  split
  · exact .trans (freeLoad _ s) (enterUnlock other ..)
  · exact .trans (freeLoad _ s) (endUnfinished other ..)

theorem lockDone (x : CurrentLoad) (value : Word) (s : Block) : WaitsOn c s (lockDone x value s) := by
  unfold Machine.lockDone
  dsimp only
  split
  · split
    · exact failLoad other ..
    · exact readBank other ..
  · split
    · exact failLoad other ..
    · split
      · exact .preceded (.trans (setLoader other _ (modPlayback x.job.playback (fun y => { y with load := .waiting }) s)) (takeLoadJob _)) rfl
      · exact failLoad other ..

theorem countRead (x : CurrentLoad) (n : Nat) (s : Block) : WaitsOn c s (countRead x n s) := by
  unfold Machine.countRead
  split
  · exact failLoad other ..
  · split
    · exact failLoad other ..
    · exact readBank other ..

theorem directoryRead (x : CurrentLoad) (count position : Nat) (words : List Word) (s : Block) :
    WaitsOn c s (directoryRead x count position words s) := by
  unfold Machine.directoryRead
  dsimp only
  split
  · split
    · split
      · exact failLoad other ..
      · exact readBank other ..
    · exact failLoad other ..
  · split
    · exact readBank other ..
    · exact failLoad other ..

theorem headerRead (x : CurrentLoad) (number offset : Nat) (words : List Word) (s : Block) :
    WaitsOn c s (headerRead x number offset words s) := by
  unfold Machine.headerRead
  split
  · exact failLoad other ..
  · dsimp only
    split
    · split
      · exact .preceded (enterUnlock other ..) rfl
      · exact .preceded (readBank other ..) rfl
    · exact failLoad other ..

theorem entriesRead (x : CurrentLoad) (offset position : Nat) (words : List Word) (s : Block) :
    WaitsOn c s (entriesRead x offset position words s) := by
  unfold Machine.entriesRead
  dsimp only
  split
  · split
    · exact .preceded (readBank other ..) rfl
    · exact .preceded (enterUnlock other ..) rfl
  · exact .preceded (failLoad other ..) rfl

theorem unlockDone (x : CurrentLoad) (s : Block) : WaitsOn c s (unlockDone x s) := by
  unfold Machine.unlockDone
  split
  · exact .preceded (endJob other (fun _ => loadCompleted ..) _) rfl
  · exact .trans (freeLoad _ s) (endUnfinished other ..)

theorem loaderDone (words : List Word) (s : Block) : WaitsOn c s (loaderDone words s) := by
  unfold Machine.loaderDone
  split
  · exact refl s
  · split
    · exact lockDone other ..
    · exact unlockDone other ..
    · split
      · exact failLoad other ..
      · exact countRead other ..
    · split
      · exact failLoad other ..
      · exact directoryRead other ..
    · split
      · exact failLoad other ..
      · exact headerRead other ..
    · split
      · exact failLoad other ..
      · exact entriesRead other ..

theorem loaderFault (read : Bool) (s : Block) : WaitsOn c s (loaderFault read s) := by
  unfold Machine.loaderFault
  split
  · exact refl s
  · split
    · refine .trans (.trans ?_ (freeLoad _ _)) (endUnfinished other ..)
      split
      · exact of_same rfl
      · exact refl s
    · refine .trans ?_ (endUnfinished other ..)
      exact .preceded (freeLoad _ (countStuck s)) rfl
    · exact failLoad other ..
    · exact failLoad other ..
    · exact failLoad other ..
    · exact failLoad other ..

end

/-! ### The table loader (R87, R93, R96, R97) -/

section

variable (other : c ≠ .tables)

include other

theorem readerIdle (s : Block) : WaitsOn c s (readerIdle s) :=
  .trans (t := { s with tables := { s.tables with reader := none } })
    (of_work rfl fun work => ⟨work.1, work.2.1, fun e => absurd e other⟩) (takeTableJob _)

theorem failTable (j : TableJob) (code : ResultCode) (v1 v2 : Word) (s : Block) : WaitsOn c s (failTable j code v1 v2 s) := by
  have emptied : WaitsOn c s (emptyFilling j s) := by cases j <;> exact of_same rfl
  exact .trans (.trans emptied (complete ..)) (readerIdle other _)

theorem patchRead (j : TableJob) (slot : Fin 32) (address : Word) (count : Nat) (words : List Word) (s : Block) :
    WaitsOn c s (patchRead j slot address count words s) := by
  have validates : ∀ all, WaitsOn c s (validatePatch slot j all s) := fun all => by
    unfold validatePatch
    dsimp only
    split
    · exact failTable other ..
    · split
      · exact failTable other ..
      · exact .preceded (readerIdle other _) rfl
  unfold Machine.patchRead
  dsimp only
  split
  all_goals
    split
    · exact .preceded (ask other _ _) rfl
    · exact validates _

theorem curveRead (j : TableJob) (slot : Fin 32) (k : Fin 7) (address : Word) (words : List Word) (s : Block) :
    WaitsOn c s (curveRead j slot k address words s) := by
  unfold Machine.curveRead
  dsimp only
  split
  · exact failTable other ..
  · split
    all_goals
      split
      · exact .preceded (ask other _ _) rfl
      · exact .preceded (readerIdle other _) rfl

theorem tablesDone (words : List Word) (s : Block) : WaitsOn c s (tablesDone words s) := by
  unfold Machine.tablesDone
  split
  · exact refl s
  · split
    · exact failTable other ..
    · split
      · exact patchRead other ..
      · exact curveRead other ..

theorem tablesFault (s : Block) : WaitsOn c s (tablesFault s) := by
  unfold Machine.tablesFault
  split
  · exact refl s
  · exact failTable other ..

end

/-! ### Talkback (R153) -/

theorem endReply (other : c ≠ .talkback) (code : ResultCode) (s : Block) : WaitsOn c s (endReply code s) := by
  have asks : ∀ t, WaitsOn c t (askTalkback t) := fun t => by
    unfold askTalkback
    split
    · split
      · exact ask other _ _
      · exact refl t
    · exact refl t
  unfold Machine.endReply
  split
  · exact refl s
  · dsimp only
    split
    · exact .preceded (asks _) rfl
    · refine .trans ?_ (asks _)
      split
      · exact .preceded (complete ..) rfl
      · exact .preceded (completePlain ..) rfl

/-! ### The status writer (R178, R180) -/

theorem endSnapshot (code : ResultCode) (s : Block) : WaitsOn c s (endSnapshot code s) := by
  unfold Machine.endSnapshot
  split
  · exact .preceded (completePlain ..) rfl
  · exact refl s

section

variable (other : c ≠ .status)

include other

theorem askStatus (s : Block) : WaitsOn c s (askStatus s) := by
  unfold Machine.askStatus
  split
  · exact ask other _ _
  · exact refl s

theorem leaveStatus (s : Block) : WaitsOn c s (leaveStatus s) := .preceded (askStatus other _) rfl

theorem statusDone (s : Block) : WaitsOn c s (statusDone s) := by
  unfold Machine.statusDone
  split
  · split
    · exact .preceded (askStatus other _) rfl
    · exact .preceded (leaveStatus other _) rfl
  · split
    · exact .preceded (askStatus other _) rfl
    · exact .trans (endSnapshot ..) (leaveStatus other _)
  · exact refl s

theorem statusFault (s : Block) : WaitsOn c s (statusFault s) := by
  unfold Machine.statusFault
  split
  · exact .preceded (leaveStatus other _) rfl
  · exact .trans (endSnapshot ..) (leaveStatus other _)
  · exact refl s

end

/-! ### A client is handed the end of its tenure -/

theorem clientDone {d : Client} (other : c ≠ d) (words : List Word) {s : Block} (started : s.engine.state ≠ .starting) :
    WaitsOn c s (clientDone d words s) := by
  cases d with
  | scanner =>
    rw [Machine.clientDone, if_neg started]
    exact scannerDone other ..
  | results => exact resultsDone other s
  | loader =>
    rw [Machine.clientDone, if_neg started]
    exact loaderDone other ..
  | tables => exact tablesDone other ..
  | talkback => exact endReply other .ok s
  | status => exact statusDone other s

theorem clientFault {d : Client} (other : c ≠ d) (words : List Word) {s : Block} (started : s.engine.state ≠ .starting) :
    WaitsOn c s (clientFault d words s) := by
  cases d with
  | scanner =>
    rw [Machine.clientFault, if_neg started]
    exact scannerFault other s
  | results => exact setWriter other ..
  | loader =>
    rw [Machine.clientFault, if_neg started]
    exact loaderFault other ..
  | tables => exact tablesFault other s
  | talkback => exact endReply other .busFault s
  | status => exact statusFault other s

end WaitsOn

/-- Once a client has been handed the end of its tenure, from a part whose port is `b`'s set free, the others are served in order. -/
theorem servesInOrder_of_waitsOn {ended : Client} {b u v : Block} (work : portAndWork u = (u.port, (portAndWork b).2)) (idle : u.port.state = .idle)
    (waiting : u.port.waiting = b.port.waiting) (pointer : u.port.pointer = b.port.pointer) (on : ∀ c, c ≠ ended → WaitsOn c u v) :
    ServesInOrder ended b (serveNext v) := by
  obtain ⟨writer, current, reader⟩ : u.results.writer = b.results.writer ∧ u.loader.current = b.loader.current
    ∧ u.tables.reader = b.tables.reader := by simpa only [portAndWork, Prod.mk.injEq, true_and] using work
  refine servesInOrder fun c k waits other atWork => ?_
  have atWork' : AtWork c u := by
    rw [AtWork, writer, current, reader]
    exact atWork
  have waits' : u.port.waitingOf c = some k := by
    rw [Port.waitingOf, waiting]
    exact waits
  obtain ⟨stays, same⟩ := (on c other).on k ⟨idle, waits', atWork'⟩
  exact ⟨stays, same.trans pointer⟩

end Sys2Proof.Machine
end

section
/-! SUPPORT. The end of a tenure, Done or by a fault: what its client is handed, and what the end leaves to the other clients (R182 to R184,
R188, R189). -/

namespace Sys2Proof.Machine

/-! ### The part that a client is handed -/

/-- The slot whose body a scan is reading (R172). -/
def bodySlot (st : ScanStep) : Option (Fin 32) :=
  match st with
  | .body i _ _ _ => some i
  | .idle => none
  | .row _ => none
  | .claim _ _ _ => none

theorem bodySlot_withOwnStores (st : ScanStep) (a : Anchor) (k : TenureKind) (n : Nat) (m : Memory) :
    bodySlot (st.withOwnStores a k n m) = bodySlot st := by cases st <;> rfl

/-- The part `s` that a client of `b` is handed at the end of its tenure: words may have been performed, and the port is free. -/
structure TenureOver (b s : Block) : Prop where
  rest : s = { b with mem := s.mem, scanner := { b.scanner with step := s.scanner.step }, port := s.port }
  body : bodySlot s.scanner.step = bodySlot b.scanner.step
  idle : s.port.state = .idle
  current : s.port.current = none
  waiting : s.port.waiting = b.port.waiting
  pointer : s.port.pointer = b.port.pointer

theorem handedOver_over (k : TenureKind) (b : Block) : TenureOver b (handedOver k b) :=
  ⟨rfl, bodySlot_withOwnStores .., rfl, rfl, rfl, rfl⟩

theorem countFault_over (tn : Tenure) (landed : Bool) (b : Block) : TenureOver b (countFault tn landed b) :=
  ⟨rfl, bodySlot_withOwnStores .., rfl, rfl, rfl, rfl⟩

namespace TenureOver

variable {b s : Block} (ended : TenureOver b s)

include ended

theorem engine : s.engine = b.engine := by rw [ended.rest]

theorem control : s.control = b.control := by rw [ended.rest]

theorem anchor : s.anchor = b.anchor := by rw [ended.rest]

theorem anchorReg : s.anchorReg = b.anchorReg := by rw [ended.rest]

theorem time : s.time = b.time := by rw [ended.rest]

theorem intStatus : s.intStatus = b.intStatus := by rw [ended.rest]

theorem scanner : s.scanner = { b.scanner with step := s.scanner.step } := congrArg Block.scanner ended.rest

theorem results : s.results = b.results := by rw [ended.rest]

theorem status : s.status = b.status := by rw [ended.rest]

theorem playbacks : s.playbacks = b.playbacks := by rw [ended.rest]

theorem loader : s.loader = b.loader := by rw [ended.rest]

theorem tables : s.tables = b.tables := by rw [ended.rest]

theorem mixer : s.mixer = b.mixer := by rw [ended.rest]

theorem lines : s.lines = b.lines := by rw [ended.rest]

theorem talkback : s.talkback = b.talkback := by rw [ended.rest]

theorem runs (state : b.engine.state = .running ∨ b.engine.state = .stopping) : s.engine.state ≠ .halted := by
  rw [ended.engine]
  exact runs_of_state state

/-- What an ended client's work leaves waiting is served in order (R188). -/
theorem servesInOrder {client : Client} {v : Block} (on : ∀ c, c ≠ client → WaitsOn c s v) : ServesInOrder client b (serveNext v) := by
  refine servesInOrder_of_waitsOn (u := s) ?_ ended.idle ended.waiting ended.pointer on
  rw [portAndWork, portAndWork, ended.results, ended.loader, ended.tables]

end TenureOver

/-! ### TENURE_END (R183, R184, R189) -/

theorem performWords_whole (k : TenureKind) (m : Memory) :
    (∀ a n, k = .read a n → performWords k (tenureLength k m) m = m)
    ∧ (∀ a ws, k = .write a ws → performWords k (tenureLength k m) m = m.writeBurst a ws)
    ∧ ∀ a expect put, k = .modify a expect put →
        performWords k (tenureLength k m) m = if m.load (wordAddress a) = expect then m.store (wordAddress a) put else m := by
  refine ⟨fun a n kind => ?_, fun a ws kind => ?_, fun a expect put kind => ?_⟩
  · rw [kind, performWords]
  · rw [kind, performWords, tenureLength, List.take_length]
  · rw [kind, performWords, tenureLength]
    split
    · rename_i meets
      exact if_pos ⟨Nat.le_refl 2, meets⟩
    · rename_i fails
      exact if_neg fun both => fails both.2

theorem tenureEnd_ends {b : Block} {tn : Tenure} (phase : b.engine.phase = .released) (transfers : b.port.state = .transferring)
    (aborting : b.engine.aborting = false) (current : b.port.current = some tn) (q : List Instr) :
    exec .tenureEnd ⟨b, q⟩ = .next ⟨serveNext (clientDone tn.client (wordsOf tn.kind b.mem) (handedOver tn.kind b)), q⟩ := by
  have event : (live b && transferring b) = true := by simp [live, transferring, phase, transfers, aborting]
  have ended : endTenure b = serveNext (clientDone tn.client (wordsOf tn.kind b.mem) (handedOver tn.kind b)) := by
    rw [endTenure, current]
    exact endDone_eq (c := tn.client) (k := tn.kind) (done := tn.done) (value := tn.value) b
  exact ended ▸ answer_taken event endTenure b q

theorem endsWith_over {c : Client} {k : TenureKind} {b : Block} {P : Block → Prop} (ends : EndsDone c k b)
    (h : ∀ s, TenureOver b s → P (serveNext (clientDone c (wordsOf k b.mem) s))) : EndsWith b P := by
  obtain ⟨phase, transfers, aborting, done, value, current⟩ := ends
  exact fun q => ⟨_, tenureEnd_ends phase transfers aborting current q, h _ (handedOver_over k b)⟩

/-! ### Faults (R182, R183, R185 to R187, R189) -/

theorem endFaulted_below {tn : Tenure} {n : Nat} {landed : Bool} {b : Block} (below : b.port.consecutive < 2) :
    endFaulted tn n landed b
      = if b.engine.aborting then enterStopped (countFault (tn.underWay n b.mem) landed b)
        else serveNext (clientFault tn.client ((tn.underWay n b.mem).wordsRead b.mem) (countFault (tn.underWay n b.mem) landed b)) := by
  have few : (countFault (tn.underWay n b.mem) landed b).port.consecutive ≠ Config.faultLimit := by
    change min 3 (b.port.consecutive + 1) ≠ 3
    omega
  rw [endFaulted]
  exact if_neg few

theorem faultsWith_over {c : Client} {k : TenureKind} {b : Block} {done : Nat} {P : Block → Prop} (can : CanFault c k b)
    (h : ∀ (s : Block) (tn : Tenure), tn.kind = k → TenureOver b s → P (serveNext (clientFault c ((tn.underWay done b.mem).wordsRead b.mem) s))) :
    FaultsWith b done P := by
  obtain ⟨phase, aborting, below, before, value, current⟩ := can
  have faults : ∀ n landed, endFaulted ⟨c, k, before, value⟩ n landed b
      = serveNext (clientFault c ((Tenure.underWay ⟨c, k, before, value⟩ n b.mem).wordsRead b.mem)
          (countFault (Tenure.underWay ⟨c, k, before, value⟩ n b.mem) landed b)) := fun n landed => by
    rw [endFaulted_below below, if_neg (by rw [aborting]; exact Bool.false_ne_true)]
  have event : ∀ st, b.port.state = st → (live b && (b.port.state == st)) = true := fun st state => by simp [live, phase, state]
  have faulted : ∀ landed, P (faultTenure done landed b) := fun landed => by
    rw [faultTenure, current]
    dsimp only
    rw [if_neg (by rw [aborting]; exact Bool.false_ne_true), faults]
    exact h _ ⟨c, k, before, value⟩ rfl (countFault_over ..)
  refine fun q => ⟨fun requesting none => ⟨_, answer_taken (event _ requesting) grantTimesOut b q, ?_⟩, fun granted landed =>
    ⟨⟨_, answer_taken (event _ granted) (faultTenure done landed) b q, faulted landed⟩,
      _, answer_taken (event _ granted) (faultTenure done landed) b q, faulted landed⟩⟩
  subst none
  rw [grantTimesOut, current]
  dsimp only
  rw [faults]
  exact h _ ⟨c, k, before, value⟩ rfl (countFault_over ..)

end Sys2Proof.Machine
end

section
/-! SUPPORT. The result writer at the end of its bursts (R176). -/

namespace Sys2Proof.Machine

theorem startWriter_empty {s : Block} (queue : s.results.queue = []) : startWriter s = s := by
  rw [startWriter, queue]
  split
  · rename_i cons
    exact nomatch cons
  · rfl

theorem startWriter_begins {s : Block} {c : Completion} {rest : List Completion} (writer : s.results.writer = .idle)
    (queue : s.results.queue = c :: rest) (runs : s.engine.state = .running ∨ s.engine.state = .stopping) :
    startWriter s = ask .results (valuesBurst s.anchor c) { s with results := { s.results with writer := .values } } := by
  rw [startWriter, writer, queue]
  exact if_pos runs

/-- The part once the head has left the result queue, its DONE written. -/
def headWritten (rest : List Completion) (s : Block) : Block :=
  raiseInt .requestDone { s with results := { s.results with queue := rest, writer := .idle } }

theorem resultsDone_values {s : Block} {c : Completion} {rest : List Completion} (writer : s.results.writer = .values)
    (queue : s.results.queue = c :: rest) : resultsDone s = ask .results (doneBurst s.anchor c) (setWriter .done s) := by
  rw [resultsDone, writer, queue]

theorem resultsDone_done {s : Block} {c : Completion} {rest : List Completion} (writer : s.results.writer = .done)
    (queue : s.results.queue = c :: rest) : resultsDone s = startWriter (headWritten rest s) := by
  rw [resultsDone, writer, queue]
  rfl

section

variable {b s : Block} (ended : TenureOver b s) {c : Completion} {rest : List Completion} (queue : b.results.queue = c :: rest)

include ended queue

/-- After the values DONE is written. -/
theorem resultsDone_writes_done (writer : b.results.writer = .values) :
    (serveNext (resultsDone s)).results = { b.results with writer := .done }
      ∧ (b.engine.state ≠ .halted → Asks .results (.write (stateWordAddress b.anchor c.slot) [3]) (serveNext (resultsDone s))) := by
  rw [resultsDone_values (by rw [ended.results]; exact writer) (by rw [ended.results]; exact queue), ended.anchor]
  refine ⟨?_, fun runs => Stands.asks (stands_serveNext (stands_ask _ _ ?_))⟩
  · change (ask .results (doneBurst b.anchor c) (setWriter .done s)).results = _
    rw [ask_results, setWriter, ended.results]
  · change s.engine.state ≠ .halted
    rw [ended.engine]
    exact runs

/-- After DONE the writer goes on to the next completion, or is IDLE. -/
theorem resultsDone_goes_on (writer : b.results.writer = .done) :
    isRaised .requestDone (serveNext (resultsDone s)) = true ∧ (serveNext (resultsDone s)).results.queue = rest
      ∧ (serveNext (resultsDone s)).results.reserved = b.results.reserved
      ∧ (rest = [] → (serveNext (resultsDone s)).results.writer = .idle)
      ∧ (b.engine.state = .running ∨ b.engine.state = .stopping → ∀ c' rest', rest = c' :: rest' →
          WritesTheValuesOf c' b (serveNext (resultsDone s))) := by
  rw [resultsDone_done (by rw [ended.results]; exact writer) (by rw [ended.results]; exact queue)]
  have started := startWriter_eq (headWritten rest s)
  refine ⟨?_, ?_, ?_, fun empty => ?_, fun runs c' rest' next => ?_⟩
  · change isRaised .requestDone (startWriter (headWritten rest s)) = true
    rw [isRaised, startWriter_intStatus]
    exact isRaised_raiseInt.2 (.inr rfl)
  · change (startWriter (headWritten rest s)).results.queue = rest
    rw [started]
    rfl
  · change (startWriter (headWritten rest s)).results.reserved = _
    rw [started, ← ended.results]
    rfl
  · rw [startWriter_empty (s := headWritten rest s) empty]
    rfl
  · have state : s.engine.state = .running ∨ s.engine.state = .stopping := by rw [ended.engine]; exact runs
    rw [startWriter_begins (s := headWritten rest s) rfl next state]
    have anchor : (headWritten rest s).anchor = b.anchor := ended.anchor
    rw [anchor]
    refine ⟨?_, Stands.asks (stands_serveNext (stands_ask _ _ (ended.runs runs)))⟩
    change (ask .results (valuesBurst b.anchor c') _).results.writer = _
    rw [ask_results]

/-- The DONE burst of the only completion asks for nothing. -/
theorem resultsDone_port (writer : b.results.writer = .done) (last : rest = []) : (resultsDone s).port = s.port := by
  rw [resultsDone_done (by rw [ended.results]; exact writer) (by rw [ended.results]; exact queue), startWriter_empty (s := headWritten rest s) last]
  rfl

end

end Sys2Proof.Machine
end

section
/-! SUPPORT. The tenures of a start: the anchor block and the lock sweep (R62, R63, R169, R192). -/

namespace Sys2Proof.Machine

/-! ### The sweep (R62) -/

/-- The sweep goes on with a bank (R62). -/
theorem sweepFrom_next {bank : Nat} {s : Block} (runs : s.engine.state ≠ .halted) (more : bank < s.anchor.bankCount) :
    (serveNext (sweepFrom bank s)).engine = { s.engine with start := .sweep bank }
      ∧ Asks .loader (.modify (s.anchor.banks[bank]?.getD 0) 2 0) (serveNext (sweepFrom bank s)) := by
  have asks : sweepFrom bank s = ask .loader (sweepTenure s bank) (modEngine (fun e => { e with start := .sweep bank }) s) := if_pos more
  rw [asks]
  refine ⟨?_, Stands.asks (stands_serveNext (stands_ask _ _ runs))⟩
  rw [serveNext_engine, ask_engine]
  rfl

/-- After the last bank the engine is RUNNING (R62, R192). -/
theorem sweepFrom_last {bank : Nat} {s : Block} (last : s.anchor.bankCount ≤ bank) :
    (serveNext (sweepFrom bank s)).engine = { s.engine with state := .running, start := .idle }
      ∧ (serveNext (sweepFrom bank s)).scanner.countdown = s.time.inForce.scan
      ∧ (serveNext (sweepFrom bank s)).status.countdown = s.time.inForce.status := by
  have runs : sweepFrom bank s = enterRunning s := if_neg (Nat.not_lt.2 last)
  rw [runs]
  exact ⟨rfl, rfl, rfl⟩

theorem sweepFrom_loads (bank : Nat) (s : Block) : (sweepFrom bank s).loader = s.loader := by
  unfold sweepFrom
  split
  · exact ask_loader ..
  · rfl

theorem sweepFrom_anchor (bank : Nat) (s : Block) : (sweepFrom bank s).anchor = s.anchor := by
  unfold sweepFrom
  split
  · exact ask_anchor ..
  · rfl

/-- A sweep that goes on after its tenure with bank `bank`, from the part `s` that is `b` but for what the tenure has performed and counted. -/
theorem sweep_goes_on {bank : Nat} {b s : Block} (state : b.engine.state = .starting) (engine : s.engine = b.engine) (anchor : s.anchor = b.anchor)
    (time : s.time = b.time) :
    (bank + 1 < b.anchor.bankCount → (serveNext (sweepFrom (bank + 1) s)).engine = { b.engine with start := .sweep (bank + 1) }
        ∧ Asks .loader (.modify (b.anchor.banks[bank + 1]?.getD 0) 2 0) (serveNext (sweepFrom (bank + 1) s)))
    ∧ (b.anchor.bankCount ≤ bank + 1 → (serveNext (sweepFrom (bank + 1) s)).engine = { b.engine with state := .running, start := .idle }
        ∧ (serveNext (sweepFrom (bank + 1) s)).scanner.countdown = b.time.inForce.scan
        ∧ (serveNext (sweepFrom (bank + 1) s)).status.countdown = b.time.inForce.status) := by
  rw [← engine, ← anchor, ← time]
  have runs : s.engine.state ≠ .halted := by rw [engine, state]; decide
  exact ⟨sweepFrom_next runs, sweepFrom_last⟩

/-! ### The anchor block (R169) -/

theorem anchorOk_iff (ws : List Word) : anchorOk ws = true ↔
    ws[0]?.getD 0 = 0x46513341 ∧ 4 ≤ (ws[2]?.getD 0).toNat ∧ (ws[2]?.getD 0).toNat ≤ 32 ∧ 1 ≤ (ws[4]?.getD 0).toNat
      ∧ (ws[4]?.getD 0).toNat ≤ 16 := by
  have mark : (ws[0]?.getD 0).toNat = Config.anchorMark ↔ ws[0]?.getD 0 = 0x46513341 :=
    ⟨fun h => BitVec.eq_of_toNat_eq h, fun h => congrArg BitVec.toNat h⟩
  unfold anchorOk
  rw [Bool.and_eq_true, Bool.and_eq_true, Bool.and_eq_true, Bool.and_eq_true, and_assoc, and_assoc, and_assoc]
  exact and_congr (decide_eq_true_iff.trans mark) (and_congr decide_eq_true_iff (and_congr decide_eq_true_iff
    (and_congr decide_eq_true_iff decide_eq_true_iff)))

theorem anchorRead_more {before words : List Word} {s : Block} (short : (before ++ words).length < 21) :
    anchorRead before words s
      = ask .scanner (.read (wordOffset s.anchorReg (before ++ words).length) (burstLength (21 - (before ++ words).length)))
          (modEngine (fun e => { e with start := .anchor (before ++ words) }) s) := if_pos short

theorem anchorRead_passes {before words : List Word} {s : Block} (whole : 21 ≤ (before ++ words).length)
    (passes : anchorOk (before ++ words) = true) :
    anchorRead before words s = sweepFrom 0 { s with anchor := anchorOf (before ++ words) } :=
  (if_neg (Nat.not_lt.2 whole)).trans (if_pos passes)

theorem anchorRead_fails {before words : List Word} {s : Block} (whole : 21 ≤ (before ++ words).length)
    (fails : ¬anchorOk (before ++ words) = true) : anchorRead before words s = anchorBad s :=
  (if_neg (Nat.not_lt.2 whole)).trans (if_neg fails)

/-- A start that ends with ANCHOR_BAD (R192). -/
theorem anchorBad_ends {b s : Block} (ended : TenureOver b s) :
    (serveNext (anchorBad s)).engine = { b.engine with state := .stopped, fault := .anchorBad, start := .idle }
      ∧ (serveNext (anchorBad s)).control = { b.control with run := false } ∧ (serveNext (anchorBad s)).anchor = b.anchor
      ∧ isRaised .fault (serveNext (anchorBad s)) = true := by
  refine ⟨?_, ?_, ended.anchor, isRaised_raiseInt.2 (.inr rfl)⟩
  · rw [← ended.engine]
    rfl
  · rw [← ended.control]
    rfl

/-! ### What a client of the start is handed (R188) -/

theorem clientDone_starting {s : Block} (state : s.engine.state = .starting) (words : List Word) :
    clientDone .scanner words s = startDone words s ∧ clientDone .loader words s = startDone words s := ⟨if_pos state, if_pos state⟩

theorem clientFault_starting {s : Block} (state : s.engine.state = .starting) (words : List Word) :
    clientFault .scanner words s = startFault s ∧ clientFault .loader words s = startFault s := ⟨if_pos state, if_pos state⟩

section

variable {b : Block} (state : b.engine.state = .starting)

include state

/-- The anchor tenures (R169, R192). -/
theorem anchorTenures_lead_on (before : List Word) (a : Word) (n : Nat) (start : b.engine.start = .anchor before)
    (ends : EndsDone .scanner (.read a n) b) :
    let all := before ++ b.mem.readBurst a n
    let w := fun k : Nat => all[k]?.getD 0
    let passes := w 0 = 0x46513341 ∧ 4 ≤ (w 2).toNat ∧ (w 2).toNat ≤ 32 ∧ 1 ≤ (w 4).toNat ∧ (w 4).toNat ≤ 16
    (before = [] → n = 16 → EndsWith b fun t =>
      t.engine = { b.engine with start := .anchor all } ∧ Asks .scanner (.read (b.anchorReg + 64) 5) t ∧ t.anchor = b.anchor)
    ∧ (before.length = 16 → n = 5 → passes → EndsWith b fun t =>
      t.anchor = ⟨w 1, (w 2).toNat, w 3, (w 4).toNat, all.drop 5⟩ ∧ t.engine = { b.engine with start := .sweep 0 }
        ∧ Asks .loader (.modify (w 5) 2 0) t)
    ∧ (before.length = 16 → n = 5 → ¬passes → EndsWith b fun t =>
      t.anchor = b.anchor ∧ t.engine = { b.engine with state := .stopped, fault := .anchorBad, start := .idle }
        ∧ t.control = { b.control with run := false } ∧ isRaised .fault t = true) := by
  intro all w passes
  have reads : ∀ s, TenureOver b s → clientDone .scanner (wordsOf (.read a n) b.mem) s = anchorRead before (b.mem.readBurst a n) s :=
    fun s ended => by
      rw [(clientDone_starting (by rw [ended.engine]; exact state) _).1, startDone, ended.engine, start]
      rfl
  have runs : ∀ s, TenureOver b s → s.engine.state ≠ .halted := fun s ended => by rw [ended.engine, state]; decide
  have length : (before ++ b.mem.readBurst a n).length = before.length + n := by rw [List.length_append, readBurst_length]
  refine ⟨fun first burst => ?_, fun first burst pass => ?_, fun first burst fail => ?_⟩
  · refine endsWith_over ends fun s ended => ?_
    have sixteen : (before ++ b.mem.readBurst a n).length = 16 := by rw [length, first, burst]; rfl
    rw [reads s ended, anchorRead_more (by omega)]
    refine ⟨?_, ?_, ?_⟩
    · rw [serveNext_engine, ask_engine, ← ended.engine]
      rfl
    · have next : wordOffset s.anchorReg (before ++ b.mem.readBurst a n).length = b.anchorReg + 64 := by rw [sixteen, ended.anchorReg]; rfl
      have rest : burstLength (21 - (before ++ b.mem.readBurst a n).length) = 5 := by rw [sixteen]; rfl
      rw [next, rest]
      exact Stands.asks (stands_serveNext (stands_ask _ _ (runs s ended)))
    · change (ask _ _ _).anchor = _
      rw [ask_anchor]
      exact ended.anchor
  · refine endsWith_over ends fun s ended => ?_
    rw [reads s ended, anchorRead_passes (by omega) ((anchorOk_iff _).2 pass)]
    obtain ⟨engine, asks⟩ := sweepFrom_next (bank := 0) (s := { s with anchor := anchorOf all }) (runs s ended) pass.2.2.2.1
    have fifth : (anchorOf all).banks[0]?.getD 0 = w 5 := by
      change (all.drop 5)[0]?.getD 0 = _
      rw [List.getElem?_drop]
    rw [fifth] at asks
    refine ⟨?_, ?_, asks⟩
    · change (sweepFrom 0 _).anchor = _
      rw [sweepFrom_anchor]
      rfl
    · rw [engine, ← ended.engine]
  · refine endsWith_over ends fun s ended => ?_
    rw [reads s ended, anchorRead_fails (by omega) fun pass => fail ((anchorOk_iff _).1 pass)]
    obtain ⟨engine, control, anchor, raised⟩ := anchorBad_ends ended
    exact ⟨anchor, engine, control, raised⟩

end

/-- What the tenures of a start lead to (R62, R169, R171, R177, R192). -/
theorem aStartsTenuresLeadOn : AStartsTenuresLeadOn := by
  refine fun b state => ⟨fun before a n start ends => anchorTenures_lead_on state before a n start ends, fun bank a start ends => ?_⟩
  refine endsWith_over ends fun s ended => ?_
  have sweeps : clientDone .loader (wordsOf (.modify a 2 0) b.mem) s
      = sweepFrom (bank + 1) (if b.mem.load (wordAddress a) = 2 then countSweep s else s) := by
    rw [(clientDone_starting (by rw [ended.engine]; exact state) _).2, startDone, ended.engine, start]
    rfl
  rw [sweeps]
  have kept : ∀ f : Block → Block, f = countSweep ∨ f = id → (f s).engine = b.engine ∧ (f s).anchor = b.anchor ∧ (f s).time = b.time := by
    rintro f (rfl | rfl) <;> exact ⟨ended.engine, ended.anchor, ended.time⟩
  split
  · obtain ⟨engine, anchor, time⟩ := kept _ (.inl rfl)
    refine ⟨?_, sweep_goes_on state engine anchor time⟩
    rw [serveNext_loader, sweepFrom_loads, ← ended.loader]
    rfl
  · obtain ⟨engine, anchor, time⟩ := kept _ (.inr rfl)
    refine ⟨?_, sweep_goes_on state engine anchor time⟩
    rw [serveNext_loader, sweepFrom_loads, ended.loader]

/-- What a fault in a start leads to (R63, R192). -/
theorem aFaultInAStart : AFaultInAStart := by
  refine fun b k done state => ⟨fun before start can => ?_, fun bank start can => ?_⟩
  · refine faultsWith_over can fun s tn _ ended => ?_
    rw [(clientFault_starting (by rw [ended.engine]; exact state) _).1, startFault, ended.engine, start]
    exact anchorBad_ends ended
  · refine faultsWith_over can fun s tn _ ended => ?_
    rw [(clientFault_starting (by rw [ended.engine]; exact state) _).2, startFault, ended.engine, start]
    refine ⟨?_, sweep_goes_on state ended.engine ended.anchor ended.time⟩
    rw [serveNext_loader, sweepFrom_loads, ended.loader]

end Sys2Proof.Machine
end

section
/-! SUPPORT. The status writer at the end of its bursts (R178, R180). -/

namespace Sys2Proof.Machine

theorem askStatus_eq (s : Block) : askStatus s = { s with port := (askStatus s).port } := by
  unfold askStatus
  split
  · exact ask_eq ..
  · rfl

theorem askStatus_asks {s : Block} {k : TenureKind} (burst : statusBurst s = some k) (runs : s.engine.state ≠ .halted) :
    Asks .status k (serveNext (askStatus s)) := by
  rw [askStatus, burst]
  exact Stands.asks (stands_serveNext (stands_ask _ _ runs))

theorem askStatus_none {s : Block} (none : statusBurst s = none) : askStatus s = s := by rw [askStatus, none]

theorem serveNext_askStatus_status (s : Block) : (serveNext (askStatus s)).status = s.status := by
  change (askStatus s).status = _
  rw [askStatus_eq]

theorem clientDone_status (words : List Word) (s : Block) : clientDone .status words s = statusDone s := rfl

theorem clientFault_status (words : List Word) (s : Block) : clientFault .status words s = statusFault s := rfl

/-! ### The burst that the first job is at -/

theorem statusBurst_page {s : Block} {j : PageJob} {rest : List StatusJob} (order : s.status.order = .page :: rest)
    (page : s.status.page = some j) : statusBurst s = some (pageBurst s j) := by rw [statusBurst, order, page]

theorem statusBurst_snapshot {s : Block} {slot : Fin 32} {address : Word} {words : List Word} {n : Nat} {rest : List StatusJob}
    (order : s.status.order = .snapshot :: rest) (snapshot : s.status.snapshot = some ⟨slot, address, .writing words n⟩) :
    statusBurst s = some (snapshotBurst address words n) := by rw [statusBurst, order, snapshot]

theorem statusBurst_nothing {s : Block} (order : s.status.order = []) : statusBurst s = none := by
  rw [statusBurst, order]

theorem pageBurst_first {s : Block} {j : PageJob} (first : j.burst = 0) : pageBurst s j = .write s.anchor.statusPage [s.status.edition + 1] :=
  if_pos first

theorem pageBurst_body {s : Block} {j : PageJob} (body : List Word) (some : j.burst ≤ 6) :
    pageBurst s ⟨body, j.burst + 1⟩
      = .write (s.anchor.statusPage + BitVec.ofNat 32 (4 * (16 * j.burst + 1))) ((body.drop (16 * j.burst)).take 16) :=
  (if_neg (Nat.succ_ne_zero _)).trans (if_pos (by show j.burst + 1 < 8; omega))

theorem pageBurst_last {s : Block} {j : PageJob} (last : 8 ≤ j.burst) : pageBurst s j = .write s.anchor.statusPage [s.status.edition + 2] :=
  (if_neg (by omega)).trans (if_neg (by omega))

theorem snapshotBurst_first (address : Word) (words : List Word) : snapshotBurst address words 0 = .write address (words.take 16) := by
  have origin : wordOffset address 0 = address := BitVec.add_zero address
  rw [snapshotBurst, slice, Nat.mul_zero, origin, List.drop_zero]

theorem snapshotBurst_next (address : Word) (words : List Word) (n : Nat) :
    snapshotBurst address words n = .write (address + BitVec.ofNat 32 (64 * n)) ((words.drop (16 * n)).take 16) := by
  rw [snapshotBurst, slice, wordOffset, ← Nat.mul_assoc]

/-! ### A job goes on -/

section

variable {b s : Block} (ended : TenureOver b s) (runs : b.engine.state ≠ .halted)

include ended runs

/-- The page job goes on with its next burst. -/
theorem page_goes_on {j : PageJob} {rest : List StatusJob} (order : b.status.order = .page :: rest) (page : b.status.page = some j)
    (more : j.burst < 8) :
    (serveNext (statusDone s)).status = { b.status with page := some { j with burst := j.burst + 1 } }
      ∧ Asks .status (pageBurst b ⟨j.body, j.burst + 1⟩) (serveNext (statusDone s)) := by
  have done : statusDone s = askStatus (modStatus (fun w => { w with page := some { j with burst := j.burst + 1 } }) s) := by
    rw [statusDone, ended.status, order, page]
    exact if_pos more
  rw [done]
  refine ⟨?_, askStatus_asks ?_ ?_⟩
  · rw [serveNext_askStatus_status, modStatus, ended.status]
  · have next := statusBurst_page (s := modStatus (fun w => { w with page := some { j with burst := j.burst + 1 } }) s) (rest := rest)
      (by rw [modStatus, ended.status]; exact order) rfl
    rw [next, pageBurst, pageBurst, modStatus, ended.status, ended.anchor]
  · change s.engine.state ≠ .halted
    rw [ended.engine]
    exact runs

/-- The snapshot goes on with its next burst. -/
theorem snapshot_goes_on {slot : Fin 32} {address : Word} {words : List Word} {n : Nat} {rest : List StatusJob}
    (order : b.status.order = .snapshot :: rest) (snapshot : b.status.snapshot = some ⟨slot, address, .writing words n⟩) (more : n < 31) :
    (serveNext (statusDone s)).status = { b.status with snapshot := some ⟨slot, address, .writing words (n + 1)⟩ }
      ∧ Asks .status (snapshotBurst address words (n + 1)) (serveNext (statusDone s)) := by
  have done : statusDone s = askStatus (modStatus (fun w => { w with snapshot := some ⟨slot, address, .writing words (n + 1)⟩ }) s) := by
    rw [statusDone, ended.status, order, snapshot]
    exact if_pos more
  rw [done]
  refine ⟨?_, askStatus_asks (statusBurst_snapshot (rest := rest) ?_ rfl) ?_⟩
  · rw [serveNext_askStatus_status, modStatus, ended.status]
  · rw [modStatus, ended.status]
    exact order
  · change s.engine.state ≠ .halted
    rw [ended.engine]
    exact runs

end

/-! ### A job leaves, and the one that waits begins -/

theorem leaveStatus_status (s : Block) : (serveNext (leaveStatus s)).status = { s.status with order := s.status.order.drop 1 } :=
  serveNext_askStatus_status _

theorem leaveStatus_results (s : Block) : (leaveStatus s).results = s.results := by
  rw [leaveStatus, askStatus_eq]
  rfl

theorem leaveStatus_intStatus (s : Block) : (leaveStatus s).intStatus = s.intStatus := by
  rw [leaveStatus, askStatus_eq]
  rfl

/-- The job that leaves was the only one: nothing is asked for. -/
theorem leaveStatus_port {s : Block} {j : StatusJob} (order : s.status.order = [j]) : (leaveStatus s).port = s.port := by
  rw [leaveStatus, askStatus_none (statusBurst_nothing (by rw [modStatus, order]; rfl))]
  rfl

/-- A snapshot that waits begins with its first sixteen words. -/
theorem leaveStatus_begins_snapshot {s : Block} {j : StatusJob} {slot : Fin 32} {address : Word} {words : List Word} {rest : List StatusJob}
    (order : s.status.order = j :: .snapshot :: rest) (snapshot : s.status.snapshot = some ⟨slot, address, .writing words 0⟩)
    (runs : s.engine.state ≠ .halted) : Asks .status (.write address (words.take 16)) (serveNext (leaveStatus s)) := by
  rw [← snapshotBurst_first]
  exact askStatus_asks (statusBurst_snapshot (rest := rest) (by rw [modStatus, order]; rfl) snapshot) runs

/-- A page job that waits begins with the odd edition. -/
theorem leaveStatus_begins_page {s : Block} {j : StatusJob} {page : PageJob} {rest : List StatusJob}
    (order : s.status.order = j :: .page :: rest) (waits : s.status.page = some page) (first : page.burst = 0)
    (runs : s.engine.state ≠ .halted) :
    Asks .status (.write s.anchor.statusPage [s.status.edition + 1]) (serveNext (leaveStatus s)) := by
  have burst : statusBurst (modStatus (fun w => { w with order := w.order.drop 1 }) s) = _ :=
    statusBurst_page (rest := rest) (by rw [modStatus, order]; rfl) waits
  rw [pageBurst_first first] at burst
  exact askStatus_asks burst runs

section

variable {b s : Block} (ended : TenureOver b s)

include ended

/-- The page job ends, from a part `u` in which the edition counter has its even value and the job is removed. -/
theorem page_ends {u : Block} {rest : List StatusJob} (order : b.status.order = .page :: rest) (status : u.status = (endPage s).status)
    (runs : u.engine.state ≠ .halted) :
    (serveNext (leaveStatus u)).status = { b.status with page := none, edition := b.status.edition + 2, order := rest }
      ∧ ∀ slot address words rest', rest = .snapshot :: rest' → b.status.snapshot = some ⟨slot, address, .writing words 0⟩ →
          Asks .status (.write address (words.take 16)) (serveNext (leaveStatus u)) := by
  have page : u.status = { b.status with edition := b.status.edition + 2, page := none } := by
    rw [status, endPage, modStatus, ended.status]
  refine ⟨?_, fun slot address words rest' waits snapshot => leaveStatus_begins_snapshot (j := .page) (slot := slot) (rest := rest') ?_ ?_ runs⟩
  · rw [leaveStatus_status, page, order]
    rfl
  · rw [page, ← waits]
    exact order
  · rw [page]
    exact snapshot

/-- The snapshot ends with a code. -/
theorem snapshot_ends (code : ResultCode) {slot : Fin 32} {address : Word} {words : List Word} {n : Nat} {rest : List StatusJob}
    (runs : b.engine.state ≠ .halted) (order : b.status.order = .snapshot :: rest)
    (snapshot : b.status.snapshot = some ⟨slot, address, .writing words n⟩) :
    let t := serveNext (leaveStatus (endSnapshot code s))
    t.status = { b.status with snapshot := none, order := rest }
      ∧ (slot ∈ b.results.reserved → t.results.queue = b.results.queue ++ [⟨slot, code, 0, 0, 0⟩])
      ∧ ∀ j rest', rest = .page :: rest' → b.status.page = some j → j.burst = 0 →
          Asks .status (.write b.anchor.statusPage [b.status.edition + 1]) t := by
  have ends : endSnapshot code s = completePlain slot code (modStatus (fun w => { w with snapshot := none }) s) := by
    rw [endSnapshot, ended.status, snapshot]
  have status : (endSnapshot code s).status = { b.status with snapshot := none } := by
    rw [ends, completePlain_status, modStatus, ended.status]
  have engine : (endSnapshot code s).engine.state ≠ .halted := by
    rw [endSnapshot_engine, ended.engine]
    exact runs
  refine ⟨?_, fun place => ?_, fun j rest' waits page first => ?_⟩
  · rw [leaveStatus_status, status, order]
    rfl
  · change (leaveStatus _).results.queue = _
    rw [leaveStatus_results, ends, completePlain, complete_reserved_queue]
    · rw [modStatus, ended.results]
    · rw [modStatus, ended.results]
      exact List.contains_iff_mem.2 place
    · change s.engine.state ≠ .halted
      rw [ended.engine]
      exact runs
  · have begins := leaveStatus_begins_page (s := endSnapshot code s) (j := .snapshot) (rest := rest')
      (by rw [status, ← waits]; exact order) (by rw [status]; exact page) first engine
    have anchor : (endSnapshot code s).anchor = b.anchor := by
      rw [ends, completePlain_anchor, modStatus, ended.anchor]
    rwa [anchor, status] at begins

/-! ### The ends of the writer's bursts -/

theorem statusDone_last {j : PageJob} {rest : List StatusJob} (order : b.status.order = .page :: rest) (page : b.status.page = some j)
    (last : 8 ≤ j.burst) : statusDone s = leaveStatus (raiseInt .status (endPage s)) := by
  rw [statusDone, ended.status, order, page]
  exact if_neg (Nat.not_lt.2 last)

theorem statusDone_written {slot : Fin 32} {address : Word} {words : List Word} {n : Nat} {rest : List StatusJob}
    (order : b.status.order = .snapshot :: rest) (snapshot : b.status.snapshot = some ⟨slot, address, .writing words n⟩) (last : 31 ≤ n) :
    statusDone s = leaveStatus (endSnapshot .ok s) := by
  rw [statusDone, ended.status, order, snapshot]
  exact if_neg (Nat.not_lt.2 last)

theorem statusFault_page {rest : List StatusJob} (order : b.status.order = .page :: rest) : statusFault s = leaveStatus (endPage s) := by
  rw [statusFault, ended.status, order]

theorem statusFault_snapshot {rest : List StatusJob} (order : b.status.order = .snapshot :: rest) :
    statusFault s = leaveStatus (endSnapshot .busFault s) := by
  rw [statusFault, ended.status, order]

/-- The last burst of a page raises STATUS, the edition even and the job removed. -/
theorem statusDone_ends_page {j : PageJob} {rest : List StatusJob} (order : b.status.order = .page :: rest) (page : b.status.page = some j)
    (last : 8 ≤ j.burst) :
    isRaised .status (serveNext (statusDone s)) = true ∧ (serveNext (statusDone s)).status.edition = b.status.edition + 2
      ∧ (serveNext (statusDone s)).status.page = none ∧ (serveNext (statusDone s)).status.order = rest := by
  have status : (serveNext (statusDone s)).status = { b.status with page := none, edition := b.status.edition + 2, order := rest } := by
    rw [statusDone_last ended order page last, leaveStatus_status]
    change { (endPage s).status with order := s.status.order.drop 1 } = _
    rw [endPage, modStatus, ended.status, order]
    rfl
  refine ⟨?_, congrArg StatusWriter.edition status, congrArg StatusWriter.page status, congrArg StatusWriter.order status⟩
  rw [statusDone_last ended order page last]
  change isRaised .status (leaveStatus _) = true
  rw [isRaised, leaveStatus_intStatus]
  exact isRaised_raiseInt.2 (.inr rfl)

/-- The last burst of the only job asks for nothing. -/
theorem statusDone_port {j : PageJob} (order : b.status.order = [.page]) (page : b.status.page = some j) (last : 8 ≤ j.burst) :
    (statusDone s).port = s.port := by
  rw [statusDone_last ended order page last]
  refine leaveStatus_port (j := .page) ?_
  change s.status.order = _
  rw [ended.status, order]

end

/-! ### What the status writer's tenures lead to -/

theorem theStatusWritersBurstsLeadOn : TheStatusWritersBurstsLeadOn := by
  intro b k rest ends state
  have runs := runs_of_state state
  refine ⟨fun j order page => ⟨fun some => ?_, fun seven => ?_, fun slot address words rest' last waits snapshot => ?_⟩,
    fun slot address words n order snapshot => ⟨fun more => ?_, fun last => ?_⟩⟩
  · refine endsWith_over ends fun s ended => ?_
    have goes := page_goes_on ended runs order page (by omega)
    rwa [pageBurst_body j.body some] at goes
  · refine endsWith_over ends fun s ended => ?_
    have goes := page_goes_on ended runs order page (by omega)
    rwa [pageBurst_last (j := ⟨j.body, j.burst + 1⟩) (by show 8 ≤ j.burst + 1; omega), seven] at goes
  · refine endsWith_over ends fun s ended => ?_
    rw [clientDone_status, statusDone_last ended order page last]
    obtain ⟨status, begins⟩ := page_ends ended (u := raiseInt .status (endPage s)) order rfl (ended.runs state)
    exact ⟨status, begins slot address words rest' waits snapshot⟩
  · refine endsWith_over ends fun s ended => ?_
    have goes := snapshot_goes_on ended runs order snapshot more
    rwa [snapshotBurst_next] at goes
  · refine endsWith_over ends fun s ended => ?_
    rw [clientDone_status, statusDone_written ended order snapshot last]
    exact snapshot_ends ended .ok runs order snapshot

/-- A fault of the STATUS client (R178, R180). -/
theorem aFaultEndsTheStatusJob : AFaultEndsTheStatusJob := by
  intro b k done rest state can
  have runs := runs_of_state state
  refine ⟨fun order => ?_, fun slot address words n order snapshot => ?_⟩
  · refine faultsWith_over can fun s tn _ ended => ?_
    rw [clientFault_status, statusFault_page ended order]
    obtain ⟨status, begins⟩ := page_ends ended (u := endPage s) order rfl (ended.runs state)
    refine ⟨status, ?_, begins⟩
    change (leaveStatus (endPage s)).intStatus = _
    rw [leaveStatus_intStatus, ← ended.intStatus]
    rfl
  · refine faultsWith_over can fun s tn _ ended => ?_
    rw [clientFault_status, statusFault_snapshot ended order]
    exact snapshot_ends ended .busFault runs order snapshot

end Sys2Proof.Machine
end

section
/-! SUPPORT. The TALKBACK client at the end of a reply's write (R153), and the result writer's fault (R176). -/

namespace Sys2Proof.Machine

/-! ### A reply's words (R153, R181) -/

/-- Digit `k` of a number below 2 ^ 32 in base 256. -/
theorem digit_of_four {a b c d k : Nat} (inWord : k < 4) (boundA : a < 256) (boundB : b < 256) (boundC : c < 256) (boundD : d < 256) :
    (a + 256 * b + 65536 * c + 16777216 * d) / 2 ^ (8 * k) % 256 = [a, b, c, d][k]?.getD 0 := by
  have first : (a + 256 * b + 65536 * c + 16777216 * d) / 1 % 256 = a := by omega
  have second : (a + 256 * b + 65536 * c + 16777216 * d) / 256 % 256 = b := by omega
  have third : (a + 256 * b + 65536 * c + 16777216 * d) / 65536 % 256 = c := by omega
  have fourth : (a + 256 * b + 65536 * c + 16777216 * d) / 16777216 % 256 = d := by omega
  interval_cases k
  · exact first
  · exact second
  · exact third
  · exact fourth

theorem packed_bytes_fit (a b c d : Byte) : a.toNat + 256 * b.toNat + 65536 * c.toNat + 16777216 * d.toNat < 4294967296 := by
  have boundA := a.isLt
  have boundB := b.isLt
  have boundC := c.isLt
  have boundD := d.isLt
  omega

theorem packed_bytes_toNat (a b c d : Byte) : (packed [(a.toNat, 0), (b.toNat, 8), (c.toNat, 16), (d.toNat, 24)]).toNat
    = a.toNat + 256 * b.toNat + 65536 * c.toNat + 16777216 * d.toNat := by
  rw [packed_four, BitVec.toNat_ofNat]
  simp only [Nat.reducePow]
  exact Nat.mod_eq_of_lt (packed_bytes_fit a b c d)

theorem getD_map_toNat (bs : List Byte) (k : Nat) : (bs.map BitVec.toNat)[k]?.getD 0 = (bs[k]?.getD 0).toNat := by
  rw [List.getElem?_map]
  cases bs[k]? <;> rfl

/-- Byte `k` of a word packed from four bytes. -/
theorem byte_of_packed (a b c d : Byte) {k : Nat} (inWord : k < 4) :
    (packed [(a.toNat, 0), (b.toNat, 8), (c.toNat, 16), (d.toNat, 24)]).toNat / 2 ^ (8 * k) % 256 = ([a, b, c, d][k]?.getD 0).toNat := by
  rw [packed_bytes_toNat, digit_of_four inWord a.isLt b.isLt c.isLt d.isLt]
  exact getD_map_toNat [a, b, c, d] k

theorem packed_zero (fields : List (Nat × Nat)) (n : Nat) : packed fields = packed (fields ++ [(0, n)]) := by
  rw [packed, packed, List.map_append, List.sum_append, List.map_singleton, List.sum_singleton, Nat.zero_mul, Nat.add_zero]

/-- At most four bytes make one word, the bytes that are not there being 0. -/
theorem packBytes_short (a : Byte) {more : List Byte} (few : more.length ≤ 3) :
    packBytes (a :: more)
      = [packed [(a.toNat, 0), ((more[0]?.getD 0).toNat, 8), ((more[1]?.getD 0).toNat, 16), ((more[2]?.getD 0).toNat, 24)]] := by
  match more, few with
  | [], _ => exact congrArg (fun w : Word => [w]) ((packed_zero [(a.toNat, 0)] 8).trans ((packed_zero _ 16).trans (packed_zero _ 24)))
  | [b], _ => exact congrArg (fun w : Word => [w]) ((packed_zero [(a.toNat, 0), (b.toNat, 8)] 16).trans (packed_zero _ 24))
  | [b, c], _ => exact congrArg (fun w : Word => [w]) (packed_zero [(a.toNat, 0), (b.toNat, 8), (c.toNat, 16)] 24)
  | [b, c, d], _ => rw [packBytes, packBytes]; rfl

theorem byte_of_packBytes_short (a : Byte) {more : List Byte} (few : more.length ≤ 3) (k : Nat) :
    ((packBytes (a :: more))[k / 4]?.getD 0).toNat / 2 ^ (8 * (k % 4)) % 256 = ((a :: more)[k]?.getD 0).toNat := by
  rw [packBytes_short a few]
  by_cases inWord : k < 4
  · rw [Nat.div_eq_of_lt inWord, Nat.mod_eq_of_lt inWord]
    refine (byte_of_packed a _ _ _ inWord).trans ?_
    interval_cases k <;> rfl
  · have beyondWord : ∀ w : Word, [w][k / 4]? = none := fun w => List.getElem?_eq_none (by simp; omega)
    have beyond : (a :: more)[k]? = none := List.getElem?_eq_none (by simp; omega)
    rw [beyondWord, beyond]
    simp

/-- Byte `k` of packed bytes. -/
theorem byte_of_packBytes (ds : List Byte) (k : Nat) :
    ((packBytes ds)[k / 4]?.getD 0).toNat / 2 ^ (8 * (k % 4)) % 256 = (ds[k]?.getD 0).toNat := by
  induction ds using packBytes.induct generalizing k with
  | case1 => simp [packBytes]
  | case2 a => exact byte_of_packBytes_short a (by simp) k
  | case3 a b => exact byte_of_packBytes_short a (by simp) k
  | case4 a b c => exact byte_of_packBytes_short a (by simp) k
  | case5 a b c d rest ih =>
    rw [packBytes]
    by_cases inWord : k < 4
    · rw [Nat.div_eq_of_lt inWord, Nat.mod_eq_of_lt inWord]
      refine (byte_of_packed a b c d inWord).trans ?_
      interval_cases k <;> rfl
    · obtain ⟨k, rfl⟩ : ∃ j, k = j + 4 := ⟨k - 4, by omega⟩
      rw [Nat.add_div_right k (by decide), Nat.add_mod_right]
      exact ih k

theorem packBytes_length (ds : List Byte) : (packBytes ds).length = (ds.length + 3) / 4 := by
  induction ds using packBytes.induct with
  | case1 => rfl
  | case2 a => simp [packBytes]
  | case3 a b => simp [packBytes]
  | case4 a b c => simp [packBytes]
  | case5 a b c d rest ih =>
    simp only [packBytes, List.length_cons, ih]
    omega

theorem areTheReplyWords (r : Reply) : AreTheReplyWords r (replyWords r) := by
  refine ⟨?_, ?_, fun k _ => ?_⟩
  · rw [replyWords, List.length_cons, packBytes_length, Nat.add_comm]
  · rw [replyWords, packed_three, Nat.mul_comm (2 ^ 16)]
    simp [Nat.mul_comm]
  · rw [replyWords, Nat.add_comm 1, List.getElem?_cons_succ]
    exact byte_of_packBytes r.data k

/-! ### The reply leaves its buffer -/

/-- The part with line `l` gone from the TALKBACK client's order and its reply buffer EMPTY. -/
def replyEmptied (l : Fin 4) (rest : List (Fin 4)) (s : Block) : Block := modLine l (fun x => { x with reply := none }) { s with talkback := rest }

theorem askTalkback_eq (s : Block) : askTalkback s = { s with port := (askTalkback s).port } := by
  unfold askTalkback
  split
  · split
    · exact ask_eq ..
    · rfl
  · rfl

theorem askTalkback_asks {s : Block} {l : Fin 4} {rest : List (Fin 4)} {r : Reply} (order : s.talkback = l :: rest)
    (reply : (lineOf s l).reply = some r) (runs : s.engine.state ≠ .halted) :
    Asks .talkback (.write r.area (replyWords r)) (serveNext (askTalkback s)) := by
  rw [askTalkback, order]
  dsimp only
  rw [reply]
  exact Stands.asks (stands_serveNext (stands_ask _ _ runs))

section

variable {s : Block} {l : Fin 4} {rest : List (Fin 4)} {r : Reply} (order : s.talkback = l :: rest) (reply : (lineOf s l).reply = some r)

include order reply

theorem endReply_ok : endReply .ok s
    = askTalkback (complete r.slot .ok (BitVec.ofNat 32 r.status.toNat) (BitVec.ofNat 32 r.data.length) 0 (replyEmptied l rest s)) := by
  rw [endReply, order]
  dsimp only
  rw [reply]
  rfl

theorem endReply_busFault : endReply .busFault s = askTalkback (complete r.slot .busFault 0 0 0 (replyEmptied l rest s)) := by
  rw [endReply, order]
  dsimp only
  rw [reply]
  rfl

end

/-- The query has completed, the buffer is EMPTY, and the next reply is written. -/
theorem reply_ends {b s : Block} (ended : TenureOver b s) (runs : b.engine.state ≠ .halted) (l : Fin 4) (rest : List (Fin 4)) (r : Reply)
    (code : ResultCode) (v1 v2 : Word) :
    let t := serveNext (askTalkback (complete r.slot code v1 v2 0 (replyEmptied l rest s)))
    t.talkback = rest ∧ t.lines = setAt b.lines l { lineOf b l with reply := none }
      ∧ (r.slot ∈ b.results.reserved → t.results.queue = b.results.queue ++ [⟨r.slot, code, v1, v2, 0⟩])
      ∧ ∀ l' rest' r', rest = l' :: rest' → l' ≠ l → (lineOf b l').reply = some r' →
          ∃ ws, Asks .talkback (.write r'.area ws) t ∧ AreTheReplyWords r' ws := by
  intro t
  have lines : (replyEmptied l rest s).lines = setAt b.lines l { lineOf b l with reply := none } := by
    rw [replyEmptied, modLine, ended.lines]
    rfl
  have runsOn : (replyEmptied l rest s).engine.state ≠ .halted := by
    change s.engine.state ≠ .halted
    rw [ended.engine]
    exact runs
  refine ⟨?_, ?_, fun place => ?_, fun l' rest' r' waits other full => ?_⟩
  · change (askTalkback _).talkback = rest
    rw [askTalkback_eq, complete_eq]
    rfl
  · change (askTalkback _).lines = _
    rw [askTalkback_eq, complete_eq]
    exact lines
  · have results : (replyEmptied l rest s).results = b.results := ended.results
    change (askTalkback _).results.queue = _
    rw [askTalkback_eq]
    change (complete r.slot code v1 v2 0 (replyEmptied l rest s)).results.queue = _
    rw [complete_reserved_queue (by rw [results]; exact List.contains_iff_mem.2 place) runsOn, results]
  · refine ⟨replyWords r', askTalkback_asks (l := l') (rest := rest') ?_ ?_ ?_, areTheReplyWords r'⟩
    · rw [complete_talkback, ← waits]
      rfl
    · rw [lineOf, complete_lines, lines, getAt_setAt_ne _ _ _ _ other]
      exact full
    · rw [complete_engine]
      exact runsOn

/-- The end of a reply's write (R153). -/
theorem aReplyIsWritten : AReplyIsWritten := by
  refine fun b k l rest r ends state order reply => endsWith_over ends fun s ended => ?_
  have written : clientDone .talkback (wordsOf k b.mem) s = _ :=
    endReply_ok (by rw [ended.talkback]; exact order) (by rw [lineOf, ended.lines]; exact reply)
  rw [written]
  exact reply_ends ended (runs_of_state state) l rest r ..

/-- A fault of the result writer, and of a reply's write (R153, R176). -/
theorem aFaultStopsAResultOrAReply : AFaultStopsAResultOrAReply := by
  refine fun b k done state => ⟨fun can => ?_, fun l rest r can order reply => ?_⟩
  · refine faultsWith_over can fun s tn _ ended => ?_
    rw [← ended.results]
    rfl
  · refine faultsWith_over can fun s tn _ ended => ?_
    have faulted : clientFault .talkback ((tn.underWay done b.mem).wordsRead b.mem) s = _ :=
      endReply_busFault (by rw [ended.talkback]; exact order) (by rw [lineOf, ended.lines]; exact reply)
    rw [faulted]
    exact reply_ends ended (runs_of_state state) l rest r ..

end Sys2Proof.Machine
end

section
/-! SUPPORT. The table loader's reader at the end of its tenures (R86, R93, R94, R96, R97). -/

namespace Sys2Proof.Machine

/-! ### An IDLE reader takes the head (R86, R94) -/

/-- The part with the head `j` of the table queue taken. -/
def headTaken (j : TableJob) (rest : List TableJob) (s : Block) : Block := { s with tables := { s.tables with queue := rest, reader := some j } }

section

variable {s : Block} (runs : s.engine.state ≠ .halted)

include runs

theorem readerIdle_empty (queue : s.tables.queue = []) : readerIdle s = { s with tables := { s.tables with reader := none } } := by
  rw [readerIdle, takeTableJob, if_neg runs, queue]

theorem readerIdle_stays {j : TableJob} {rest : List TableJob} (queue : s.tables.queue = j :: rest)
    (cannot : ¬canStart j s.tables.staging = true) : readerIdle s = { s with tables := { s.tables with reader := none } } := by
  rw [readerIdle, takeTableJob, if_neg runs, queue]
  exact if_neg cannot

theorem readerIdle_takes {j : TableJob} {rest : List TableJob} (queue : s.tables.queue = j :: rest)
    (can : canStart j s.tables.staging = true) :
    readerIdle s = beginTable j (headTaken j rest s) := by
  rw [readerIdle, takeTableJob, if_neg runs, queue]
  exact if_pos can

end


theorem endShadow_ready {x : Shadow} {owner : Fin 32} {points : List Nat} (ready : x = .ready owner points) (code : ResultCode) (s : Block) :
    endShadow x code s = complete owner code 0 0 0 s := by rw [ready]; rfl

theorem onlyTables_of_tables (u : TableLoader) (s : Block) : OnlyTables s { s with tables := u } := rfl

theorem beginTable_only (j : TableJob) (s : Block) : OnlyTables s (beginTable j s) := by
  cases j with
  | patch slot address count => exact OnlyTables.trans (t := setStaging (.filling []) s) rfl (Posts.ask ..).onlyTables
  | curve slot k address =>
    have ended := (Posts.endShadow (shadowOf s k) .cancelled s).onlyTables
    exact (ended.trans (u := setShadow k (.filling []) _) rfl).trans (Posts.ask ..).onlyTables

theorem takeTableJob_only (s : Block) : OnlyTables s (takeTableJob s) := by
  unfold takeTableJob
  split
  · rfl
  · split
    · split
      · exact (onlyTables_of_tables _ s).trans (beginTable_only ..)
      · rfl
    · rfl

theorem readerIdle_only (s : Block) : OnlyTables s (readerIdle s) := (onlyTables_of_tables _ s).trans (takeTableJob_only _)

theorem failTable_only (j : TableJob) (code : ResultCode) (v1 v2 : Word) (s : Block) : OnlyTables s (failTable j code v1 v2 s) := by
  have emptied : OnlyTables s (emptyFilling j s) := by cases j <;> rfl
  exact (emptied.trans (Posts.complete ..).onlyTables).trans (readerIdle_only _)

theorem OnlyTables.mixer {s t : Block} (h : OnlyTables s t) : t.mixer = s.mixer := by
  unfold OnlyTables at h
  rw [h]

theorem beginTable_reader (j : TableJob) (s : Block) :
    (beginTable j s).tables.reader = s.tables.reader ∧ (beginTable j s).tables.queue = s.tables.queue := by
  cases j with
  | patch slot address count =>
    rw [beginTable, ask_tables]
    exact ⟨rfl, rfl⟩
  | curve slot k address =>
    have kept : (endShadow (shadowOf s k) .cancelled s).tables = s.tables := by
      rw [(Posts.endShadow (shadowOf s k) .cancelled s).rest]
      rfl
    rw [beginTable, ask_tables, setShadow, kept]
    exact ⟨rfl, rfl⟩

/-- The reader begins a curve over a shadow that is not READY. -/
theorem beginTable_curve {slot : Fin 32} {k : Fin 7} {address : Word} {s : Block}
    (unready : ∀ owner points, getAt s.tables.shadows k ≠ .ready owner points) :
    beginTable (.curve slot k address) s = ask .tables (.read address 16) (setShadow k (.filling []) s) :=
  congrArg (fun t => ask .tables (.read address 16) (setShadow k (.filling []) t)) (endShadow_unready unready .cancelled s)

/-- The reader begins a curve over a READY shadow, which it supersedes. -/
theorem beginTable_supersedes {slot owner : Fin 32} {k : Fin 7} {address : Word} {points : List Nat} {s : Block}
    (ready : getAt s.tables.shadows k = .ready owner points) :
    beginTable (.curve slot k address) s
      = ask .tables (.read address 16) (setShadow k (.filling []) (complete owner .cancelled 0 0 0 s)) :=
  congrArg (fun t => ask .tables (.read address 16) (setShadow k (.filling []) t)) (endShadow_ready ready .cancelled s)

/-- The reader is IDLE again in the part `u`, to whose result queue `ended` has been given since `b`. -/
theorem readerIdle_takesTheHead {b u : Block} {ended : List Completion} (runs : u.engine.state ≠ .halted)
    (queue : u.results.queue = b.results.queue ++ ended)
    (places : ∀ owner ∈ b.results.reserved, (∀ c ∈ ended, c.slot ≠ owner) → owner ∈ u.results.reserved) :
    TheReaderTakesTheHead u.tables ended b (serveNext (readerIdle u)) := by
  refine ⟨fun empty => ?_, fun slot address count rest head => ⟨fun full => ?_, fun free => ?_⟩, fun slot k address rest head =>
    ⟨fun unready => ?_, fun owner points ready place others => ?_⟩⟩
  · rw [readerIdle_empty runs empty]
    exact ⟨rfl, queue⟩
  · rw [readerIdle_stays runs head fun can => full (beq_iff_eq.1 can)]
    exact ⟨rfl, queue⟩
  · rw [readerIdle_takes runs head (beq_iff_eq.2 free)]
    refine ⟨?_, Stands.asks (stands_serveNext (stands_ask _ _ runs)), ?_⟩
    · exact ask_tables ..
    · rw [List.append_nil]
      exact (congrArg Results.queue (ask_results ..)).trans queue
  · rw [readerIdle_takes runs head rfl, beginTable_curve (s := headTaken (.curve slot k address) rest u) unready]
    refine ⟨?_, Stands.asks (stands_serveNext (stands_ask _ _ runs)), ?_⟩
    · exact ask_tables ..
    · rw [List.append_nil]
      exact (congrArg Results.queue (ask_results ..)).trans queue
  · rw [readerIdle_takes runs head rfl, beginTable_supersedes (s := headTaken (.curve slot k address) rest u) ready]
    refine ⟨?_, Stands.asks (stands_serveNext (stands_ask _ _ ?_)), ?_⟩
    · refine (ask_tables ..).trans ?_
      rw [setShadow, complete_tables]
      rfl
    · rw [setShadow, complete_engine]
      exact runs
    · refine (congrArg Results.queue (ask_results ..)).trans ?_
      refine (complete_reserved_queue (s := headTaken (.curve slot k address) rest u)
        (List.contains_iff_mem.2 (places owner place others)) runs ..).trans ?_
      rw [← queue]
      rfl

/-! ### The current job fails (R87, R93, R96, R97) -/

theorem emptyFilling_tables (j : TableJob) (s : Block) : emptyFilling j s = { s with tables := withoutJob j s.tables } := by cases j <;> rfl

theorem slot_eq_jobSlot (j : TableJob) : j.slot = jobSlot j := by cases j <;> rfl

section

variable {b s : Block} (ended : TenureOver b s) (runs : b.engine.state ≠ .halted)

include ended runs

theorem failTable_takesTheHead {j : TableJob} (place : jobSlot j ∈ b.results.reserved) (code : ResultCode) (v1 v2 : Word) :
    let t := serveNext (failTable j code v1 v2 s)
    TheReaderTakesTheHead (withoutJob j b.tables) [⟨jobSlot j, code, v1, v2, 0⟩] b t ∧ t.mixer = b.mixer := by
  have reserved : s.results.reserved.contains (jobSlot j) = true := by
    rw [ended.results]
    exact List.contains_iff_mem.2 place
  have runsOn : (emptyFilling j s).engine.state ≠ .halted := by
    rw [emptyFilling_tables, ← ended.engine] at *
    exact runs
  have tables : (complete j.slot code v1 v2 0 (emptyFilling j s)).tables = withoutJob j b.tables := by
    rw [complete_tables, emptyFilling_tables, ← ended.tables]
  refine ⟨?_, ?_⟩
  · rw [← tables]
    refine readerIdle_takesTheHead ?_ ?_ fun owner mem others => ?_
    · rw [complete_engine]
      exact runsOn
    · rw [slot_eq_jobSlot, emptyFilling_tables, ← ended.results]
      refine complete_reserved_queue (s := { s with tables := withoutJob j s.tables }) reserved ?_ ..
      change s.engine.state ≠ .halted
      rw [ended.engine]
      exact runs
    · have other : owner ≠ jobSlot j := fun same => others _ (List.mem_singleton.2 rfl) same.symm
      rw [slot_eq_jobSlot, emptyFilling_tables, complete_results, if_pos reserved, ← ended.results] at *
      rw [if_neg runsOn]
      exact (List.mem_erase_of_ne other).2 mem
  · exact (failTable_only j code v1 v2 s).mixer.trans ended.mixer

/-- The job is handed over in a part `u` with nothing but the tables changed, and the reader takes the next head. -/
theorem handedOver_takesTheHead (u : TableLoader) :
    let t := serveNext (readerIdle { s with tables := u })
    TheReaderTakesTheHead u [] b t ∧ t.mixer = b.mixer := by
  refine ⟨readerIdle_takesTheHead (u := { s with tables := u }) ?_ ?_ fun owner mem _ => ?_, ?_⟩
  · change s.engine.state ≠ .halted
    rw [ended.engine]
    exact runs
  · rw [List.append_nil]
    exact congrArg Results.queue ended.results
  · exact ended.results ▸ mem
  · exact (readerIdle_only _).mixer.trans ended.mixer

/-- The next head starts, whether its place is reserved or not. -/
theorem failTable_starts {j j' : TableJob} {rest : List TableJob} (queue : b.tables.queue = j' :: rest)
    (can : (∃ slot a n, j = .patch slot a n) ∨ ∃ slot i a, j' = .curve slot i a) (code : ResultCode) (v1 v2 : Word) :
    (serveNext (failTable j code v1 v2 s)).tables.reader = some j' ∧ (serveNext (failTable j code v1 v2 s)).tables.queue = rest := by
  have tables : (complete j.slot code v1 v2 0 (emptyFilling j s)).tables = withoutJob j b.tables := by
    rw [complete_tables, emptyFilling_tables, ← ended.tables]
  have starts : canStart j' (withoutJob j b.tables).staging = true := by
    rcases can with ⟨slot, a, n, rfl⟩ | ⟨slot, i, a, rfl⟩
    · cases j' <;> rfl
    · rfl
  have head : (withoutJob j b.tables).queue = j' :: rest := by cases j <;> exact queue
  have takes := readerIdle_takes (s := complete j.slot code v1 v2 0 (emptyFilling j s)) (j := j') (rest := rest)
    (by rw [complete_engine, emptyFilling_tables]; change s.engine.state ≠ _; rw [ended.engine]; exact runs)
    (by rw [tables]; exact head) (by rw [tables]; exact starts)
  change (readerIdle _).tables.reader = _ ∧ (readerIdle _).tables.queue = _
  rw [takes]
  exact beginTable_reader ..

end

/-! ### The reader's last tenure in STOPPING (R97) -/

/-- The job ends ABANDONED (R97). -/
theorem stoppingEndsTheJob {b : Block} {k : TenureKind} {j : TableJob} (ends : EndsDone .tables k b) (state : b.engine.state = .stopping)
    (reader : b.tables.reader = some j) (place : jobSlot j ∈ b.results.reserved) :
    EndsWith b fun t => TheReaderTakesTheHead (withoutJob j b.tables) [⟨jobSlot j, .abandoned, 0, 0, 0⟩] b t ∧ t.mixer = b.mixer := by
  refine endsWith_over ends fun s ended => ?_
  have done : clientDone .tables (wordsOf k b.mem) s = failTable j .abandoned 0 0 s := by
    change tablesDone _ s = _
    rw [tablesDone, ended.tables, reader]
    exact if_pos (by rw [ended.engine]; exact state)
  rw [done]
  exact failTable_takesTheHead ended (runs_of_state (.inr state)) place ..

/-! ### A curve is read (R93, R94) -/

/-- The first point out of range (R93). -/
theorem firstOutOfRange_eq_some {all : List Nat} {i : Nat} (bad : 65535 < all[i]?.getD 0) (earlier : ∀ i', i' < i → all[i']?.getD 0 ≤ 65535) :
    (all.findIdx? fun p => decide (Config.full < p)) = some i := by
  have inside : i < all.length := by
    by_contra outside
    rw [List.getElem?_eq_none (Nat.not_lt.1 outside)] at bad
    exact absurd bad (by decide)
  refine List.findIdx?_eq_some_iff_getElem.2 ⟨inside, ?_, fun i' before => ?_⟩
  · rw [List.getElem?_eq_getElem inside] at bad
    exact decide_eq_true bad
  · have fits := earlier i' before
    rw [List.getElem?_eq_getElem (before.trans inside)] at fits
    exact fun large => absurd (of_decide_eq_true large) (Nat.not_lt.2 fits)

theorem firstOutOfRange_eq_none {all : List Nat} (fits : ∀ p ∈ all, p ≤ 65535) :
    (all.findIdx? fun p => decide (Config.full < p)) = none :=
  List.findIdx?_eq_none_iff.2 fun p mem => decide_eq_false (Nat.not_lt.2 (fits p mem))

section

variable {s : Block} {k : Fin 7} {ps : List Nat} (filling : shadowOf s k = .filling ps) (j : TableJob) (slot : Fin 32) (address : Word)
  {words : List Word}

include filling

theorem curveRead_fails {i : Nat} (first : ((ps ++ words.map BitVec.toNat).findIdx? fun p => decide (Config.full < p)) = some i) :
    curveRead j slot k address words s = failTable j .badParam (BitVec.ofNat 32 i) 0 s := by
  rw [curveRead, filling]
  dsimp only
  rw [first]

theorem curveRead_goes_on (fits : ((ps ++ words.map BitVec.toNat).findIdx? fun p => decide (Config.full < p)) = none)
    (more : (ps ++ words.map BitVec.toNat).length < curvePoints) :
    curveRead j slot k address words s
      = ask .tables (.read (wordOffset address (ps ++ words.map BitVec.toNat).length)
          (burstLength (curvePoints - (ps ++ words.map BitVec.toNat).length))) (setShadow k (.filling (ps ++ words.map BitVec.toNat)) s) := by
  rw [curveRead, filling]
  dsimp only
  rw [fits]
  exact if_pos more

theorem curveRead_ready (fits : ((ps ++ words.map BitVec.toNat).findIdx? fun p => decide (Config.full < p)) = none)
    (whole : ¬(ps ++ words.map BitVec.toNat).length < curvePoints) :
    curveRead j slot k address words s = readerIdle (setShadow k (.ready slot (ps ++ words.map BitVec.toNat)) s) := by
  rw [curveRead, filling]
  dsimp only
  rw [fits]
  exact if_neg whole

end

section

variable {b : Block} {a : Word} {n : Nat} {slot : Fin 32} {k : Fin 7} {address : Word} {ps : List Nat} (ends : EndsDone .tables (.read a n) b)
  (state : b.engine.state = .running) (reader : b.tables.reader = some (.curve slot k address))
  (filling : getAt b.tables.shadows k = .filling ps)

include state reader filling

/-- The points read so far are looked through for one out of range. -/
theorem tablesDone_curve {s : Block} (ended : TenureOver b s) (words : List Word) :
    tablesDone words s = curveRead (.curve slot k address) slot k address words s ∧ shadowOf s k = .filling ps := by
  refine ⟨?_, ?_⟩
  · rw [tablesDone, ended.tables, reader]
    exact if_neg (by rw [ended.engine, state]; decide)
  · rw [shadowOf, ended.tables, filling]

include ends

theorem curve_fails {i : Nat} (bad : 65535 < (ps ++ (b.mem.readBurst a n).map BitVec.toNat)[i]?.getD 0)
    (earlier : ∀ i', i' < i → (ps ++ (b.mem.readBurst a n).map BitVec.toNat)[i']?.getD 0 ≤ 65535) (place : slot ∈ b.results.reserved) :
    EndsWith b fun t =>
      TheReaderTakesTheHead { b.tables with shadows := setAt b.tables.shadows k .empty } [⟨slot, .badParam, BitVec.ofNat 32 i, 0, 0⟩] b t
        ∧ t.mixer = b.mixer := by
  refine endsWith_over ends fun s ended => ?_
  have done : clientDone .tables (b.mem.readBurst a n) s = failTable (.curve slot k address) .badParam (BitVec.ofNat 32 i) 0 s := by
    obtain ⟨done, points⟩ := tablesDone_curve state reader filling ended (b.mem.readBurst a n)
    exact done.trans (curveRead_fails points _ _ _ (firstOutOfRange_eq_some bad earlier))
  exact done ▸ failTable_takesTheHead ended (runs_of_state (.inl state)) (j := .curve slot k address) place ..

theorem curve_goes_on (fits : ∀ p ∈ ps ++ (b.mem.readBurst a n).map BitVec.toNat, p ≤ 65535)
    (more : (ps ++ (b.mem.readBurst a n).map BitVec.toNat).length < 65) : EndsWith b fun t =>
      t.tables = { b.tables with shadows := setAt b.tables.shadows k (.filling (ps ++ (b.mem.readBurst a n).map BitVec.toNat)) }
        ∧ Asks .tables (.read (address + BitVec.ofNat 32 (4 * (ps ++ (b.mem.readBurst a n).map BitVec.toNat).length))
            (min 16 (65 - (ps ++ (b.mem.readBurst a n).map BitVec.toNat).length))) t := by
  refine endsWith_over ends fun s ended => ?_
  obtain ⟨done, points⟩ := tablesDone_curve state reader filling ended (b.mem.readBurst a n)
  replace done : clientDone .tables (b.mem.readBurst a n) s = _ :=
    done.trans (curveRead_goes_on points _ _ _ (firstOutOfRange_eq_none fits) more)
  change (clientDone .tables (b.mem.readBurst a n) s).tables = _ ∧ Asks _ _ (serveNext (clientDone .tables (b.mem.readBurst a n) s))
  rw [done]
  refine ⟨?_, Stands.asks (stands_serveNext (stands_ask _ _ (ended.runs (.inl state))))⟩
  rw [ask_tables, setShadow, ended.tables]

theorem curve_is_ready (fits : ∀ p ∈ ps ++ (b.mem.readBurst a n).map BitVec.toNat, p ≤ 65535)
    (whole : 65 ≤ (ps ++ (b.mem.readBurst a n).map BitVec.toNat).length) : EndsWith b fun t =>
      TheReaderTakesTheHead
        { b.tables with shadows := setAt b.tables.shadows k (.ready slot (ps ++ (b.mem.readBurst a n).map BitVec.toNat)) } [] b t
        ∧ t.mixer = b.mixer := by
  refine endsWith_over ends fun s ended => ?_
  obtain ⟨done, points⟩ := tablesDone_curve state reader filling ended (b.mem.readBurst a n)
  replace done : clientDone .tables (b.mem.readBurst a n) s = _ :=
    done.trans (curveRead_ready points _ _ _ (firstOutOfRange_eq_none fits) (Nat.not_lt.2 whole))
  have handed := handedOver_takesTheHead ended (runs_of_state (.inl state))
    { s.tables with shadows := setAt s.tables.shadows k (.ready slot (ps ++ (b.mem.readBurst a n).map BitVec.toNat)) }
  rw [← ended.tables]
  exact done ▸ handed

end

/-- A fault of the reader (R86, R96, R97). -/
theorem aFaultEndsTheTableJob : AFaultEndsTheTableJob := by
  intro b j k done state can reader code
  have runs := runs_of_state state
  have faulted : ∀ words s, TenureOver b s → clientFault .tables words s = failTable j code 0 0 s := fun words s ended => by
    change tablesFault s = _
    rw [tablesFault, ended.tables, reader, ended.engine]
  refine ⟨fun place => ?_, fun j' rest queue starts => ?_⟩
  · refine faultsWith_over can fun s tn _ ended => ?_
    rw [faulted _ s ended]
    exact failTable_takesTheHead ended runs place ..
  · refine faultsWith_over can fun s tn _ ended => ?_
    rw [faulted _ s ended]
    exact failTable_starts ended runs queue starts ..

end Sys2Proof.Machine
end

section
/-! SUPPORT. A PATCH list's records as its words say them (R82, R88, R181). -/

namespace Sys2Proof.PatchList

open Sys2Proof.Machine hiding Stands

/-! ### A destination field -/

theorem destinationOf_line {f : Nat} (kind : f / 2 ^ 14 % 2 ^ 2 = 1) (line : f / 2 ^ 8 % 2 ^ 3 < 4) (slot : f % 2 ^ 8 < 256) :
    destinationOf f
      = if f / 2 ^ 11 % 2 ^ 2 = 0 then some (.line ⟨f / 2 ^ 8 % 2 ^ 3, line⟩ ⟨f % 2 ^ 8, slot⟩ false)
        else if f / 2 ^ 11 % 2 ^ 2 = 1 ∧ f % 2 ^ 8 ≤ 254 then some (.line ⟨f / 2 ^ 8 % 2 ^ 3, line⟩ ⟨f % 2 ^ 8, slot⟩ true) else none := by
  rw [destinationOf]
  rw [if_pos kind, dif_pos ⟨line, slot⟩]

theorem destinationOf_output {f : Nat} (kind : f / 2 ^ 14 % 2 ^ 2 = 2) (slot : f % 2 ^ 8 < 16) :
    destinationOf f = some (.output ⟨f % 2 ^ 8, slot⟩) := by
  rw [destinationOf]
  rw [if_neg (by omega), if_pos kind, dif_pos slot]

/-- A field in range gives the destination it names. -/
theorem destinationOf_inRange {f : Nat} (inRange : DestinationInRange f) : ∃ d, destinationOf f = some d ∧ DestinationIs f d := by
  rcases inRange with ⟨kind, line, narrow | ⟨wide, slot⟩⟩ | ⟨kind, slot⟩
  · refine ⟨_, (destinationOf_line kind (by omega) (by omega)).trans (if_pos narrow), kind, rfl, rfl, ?_⟩
    rw [narrow]
    decide
  · refine ⟨_, (destinationOf_line kind (by omega) (by omega)).trans ((if_neg (by omega)).trans (if_pos ⟨wide, slot⟩)), kind, rfl, rfl, ?_⟩
    rw [wide]
    decide
  · exact ⟨_, destinationOf_output kind (by omega), kind, rfl⟩

/-- A field out of range gives none. -/
theorem destinationOf_outOfRange {f : Nat} (outOfRange : ¬DestinationInRange f) : destinationOf f = none := by
  unfold DestinationInRange at outOfRange
  rw [destinationOf]
  split
  · rename_i kind
    split
    · rw [if_neg (by omega), if_neg (by omega)]
    · rfl
  · rename_i other
    split
    · rename_i kind
      rw [dif_neg (by omega)]
    · rfl

/-! ### Every value of a list of options -/

theorem allSome_map_some {α : Type} (xs : List α) : allSome (xs.map some) = some xs := by
  induction xs with
  | nil => rfl
  | cons x xs ih => rw [List.map_cons, allSome, ih]

theorem allSome_none {α : Type} {xs : List (Option α)} (missing : none ∈ xs) : allSome xs = none := by
  induction xs with
  | nil => exact nomatch missing
  | cons x xs ih =>
    cases x with
    | none => rfl
    | some x =>
      have later : none ∈ xs := (List.mem_cons.1 missing).resolve_left nofun
      rw [allSome, ih later]

/-- The destinations that fields in range name. -/
theorem destinations_of_fields {fields : List Nat} (inRange : ∀ f ∈ fields, DestinationInRange f) :
    ∃ ds : List Destination, fields.map destinationOf = ds.map some ∧ ds.length = fields.length
      ∧ ∀ (k : Nat) f d, fields[k]? = some f → ds[k]? = some d → DestinationIs f d := by
  induction fields with
  | nil => exact ⟨[], rfl, rfl, fun k f d field => nomatch field⟩
  | cons f fields ih =>
    obtain ⟨ds, same, length, are⟩ := ih fun f' mem => inRange f' (List.mem_cons_of_mem _ mem)
    obtain ⟨d, first, is⟩ := destinationOf_inRange (inRange f List.mem_cons_self)
    refine ⟨d :: ds, ?_, ?_, fun k f' d' field destination => ?_⟩
    · rw [List.map_cons, first, same, List.map_cons]
    · rw [List.length_cons, List.length_cons, length]
    · cases k with
      | zero =>
        cases field
        cases destination
        exact is
      | succ k => exact are k f' d' field destination

/-! ### A record of three words -/

/-- The four destination fields of a record. -/
def fieldsOf (w1 w2 : Word) : List Nat := [field w1 0 16, field w1 16 16, field w2 0 16, field w2 16 16]

theorem fieldsOf_eq (w1 w2 : Word) :
    fieldsOf w1 w2 = [w1.toNat % 65536, w1.toNat / 65536, w2.toNat % 65536, w2.toNat / 65536] := by
  have low : ∀ w : Word, field w 0 16 = w.toNat % 65536 := fun w => by simp [field]
  have high : ∀ w : Word, field w 16 16 = w.toNat / 65536 := fun w => by
    have bound := w.isLt
    rw [field]
    omega
  rw [fieldsOf, low, high, low, high]

theorem mergeRuleOf_inRange {n : Nat} (inRange : n ≤ 1) : ∃ rule, mergeRuleOf n = some rule ∧ (rule = .latest ↔ n = 1) := by
  match n, inRange with
  | 0, _ => exact ⟨.max, rfl, by decide⟩
  | 1, _ => exact ⟨.latest, rfl, by decide⟩

theorem mergeRuleOf_outOfRange {n : Nat} (outOfRange : ¬n ≤ 1) : mergeRuleOf n = none := by
  match n, outOfRange with
  | n + 2, _ => rfl

/-- Three words in range give the record they say. -/
theorem patchRecordOf_inRange {w0 w1 w2 : Word} (inRange : RecordInRange w0.toNat w1.toNat w2.toNat) :
    ∃ r, patchRecordOf w0 w1 w2 = some r ∧ RecordIs w0.toNat w1.toNat w2.toNat r := by
  obtain ⟨channel, merge, curve, count, fields⟩ := inRange
  rw [← fieldsOf_eq] at fields
  obtain ⟨rule, ruled, latest⟩ := mergeRuleOf_inRange (n := field w0 17 2) merge
  obtain ⟨ds, same, length, are⟩ := destinations_of_fields fields
  have channelFits : field w0 0 16 < 1024 := by
    rw [field, Nat.pow_zero, Nat.div_one]
    exact channel
  have curveFits : field w0 20 4 < 8 := Nat.lt_succ_of_le curve
  refine ⟨⟨⟨field w0 0 16, channelFits⟩, ⟨w0.getLsbD 16, rule, ⟨field w0 20 4, curveFits⟩, ds⟩⟩, ?_, ?_⟩
  · rw [patchRecordOf]
    rw [ruled]
    dsimp only
    have few : field w0 24 4 ≤ 4 := count
    have every : allSome ((List.take (field w0 24 4) [field w1 0 16, field w1 16 16, field w2 0 16, field w2 16 16]).map destinationOf) = some ds :=
      (congrArg allSome same).trans (allSome_map_some ds)
    rw [dif_pos ⟨channelFits, curveFits⟩, if_pos few, every]
  · refine ⟨?_, ?_, latest, rfl, ?_, fun k f d field destination => ?_⟩
    · change field w0 0 16 = _
      simp [field]
    · change w0.getLsbD 16 = true ↔ _
      rw [BitVec.getLsbD, Nat.testBit_eq_decide_div_mod_eq, decide_eq_true_iff]
    · rw [length, List.length_take]
      exact Nat.min_eq_left count
    · have inside : k < w0.toNat / 2 ^ 24 % 16 := by
        have fits := (List.getElem?_eq_some_iff.1 destination).1
        rw [length, List.length_take] at fits
        omega
      refine are k f d ?_ destination
      rw [List.getElem?_take_of_lt inside, fieldsOf_eq]
      exact field

/-- Three words out of range give none. -/
theorem patchRecordOf_outOfRange {w0 w1 w2 : Word} (outOfRange : ¬RecordInRange w0.toNat w1.toNat w2.toNat) :
    patchRecordOf w0 w1 w2 = none := by
  by_contra given
  refine outOfRange ?_
  obtain ⟨r, given⟩ := Option.ne_none_iff_exists'.1 given
  rw [patchRecordOf] at given
  have merge : field w0 17 2 ≤ 1 := by
    by_contra large
    rw [mergeRuleOf_outOfRange large] at given
    exact nomatch given
  obtain ⟨rule, ruled, _⟩ := mergeRuleOf_inRange merge
  rw [ruled] at given
  dsimp only at given
  split at given
  · rename_i fits
    split at given
    · rename_i count
      have channel : w0.toNat % 65536 < 1024 := by
        have low := fits.1
        rw [field, Nat.pow_zero, Nat.div_one] at low
        exact low
      refine ⟨channel, merge, Nat.le_of_lt_succ fits.2, count, fun f mem => ?_⟩
      by_contra bad
      rw [← fieldsOf_eq] at mem
      have missing : none ∈ (List.take (field w0 24 4) (fieldsOf w1 w2)).map destinationOf :=
        List.mem_map.2 ⟨f, mem, destinationOf_outOfRange bad⟩
      have every : allSome ((List.take (field w0 24 4) [field w1 0 16, field w1 16 16, field w2 0 16, field w2 16 16]).map destinationOf) = none :=
        allSome_none missing
      rw [every] at given
      exact nomatch given
    · exact nomatch given
  · exact nomatch given

/-! ### The list's records -/

/-- The three words of record `k`, as R87 places them. -/
def recordAt (ws : List Word) (k : Nat) : Option PatchRecord :=
  patchRecordOf (ws[3 * k]?.getD 0) (ws[3 * k + 1]?.getD 0) (ws[3 * k + 2]?.getD 0)

theorem patchRecordsOf_eq {count : Nat} {ws : List Word} (length : ws.length = 3 * count) :
    patchRecordsOf ws = (List.range count).map (recordAt ws) := by
  induction count generalizing ws with
  | zero =>
    obtain rfl : ws = [] := List.length_eq_zero_iff.1 length
    rfl
  | succ count ih =>
    match ws, length with
    | w0 :: w1 :: w2 :: rest, length =>
      have restLength : rest.length = 3 * count := by
        simp only [List.length_cons] at length
        omega
      rw [patchRecordsOf, ih restLength, List.range_succ_eq_map, List.map_cons, List.map_map]
      rfl

/-- The first record out of range is the one refused (R88). -/
theorem firstBad_eq_some {count k : Nat} {ws : List Word} (inside : k < count) (bad : recordAt ws k = none)
    (earlier : ∀ k', k' < k → ∃ r, recordAt ws k' = some r) : firstBad ((List.range count).map (recordAt ws)) = some k := by
  refine List.findIdx?_eq_some_iff_getElem.2 ⟨by simpa using inside, ?_, fun k' before => ?_⟩
  · rw [List.getElem_map, List.getElem_range, bad]
    rfl
  · obtain ⟨r, good⟩ := earlier k' before
    rw [List.getElem_map, List.getElem_range, good]
    exact Bool.false_ne_true

/-- A list with every record in range. -/
theorem records_of_list {count : Nat} {ws : List Word} (good : ∀ k, k < count → ∃ r, recordAt ws k = some r) :
    ∃ records : List PatchRecord, (List.range count).map (recordAt ws) = records.map some ∧ records.length = count
      ∧ ∀ k r, records[k]? = some r → recordAt ws k = some r := by
  induction count with
  | zero => exact ⟨[], rfl, rfl, fun k r found => nomatch found⟩
  | succ count ih =>
    obtain ⟨records, same, length, are⟩ := ih fun k inside => good k (Nat.lt_succ_of_lt inside)
    obtain ⟨last, is⟩ := good count (Nat.lt_succ_self count)
    refine ⟨records ++ [last], ?_, by rw [List.length_append, length]; rfl, fun k r found => ?_⟩
    · rw [List.range_succ, List.map_append, same, List.map_append, List.map_singleton, List.map_singleton, is]
    · by_cases inside : k < records.length
      · exact are k r (by rwa [List.getElem?_append_left inside] at found)
      · have place : k = count := by
          have fits := (List.getElem?_eq_some_iff.1 found).1
          rw [List.length_append, List.length_singleton] at fits
          omega
        subst place
        rw [← length, List.getElem?_concat_length] at found
        rw [is, found]

theorem firstBad_eq_none (records : List PatchRecord) : firstBad (records.map some) = none := by
  refine List.findIdx?_eq_none_iff.2 fun x mem => ?_
  obtain ⟨r, _, rfl⟩ := List.mem_map.1 mem
  rfl

theorem filterMap_map_some (records : List PatchRecord) : (records.map some).filterMap id = records := by
  rw [List.filterMap_map]
  exact List.filterMap_some

end Sys2Proof.PatchList
end

section
/-! SUPPORT. A PATCH list's standing records and its second check, destination by destination (R83, R89). -/

namespace Sys2Proof.PatchList

open Sys2Proof.Machine hiding Stands

/-! ### The records that stand -/

/-- A record of a list stands: no later one is of its channel (R89). -/
def standsIn (records : List PatchRecord) (r : PatchRecord × Nat) : Bool :=
  !(records.drop (r.2 + 1)).any fun later => later.channel == r.1.channel

theorem indexed_eq (records : List PatchRecord) : indexed records = records.zipIdx.map Prod.swap := by
  rw [indexed, List.zipIdx_eq_zip_range', List.zip_swap, List.range_eq_range']

/-- The standing records of a list whose first record has index `n`. -/
theorem standing_zipIdx (records : List PatchRecord) (n : Nat) :
    standing ((records.zipIdx n).map Prod.swap)
      = ((records.zipIdx n).filter fun r => standsIn records (r.1, r.2 - n)).map Prod.swap := by
  induction records generalizing n with
  | nil => rfl
  | cons x xs ih =>
    have later : ((xs.zipIdx (n + 1)).map Prod.swap).any (fun q => q.2.channel == x.channel) = xs.any fun q => q.channel == x.channel := by
      rw [List.any_map]
      conv_rhs => rw [← List.zipIdx_map_fst (n + 1) xs, List.any_map]
      rfl
    have tail : (xs.zipIdx (n + 1)).filter (fun r => standsIn (x :: xs) (r.1, r.2 - n))
        = (xs.zipIdx (n + 1)).filter fun r => standsIn xs (r.1, r.2 - (n + 1)) := by
      refine List.filter_congr fun r mem => ?_
      have after := List.le_snd_of_mem_zipIdx mem
      have place : r.2 - n + 1 = (r.2 - (n + 1) + 1) + 1 := by omega
      rw [standsIn, standsIn]
      dsimp only
      rw [place, List.drop_succ_cons]
    have head : standsIn (x :: xs) (x, n - n) = !xs.any fun q => q.channel == x.channel := by
      rw [Nat.sub_self]
      rfl
    rw [List.zipIdx_cons, List.map_cons, standing, List.filter_cons, tail]
    dsimp only [Prod.swap]
    rw [head]
    change (if ((xs.zipIdx (n + 1)).map Prod.swap).any (fun q => q.2.channel == x.channel) = true then _ else _) = _
    rw [later, ih]
    cases xs.any fun q => q.channel == x.channel <;> rfl

theorem standing_indexed (records : List PatchRecord) :
    standing (indexed records) = (records.zipIdx.filter (standsIn records)).map Prod.swap := by
  rw [indexed_eq, standing_zipIdx]
  rfl

theorem claims_eq_visitOrder (records : List PatchRecord) : claimsOf (standing (indexed records)) = visitOrder records := by
  rw [standing_indexed, claimsOf, List.flatMap_map]
  rfl

theorem standing_records (records : List PatchRecord) :
    (standing (indexed records)).map Prod.snd = (records.zipIdx.filter (standsIn records)).map Prod.fst := by
  rw [standing_indexed, List.map_map]
  rfl

/-- The last record of a channel stands for it: the channels are the list's. -/
theorem standing_channels (rs : List (Nat × PatchRecord)) (c : Channel) :
    ((standing rs).any fun q => q.2.channel == c) = rs.any fun q => q.2.channel == c := by
  induction rs with
  | nil => rfl
  | cons r rest ih =>
    rw [standing, List.any_cons]
    split
    · rename_i later
      rw [ih]
      cases same : r.2.channel == c with
      | false => rw [Bool.false_or]
      | true => rw [← beq_iff_eq.1 same, later, Bool.true_or]
    · rw [List.any_cons, ih]

/-- The channels that a list replaces (R89). -/
def replacedBy (records : List PatchRecord) (c : Channel) : Bool := (standing (indexed records)).any fun r => r.2.channel == c

theorem replacedBy_eq_false_iff (records : List PatchRecord) (c : Channel) :
    replacedBy records c = false ↔ ∀ r ∈ records, r.channel ≠ c := by
  have channels : replacedBy records c = records.any fun r => r.channel == c := by
    rw [replacedBy, standing_channels, indexed_eq, List.any_map]
    conv_rhs => rw [← List.zipIdx_map_fst 0 records, List.any_map]
    rfl
  rw [channels, List.any_eq_false]
  exact forall₂_congr fun r _ => by rw [beq_iff_eq]

/-! ### Who holds an element -/

/-- The elements that visited destinations occupy, each with its channel. -/
def visitedElements (before : List (Nat × Channel × Destination)) : List (Element × Channel) :=
  before.flatMap fun x => x.2.2.elements.map fun e => (e, x.2.1)

theorem mem_visitedElements {before : List (Nat × Channel × Destination)} {e : Element} {c : Channel} :
    (e, c) ∈ visitedElements before ↔ ∃ x ∈ before, e ∈ x.2.2.elements ∧ x.2.1 = c := by
  simp [visitedElements, List.mem_flatMap]

theorem visitedElements_append (before : List (Nat × Channel × Destination)) (x : Nat × Channel × Destination) :
    visitedElements (before ++ [x]) = visitedElements before ++ x.2.2.elements.map fun e => (e, x.2.1) := by
  rw [visitedElements, List.flatMap_append, List.flatMap_singleton]
  rfl

/-- Each destination of a list stands against those before it (R89). -/
def AllStand (m : OwnerMap) (records : List PatchRecord) (before : List (Nat × Channel × Destination)) : Prop :=
  ∀ earlier x later, before = earlier ++ x :: later → Stands m records earlier x.2.2

theorem AllStand.of_append {m : OwnerMap} {records : List PatchRecord} {before after : List (Nat × Channel × Destination)}
    (all : AllStand m records (before ++ after)) : AllStand m records before := fun earlier x later same =>
  all earlier x (later ++ after) (by rw [same, List.append_assoc, List.cons_append])

theorem AllStand.last {m : OwnerMap} {records : List PatchRecord} {before after : List (Nat × Channel × Destination)}
    {x : Nat × Channel × Destination} (all : AllStand m records (before ++ x :: after)) : Stands m records before x.2.2 :=
  all before x after rfl

section

variable {m : OwnerMap} {records : List PatchRecord} {before : List (Nat × Channel × Destination)}

/-- Destinations that stand do not meet: an element is occupied for one channel. -/
theorem AllStand.unique (all : AllStand m records before) {x y : Nat × Channel × Destination} (memX : x ∈ before) (memY : y ∈ before)
    {e : Element} (inX : e ∈ x.2.2.elements) (inY : e ∈ y.2.2.elements) : x.2.1 = y.2.1 := by
  induction before using List.reverseRecOn with
  | nil => exact nomatch memX
  | append_singleton before z ih =>
    have stands : Stands m records before z.2.2 := all.last
    rcases List.mem_append.1 memX with earlierX | lastX <;> rcases List.mem_append.1 memY with earlierY | lastY
    · exact ih all.of_append earlierX earlierY
    · obtain rfl := List.mem_singleton.1 lastY
      exact absurd (.inl ⟨x, earlierX, inX, rfl⟩) (stands e inY x.2.1)
    · obtain rfl := List.mem_singleton.1 lastX
      exact absurd (.inl ⟨y, earlierY, inY, rfl⟩) (stands e inX y.2.1)
    · rw [List.mem_singleton.1 lastX, List.mem_singleton.1 lastY]

theorem holderOf_visited {v : Element × Channel} {e : Element} (found : ((visitedElements before).find? fun v => v.1 == e) = some v)
    (replaced : Channel → Bool) : holderOf m replaced (visitedElements before) e = some v.2 := by rw [holderOf, found]

theorem holderOf_unvisited {e : Element} (unvisited : ((visitedElements before).find? fun v => v.1 == e) = none) (replaced : Channel → Bool) :
    holderOf m replaced (visitedElements before) e = (m.owner e).filter fun c => !replaced c := by rw [holderOf, unvisited]

theorem unvisited_iff {e : Element} :
    ((visitedElements before).find? fun v => v.1 == e) = none ↔ ∀ x ∈ before, e ∉ x.2.2.elements := by
  rw [List.find?_eq_none]
  refine ⟨fun none x mem inside => none (e, x.2.1) (mem_visitedElements.2 ⟨x, mem, inside, rfl⟩) (beq_self_eq_true e), ?_⟩
  rintro none ⟨e', c⟩ mem same
  obtain rfl : e' = e := beq_iff_eq.1 same
  obtain ⟨x, visited, inside, _⟩ := mem_visitedElements.1 mem
  exact none x visited inside

theorem owner_holds_iff {e : Element} {holder : Channel} :
    (m.owner e).filter (fun c => !replacedBy records c) = some holder ↔ m.owner e = some holder ∧ ∀ r ∈ records, r.channel ≠ holder := by
  rw [Option.filter_eq_some_iff, Bool.not_eq_true', replacedBy_eq_false_iff]

/-- The second check's holder is one in the sense of R89. -/
theorem heldBy_of_holderOf {e : Element} {holder : Channel} (holds : holderOf m (replacedBy records) (visitedElements before) e = some holder) :
    HeldBy m records before e holder := by
  cases found : (visitedElements before).find? fun v => v.1 == e with
  | some v =>
    rw [holderOf_visited found] at holds
    obtain ⟨e', c⟩ := v
    obtain rfl : c = holder := Option.some.inj holds
    obtain rfl : e' = e := beq_iff_eq.1 (List.find?_some (p := fun v : Element × Channel => v.1 == e) found)
    exact .inl (mem_visitedElements.1 (List.mem_of_find?_eq_some found))
  | none =>
    rw [holderOf_unvisited found] at holds
    exact .inr ⟨unvisited_iff.1 found, owner_holds_iff.1 holds⟩

/-- Where the destinations visited stand, an element's holder is the one the second check names. -/
theorem holderOf_of_heldBy (all : AllStand m records before) {e : Element} {holder : Channel} (holds : HeldBy m records before e holder) :
    holderOf m (replacedBy records) (visitedElements before) e = some holder := by
  rcases holds with ⟨x, mem, inside, same⟩ | ⟨unvisited, owned⟩
  · cases found : (visitedElements before).find? fun v => v.1 == e with
    | some v =>
      obtain ⟨e', c⟩ := v
      obtain rfl : e' = e := beq_iff_eq.1 (List.find?_some (p := fun v : Element × Channel => v.1 == e) found)
      obtain ⟨y, visited, inY, sameY⟩ := mem_visitedElements.1 (List.mem_of_find?_eq_some found)
      rw [holderOf_visited found, ← same, ← sameY, all.unique mem visited inside inY]
    | none => exact absurd inside (unvisited_iff.1 found x mem)
  · rw [holderOf_unvisited (unvisited_iff.2 unvisited)]
    exact owner_holds_iff.2 owned

theorem holderOf_eq_none {e : Element} (free : ∀ holder, ¬HeldBy m records before e holder) :
    holderOf m (replacedBy records) (visitedElements before) e = none :=
  Option.eq_none_iff_forall_ne_some.2 fun holder holds => free holder (heldBy_of_holderOf holds)

/-! ### The first destination that does not stand -/

/-- The destinations that stand are passed over. -/
theorem firstClash_passes {passed rest : List (Nat × Channel × Destination)} (all : AllStand m records (before ++ passed)) :
    firstClash m (replacedBy records) (visitedElements before) (passed ++ rest)
      = firstClash m (replacedBy records) (visitedElements (before ++ passed)) rest := by
  induction passed generalizing before with
  | nil => rw [List.nil_append, List.append_nil]
  | cons x passed ih =>
    obtain ⟨k, c, d⟩ := x
    have free : d.elements.findSome? (holderOf m (replacedBy records) (visitedElements before)) = none :=
      List.findSome?_eq_none_iff.2 fun e mem => holderOf_eq_none (all.last e mem)
    have again : before ++ (k, c, d) :: passed = (before ++ [(k, c, d)]) ++ passed := by rw [List.append_assoc, List.singleton_append]
    rw [again] at all ⊢
    rw [List.cons_append, firstClash, free, ← ih all, visitedElements_append]

/-- The list passes the second check. -/
theorem claimCheck_passes (all : AllStand m records (visitOrder records)) : claimCheck m (standing (indexed records)) = none := by
  have passes := firstClash_passes (before := []) (passed := visitOrder records) (rest := []) all
  rw [List.append_nil] at passes
  rw [claimCheck, claims_eq_visitOrder]
  exact passes

/-- The list fails at the first destination that does not stand, by its first element that is held. -/
theorem claimCheck_fails {k : Nat} {c holder : Channel} {d : Destination} {after : List (Nat × Channel × Destination)}
    (order : visitOrder records = before ++ (k, c, d) :: after) (all : AllStand m records before) {skipped rest : List Element} {e : Element}
    (elements : d.elements = skipped ++ e :: rest) (free : ∀ e' ∈ skipped, ∀ h, ¬HeldBy m records before e' h)
    (held : HeldBy m records before e holder) : claimCheck m (standing (indexed records)) = some (k, holder) := by
  have passes := firstClash_passes (before := []) (passed := before) (rest := (k, c, d) :: after) all
  have found : d.elements.findSome? (holderOf m (replacedBy records) (visitedElements before)) = some holder := by
    rw [elements, List.findSome?_append, List.findSome?_eq_none_iff.2 fun e' mem => holderOf_eq_none (free e' mem), Option.none_or,
      List.findSome?_cons_of_isSome (by rw [holderOf_of_heldBy all held]; rfl), holderOf_of_heldBy all held]
  rw [claimCheck, claims_eq_visitOrder, order]
  refine passes.trans ?_
  rw [List.nil_append, firstClash, found]

end

end Sys2Proof.PatchList
end

section
/-! SUPPORT. A PATCH list is read, checked and handed over (R87 to R89). -/

namespace Sys2Proof.PatchList

open Sys2Proof.Machine hiding Stands

/-! ### What a whole list comes to -/

section

variable {words : List Word} {count : Nat} (whole : words.length = 3 * count) (slot : Fin 32) (j : TableJob) (s : Block)

include whole

/-- Record `k` is the first out of range (R88). -/
theorem validatePatch_badParam {k : Nat} (inside : k < count) (bad : recordAt words k = none)
    (earlier : ∀ k', k' < k → ∃ r, recordAt words k' = some r) :
    validatePatch slot j words s = failTable j .badParam (BitVec.ofNat 32 k) 0 s := by
  rw [validatePatch, patchRecordsOf_eq whole]
  dsimp only
  rw [firstBad_eq_some inside bad earlier]

variable {records : List PatchRecord} (same : (List.range count).map (recordAt words) = records.map some)

include same

/-- The list fails the second check (R89). -/
theorem validatePatch_slotTaken {k : Nat} {holder : Channel}
    (clash : claimCheck s.mixer.owners (standing (indexed records)) = some (k, holder)) :
    validatePatch slot j words s = failTable j .slotTaken (BitVec.ofNat 32 k) (BitVec.ofNat 32 holder.val) s := by
  rw [validatePatch, patchRecordsOf_eq whole, same]
  dsimp only
  rw [firstBad_eq_none]
  dsimp only
  rw [filterMap_map_some, clash]

/-- The list passes, and its standing records are handed over. -/
theorem validatePatch_ready (passes : claimCheck s.mixer.owners (standing (indexed records)) = none) :
    validatePatch slot j words s
      = readerIdle (setStaging (.ready slot ((records.zipIdx.filter (standsIn records)).map Prod.fst)) s) := by
  rw [validatePatch, patchRecordsOf_eq whole, same]
  dsimp only
  rw [firstBad_eq_none]
  dsimp only
  rw [filterMap_map_some, passes, standing_records]

end

/-! ### The reader's tenures -/

section

variable {b : Block} {a : Word} {n : Nat} {slot : Fin 32} {address : Word} {count : Nat} {ws : List Word}
  (ends : EndsDone .tables (.read a n) b) (state : b.engine.state = .running)
  (reader : b.tables.reader = some (.patch slot address count)) (filling : b.tables.staging = .filling ws)

include state reader filling

/-- The words read so far are gone on with, or are the whole list. -/
theorem tablesDone_patch {s : Block} (ended : TenureOver b s) (words : List Word) :
    tablesDone words s
      = if (ws ++ words).length < 3 * count then
          ask .tables (.read (wordOffset address (ws ++ words).length) (burstLength (3 * count - (ws ++ words).length)))
            (setStaging (.filling (ws ++ words)) s)
        else validatePatch slot (.patch slot address count) (ws ++ words) s := by
  have reads : tablesDone words s = patchRead (.patch slot address count) slot address count words s := by
    rw [tablesDone, ended.tables, reader]
    exact if_neg (by rw [ended.engine, state]; decide)
  rw [reads, patchRead, ended.tables, filling]

include ends

theorem patch_goes_on (more : (ws ++ b.mem.readBurst a n).length < 3 * count) : EndsWith b fun t =>
    t.tables = { b.tables with staging := .filling (ws ++ b.mem.readBurst a n) }
      ∧ Asks .tables (.read (address + BitVec.ofNat 32 (4 * (ws ++ b.mem.readBurst a n).length))
          (min 16 (3 * count - (ws ++ b.mem.readBurst a n).length))) t := by
  refine endsWith_over ends fun s ended => ?_
  have done : clientDone .tables (b.mem.readBurst a n) s = _ := (tablesDone_patch state reader filling ended _).trans (if_pos more)
  change (clientDone .tables (b.mem.readBurst a n) s).tables = _ ∧ Asks _ _ (serveNext (clientDone .tables (b.mem.readBurst a n) s))
  rw [done]
  refine ⟨?_, Machine.Stands.asks (stands_serveNext (stands_ask _ _ (ended.runs (.inl state))))⟩
  rw [ask_tables, setStaging, ended.tables]

variable (whole : (ws ++ b.mem.readBurst a n).length = 3 * count)

include whole

/-- The last burst of the list: it is checked whole. -/
theorem patch_is_checked {P : Block → Prop}
    (h : ∀ s, TenureOver b s → P (serveNext (validatePatch slot (.patch slot address count) (ws ++ b.mem.readBurst a n) s))) :
    EndsWith b P := by
  refine endsWith_over ends fun s ended => ?_
  have done : clientDone .tables (b.mem.readBurst a n) s = _ :=
    (tablesDone_patch state reader filling ended _).trans (if_neg (by rw [whole]; exact Nat.lt_irrefl _))
  exact done ▸ h s ended

theorem patch_badParam {k : Nat} (inside : k < count) (bad : recordAt (ws ++ b.mem.readBurst a n) k = none)
    (earlier : ∀ k', k' < k → ∃ r, recordAt (ws ++ b.mem.readBurst a n) k' = some r) (place : slot ∈ b.results.reserved) :
    EndsWith b fun t =>
      TheReaderTakesTheHead { b.tables with staging := .empty } [⟨slot, .badParam, BitVec.ofNat 32 k, 0, 0⟩] b t ∧ t.mixer = b.mixer := by
  refine patch_is_checked ends state reader filling whole fun s ended => ?_
  rw [validatePatch_badParam whole slot _ s inside bad earlier]
  exact failTable_takesTheHead ended (runs_of_state (.inl state)) (j := .patch slot address count) place ..

variable {records : List PatchRecord} (same : (List.range count).map (recordAt (ws ++ b.mem.readBurst a n)) = records.map some)

include same

theorem patch_slotTaken {k : Nat} {holder : Channel}
    (clash : claimCheck b.mixer.owners (standing (indexed records)) = some (k, holder)) (place : slot ∈ b.results.reserved) :
    EndsWith b fun t =>
      TheReaderTakesTheHead { b.tables with staging := .empty }
        [⟨slot, .slotTaken, BitVec.ofNat 32 k, BitVec.ofNat 32 holder.val, 0⟩] b t ∧ t.mixer = b.mixer := by
  refine patch_is_checked ends state reader filling whole fun s ended => ?_
  rw [validatePatch_slotTaken whole slot _ s same (by rw [ended.mixer]; exact clash)]
  exact failTable_takesTheHead ended (runs_of_state (.inl state)) (j := .patch slot address count) place ..

theorem patch_is_ready (passes : claimCheck b.mixer.owners (standing (indexed records)) = none) :
    EndsWith b fun t =>
      TheReaderTakesTheHead
        { b.tables with staging := .ready slot ((records.zipIdx.filter (standsIn records)).map Prod.fst) } [] b t ∧ t.mixer = b.mixer := by
  refine patch_is_checked ends state reader filling whole fun s ended => ?_
  rw [validatePatch_ready whole slot _ s same (by rw [ended.mixer]; exact passes), ← ended.tables]
  exact handedOver_takesTheHead ended (runs_of_state (.inl state)) _

end

theorem recordAt_inRange {ws : List Word} {k : Nat}
    (inRange : RecordInRange (ws[3 * k]?.getD 0).toNat (ws[3 * k + 1]?.getD 0).toNat (ws[3 * k + 2]?.getD 0).toNat) :
    ∃ r, recordAt ws k = some r := (patchRecordOf_inRange inRange).imp fun _ is => is.1

theorem recordIs_of_recordAt {ws : List Word} {k : Nat} {r : PatchRecord} (is : recordAt ws k = some r) :
    RecordIs (ws[3 * k]?.getD 0).toNat (ws[3 * k + 1]?.getD 0).toNat (ws[3 * k + 2]?.getD 0).toNat r := by
  by_cases inRange : RecordInRange (ws[3 * k]?.getD 0).toNat (ws[3 * k + 1]?.getD 0).toNat (ws[3 * k + 2]?.getD 0).toNat
  · obtain ⟨r', is', spelled⟩ := patchRecordOf_inRange inRange
    obtain rfl : r' = r := Option.some.inj (is'.symm.trans is)
    exact spelled
  · exact nomatch (patchRecordOf_outOfRange inRange).symm.trans is

/-- What the tenures of the table loader's reader lead to (R86 to R89, R93, R94, R97). -/
theorem theTableReadersTenuresLeadOn : TheTableReadersTenuresLeadOn := by
  refine ⟨fun b k j ends state reader place => stoppingEndsTheJob ends state reader place, fun b a n ends state => ?_⟩
  intro fails
  refine ⟨fun slot address count ws reader filling => ?_, fun slot k address ps reader filling => ?_⟩
  · intro all w
    refine ⟨patch_goes_on ends state reader filling, fun whole => ⟨fun k inside bad earlier place => ?_, fun good => ?_⟩⟩
    · exact patch_badParam ends state reader filling whole inside (patchRecordOf_outOfRange bad)
        (fun k' before => recordAt_inRange (earlier k' before)) place
    · obtain ⟨records, same, length, are⟩ := records_of_list fun k inside => recordAt_inRange (good k inside)
      refine ⟨records, length, fun k r found => recordIs_of_recordAt (are k r found), ?_, fun all => ?_⟩
      · intro before k c d after order stand skipped e rest holder elements free held place
        exact patch_slotTaken ends state reader filling whole same (claimCheck_fails order stand elements free held) place
      · intro q
        obtain ⟨t, ended, takes, mixer⟩ := patch_is_ready ends state reader filling whole same (claimCheck_passes all) q
        exact ⟨t, ended, mixer, _, takes, rfl⟩
  · exact ⟨fun i bad earlier place => curve_fails ends state reader filling bad earlier place,
      curve_goes_on ends state reader filling, curve_is_ready ends state reader filling⟩

end Sys2Proof.PatchList
end

section
/-! SUPPORT. Every client's tenure that ends Done (R176, R178, R182 to R184, R188, R189). -/

namespace Sys2Proof.Machine

/-- The part after TENURE_END of a tenure of client `c`. -/
def afterTenure (tn : Tenure) (b : Block) : Block := serveNext (clientDone tn.client (wordsOf tn.kind b.mem) (handedOver tn.kind b))

/-! ### The counts and the memory -/

theorem afterTenure_counts (tn : Tenure) (b : Block) :
    (afterTenure tn b).port.consecutive = 0 ∧ (afterTenure tn b).port.faults = b.port.faults := by
  rw [afterTenure, serveNext_consecutive, serveNext_faults, clientDone_consecutive, clientDone_faults]
  exact ⟨rfl, rfl⟩

theorem afterTenure_mem (tn : Tenure) (b : Block) : (afterTenure tn b).mem = performWords tn.kind (tenureLength tn.kind b.mem) b.mem :=
  clientDone_mem ..

/-! ### The client's own work -/

theorem afterTenure_results {tn : Tenure} {b : Block} {c : Completion} {rest : List Completion} (client : tn.client = .results)
    (queue : b.results.queue = c :: rest) :
    (b.results.writer = .values → (afterTenure tn b).results = { b.results with writer := .done }
      ∧ (b.engine.state ≠ .halted → Asks .results (.write (stateWordAddress b.anchor c.slot) [3]) (afterTenure tn b)))
    ∧ (b.results.writer = .done → isRaised .requestDone (afterTenure tn b) = true ∧ (afterTenure tn b).results.queue = rest
      ∧ (afterTenure tn b).results.reserved = b.results.reserved ∧ (rest = [] → (afterTenure tn b).results.writer = .idle)
      ∧ (b.engine.state = .running ∨ b.engine.state = .stopping → ∀ c' rest', rest = c' :: rest' →
          WritesTheValuesOf c' b (afterTenure tn b))) := by
  rw [afterTenure, client]
  exact ⟨resultsDone_writes_done (handedOver_over tn.kind b) queue, resultsDone_goes_on (handedOver_over tn.kind b) queue⟩

theorem afterTenure_page {tn : Tenure} {b : Block} {j : PageJob} {rest : List StatusJob} (client : tn.client = .status)
    (order : b.status.order = .page :: rest) (page : b.status.page = some j) (last : 8 ≤ j.burst) :
    isRaised .status (afterTenure tn b) = true ∧ (afterTenure tn b).status.edition = b.status.edition + 2
      ∧ (afterTenure tn b).status.page = none ∧ (afterTenure tn b).status.order = rest := by
  rw [afterTenure, client]
  exact statusDone_ends_page (handedOver_over tn.kind b) order page last

/-! ### The next client (R188) -/

theorem afterTenure_servesInOrder (tn : Tenure) {b : Block} (state : b.engine.state = .running ∨ b.engine.state = .stopping) :
    ServesInOrder tn.client b (afterTenure tn b) := by
  have ended := handedOver_over tn.kind b
  have started : (handedOver tn.kind b).engine.state ≠ .starting := by
    rw [ended.engine]
    rcases state with state | state <;> rw [state] <;> decide
  exact ended.servesInOrder fun c other => WaitsOn.clientDone other (wordsOf tn.kind b.mem) started

/-- The ends that ask for nothing leave the port as the tenure's release did. -/
theorem clientDone_asks_nothing {tn : Tenure} {b : Block} (ends : EndsAllItsWork tn b) :
    (clientDone tn.client (wordsOf tn.kind b.mem) (handedOver tn.kind b)).port = (handedOver tn.kind b).port := by
  have ended := handedOver_over tn.kind b
  rcases ends with ⟨client, order, j, page, last⟩ | ⟨client, writer, only⟩
  · rw [client]
    exact statusDone_port ended order page last
  · rw [client]
    obtain ⟨c, queue⟩ := List.length_eq_one_iff.1 only
    exact resultsDone_port ended queue writer rfl

theorem afterTenure_first {tn : Tenure} {b : Block} {c : Client} {k : TenureKind} (ends : EndsAllItsWork tn b)
    (waits : b.port.waitingOf c = some k)
    (first : ∀ c', turnsAfter b.port.pointer c' < turnsAfter b.port.pointer c → b.port.waitingOf c' = none) :
    (afterTenure tn b).port.current = some ⟨c, k, 0, none⟩ ∧ (afterTenure tn b).port.pointer = c ∧ (afterTenure tn b).port.state = .requesting := by
  have port := clientDone_asks_nothing ends
  exact serveNext_first (p := b.port) (by rw [port]; rfl) (by rw [port]; rfl) (by rw [port]; rfl) waits first

theorem afterTenure_idle {tn : Tenure} {b : Block} (ends : EndsAllItsWork tn b) (nobody : ∀ c, b.port.waitingOf c = none) :
    (afterTenure tn b).port.state = .idle ∧ (afterTenure tn b).port.current = none ∧ (afterTenure tn b).port.pointer = b.port.pointer := by
  have rests : (afterTenure tn b).port = (handedOver tn.kind b).port := by
    change (clientDone tn.client (wordsOf tn.kind b.mem) (handedOver tn.kind b)).port.arbitrate = _
    have next : (handedOver tn.kind b).port.nextClient = none := (nextClient_none _).2 nobody
    rw [clientDone_asks_nothing ends, Port.arbitrate, next]
    exact if_pos rfl
  rw [rests]
  exact ⟨rfl, rfl, rfl⟩

/-- Settles O44: the part that a client is handed is the part before with its words performed and its port free, and each client's work
there is followed to the arbiter. -/
theorem aTenureEndsDone : Obligations.ATenureEndsDone := by
  refine ⟨fun b q tn phase transfers aborting current => ?_, aStartsTenuresLeadOn, PatchList.theTableReadersTenuresLeadOn, aReplyIsWritten,
    theStatusWritersBurstsLeadOn⟩
  obtain ⟨consecutive, faults⟩ := afterTenure_counts tn b
  obtain ⟨reads, writes, modifies⟩ := performWords_whole tn.kind b.mem
  refine ⟨afterTenure tn b, tenureEnd_ends phase transfers aborting current q, consecutive, faults, ?_, ?_, ?_,
    fun c rest client queue => afterTenure_results client queue,
    fun j rest client order page last => afterTenure_page client order page last, afterTenure_servesInOrder tn,
    fun c k ends waits _ first => afterTenure_first ends waits first, afterTenure_idle⟩
  · exact fun a n kind => (afterTenure_mem tn b).trans (reads a n kind)
  · exact fun a ws kind => (afterTenure_mem tn b).trans (writes a ws kind)
  · exact fun a expect put kind => (afterTenure_mem tn b).trans (modifies a expect put kind)

end Sys2Proof.Machine
end

section
/-! SUPPORT. The fault of a scanner tenure (R171, R173) and of the cue loader's (R57 to R59). -/

namespace Sys2Proof.Machine

/-! ### The scan ends -/

theorem endScan_starts {s : Block} (pending : s.scanner.scanPending = true) (running : s.engine.state = .running) :
    endScan s = startScan (modScanner (fun x => { x with step := .idle, scanPending := false }) s) := if_pos ⟨pending, running⟩

theorem endScan_rests {s : Block} (none : s.scanner.scanPending = false ∨ s.engine.state = .stopping) :
    endScan s = modScanner (fun x => { x with step := .idle, scanPending := false }) s := by
  refine if_neg fun both => ?_
  obtain ⟨pending, running⟩ := both
  rcases none with none | stopping
  · exact Bool.false_ne_true (none.symm.trans pending)
  · exact absurd (running.symm.trans stopping) (by decide)

theorem endScan_results (s : Block) : (endScan s).results = s.results := by
  unfold endScan
  dsimp only
  split
  · exact ask_results ..
  · rfl

theorem scannerFault_scan {s : Block} (scan : bodySlot s.scanner.step = none) : scannerFault s = endScan s := by
  unfold scannerFault
  split
  · rename_i body
    rw [body] at scan
    exact nomatch scan
  · rfl

theorem scannerFault_body {s : Block} {i : Fin 32} (body : bodySlot s.scanner.step = some i) :
    scannerFault s = endScan (complete i (if s.engine.state = .stopping then .cancelled else .busFault) 0 0 0 s) := by
  unfold scannerFault
  split
  · rename_i step
    rw [step] at body
    obtain rfl := Option.some.inj body
    rfl
  · rename_i other
    unfold bodySlot at body
    split at body
    · rename_i step
      exact absurd step (other _ _ _ _)
    all_goals exact nomatch body

/-- What the end of a scan leads to, from the part `u` that is `b` but for the step it stands at. -/
theorem endScan_ends {b u : Block} (scanner : u.scanner = { b.scanner with step := u.scanner.step }) (engine : u.engine = b.engine)
    (anchor : u.anchor = b.anchor) :
    (b.scanner.scanPending = true ∧ b.engine.state = .running →
      (serveNext (endScan u)).scanner = { b.scanner with step := .row [], scanPending := false }
        ∧ Asks .scanner (.read b.anchor.postTable (min 16 b.anchor.slots)) (serveNext (endScan u)))
    ∧ (b.scanner.scanPending = false ∨ b.engine.state = .stopping →
      (serveNext (endScan u)).scanner = { b.scanner with step := .idle, scanPending := false }) := by
  have pending : u.scanner.scanPending = b.scanner.scanPending := by rw [scanner]
  refine ⟨fun both => ?_, fun none => ?_⟩
  · rw [endScan_starts (pending.trans both.1) (by rw [engine]; exact both.2)]
    refine ⟨?_, ?_⟩
    · refine (ask_scanner ..).trans ?_
      rw [modScanner, modScanner, scanner]
    · rw [← anchor]
      refine Stands.asks (stands_serveNext (stands_ask _ _ ?_))
      change u.engine.state ≠ .halted
      rw [engine, both.2]
      decide
  · rw [endScan_rests (none.imp pending.trans fun stopping => by rw [engine]; exact stopping)]
    change { u.scanner with step := .idle, scanPending := false } = _
    rw [scanner]

/-- A fault of a scanner tenure (R171, R173). -/
theorem aFaultEndsTheScan : AFaultEndsTheScan := by
  intro b k done state can ends
  have started : b.engine.state ≠ .starting := by rcases state with state | state <;> rw [state] <;> decide
  have faulted : ∀ s, TenureOver b s → ∀ words, clientFault .scanner words s = scannerFault s := fun s ended words =>
    if_neg (by rw [ended.engine]; exact started)
  refine ⟨fun scan => ?_, fun i rest n request step place => ?_⟩
  · have slot : bodySlot b.scanner.step = none := by
      rcases scan with ⟨row, step⟩ | ⟨i, rest, n, step⟩ <;> rw [step] <;> rfl
    refine faultsWith_over can fun s tn _ ended => ?_
    rw [faulted s ended, scannerFault_scan (ended.body.trans slot)]
    exact ⟨endScan_ends ended.scanner ended.engine ended.anchor, (endScan_results s).trans ended.results⟩
  · refine faultsWith_over can fun s tn _ ended => ?_
    have slot : bodySlot b.scanner.step = some i := by rw [step]; rfl
    rw [faulted s ended, scannerFault_body (ended.body.trans slot), ended.engine]
    generalize (if b.engine.state = .stopping then ResultCode.cancelled else .busFault) = code
    have reserved : s.results.reserved.contains i = true := by
      rw [ended.results]
      exact List.contains_iff_mem.2 place
    have results : (serveNext (endScan (complete i code 0 0 0 s))).results = (complete i code 0 0 0 s).results := endScan_results _
    refine ⟨endScan_ends ?_ ?_ ?_, ?_, ?_⟩
    · rw [complete_scanner]
      exact ended.scanner
    · rw [complete_engine, ended.engine]
    · rw [complete_anchor, ended.anchor]
    · rw [results, complete_results, if_pos reserved, if_neg (ended.runs state), ended.results]
    · rw [results, complete_reserved_queue reserved (ended.runs state), ended.results]

/-! ### The cue loader -/

theorem loaderFault_lock {s : Block} {c : CurrentLoad} (current : s.loader.current = some c) (stage : c.stage = .lock) (read : Bool) :
    loaderFault read s = endUnfinished c .busFault (freeLoad c.job.playback (if read then countStuck s else s)) := by
  rw [loaderFault, current]
  dsimp only
  rw [stage]

theorem loaderFault_unlock {s : Block} {c : CurrentLoad} (current : s.loader.current = some c) (stage : c.stage = .unlock) (read : Bool) :
    loaderFault read s = endUnfinished c .busFault (freeLoad c.job.playback (countStuck s)) := by
  rw [loaderFault, current]
  dsimp only
  rw [stage]

theorem loaderFault_reading {s : Block} {c : CurrentLoad} (current : s.loader.current = some c) (lock : c.stage ≠ .lock)
    (unlock : c.stage ≠ .unlock) (read : Bool) : loaderFault read s = failLoad c .busFault s := by
  rw [loaderFault, current]
  dsimp only
  cases stage : c.stage with
  | lock => exact absurd stage lock
  | unlock => exact absurd stage unlock
  | seekCount => rfl
  | seekDirectory count position => rfl
  | header number offset count => rfl
  | entries offset position => rfl

/-- A fault of the cue loader's tenure (R57 to R59). -/
theorem aFaultEndsOrReleasesTheLoad : AFaultEndsOrReleasesTheLoad := by
  intro b c k done state can current reserved code
  have runs := runs_of_state state
  have started : b.engine.state ≠ .starting := by rcases state with state | state <;> rw [state] <;> decide
  have faulted : ∀ s, TenureOver b s → ∀ words, clientFault .loader words s = loaderFault (readFree words) s := fun s ended words =>
    if_neg (by rw [ended.engine]; exact started)
  have loading : ∀ s, TenureOver b s → s.loader.current = some c := fun s ended => by rw [ended.loader]; exact current
  have stuckEnds : ∀ s, TenureOver b s →
      EndsTheJobWith (countUp b.loader.stuck) c code b (serveNext (endUnfinished c .busFault (freeLoad c.job.playback (countStuck s)))) := by
    refine fun s ended => endUnfinished_ends rfl runs reserved ?_
    rw [countStuck, ended.rest]
  refine ⟨fun a kind stage => ⟨fun unread => ?_, fun begun free => ?_⟩, fun lock unlock held failed => ?_, fun stage => ?_⟩
  · refine faultsWith_over can fun s tn tenure ended => ?_
    have none : ¬(1 ≤ done ∧ b.mem.load (wordAddress a) = 0) := fun both => by
      rcases unread with first | other
      · omega
      · exact other both.2
    rw [faulted s ended, readFree_underWay (tenure.trans kind), decide_eq_false none, loaderFault_lock (loading s ended) stage]
    refine endUnfinished_ends rfl runs reserved ?_
    rw [if_neg Bool.false_ne_true, ended.rest]
  · refine faultsWith_over can fun s tn tenure ended => ?_
    rw [faulted s ended, readFree_underWay (tenure.trans kind), decide_eq_true ⟨begun, free⟩, loaderFault_lock (loading s ended) stage]
    exact stuckEnds s ended
  · refine faultsWith_over can fun s tn _ ended => ?_
    rw [faulted s ended, loaderFault_reading (loading s ended) lock unlock]
    refine failLoad_releases (ended.runs state) held failed ?_ ended.anchor ?_
    · rw [ended.loader]
    · rw [playbackOf, ended.playbacks]
      rfl
  · refine faultsWith_over can fun s tn _ ended => ?_
    rw [faulted s ended, loaderFault_unlock (loading s ended) stage]
    exact stuckEnds s ended

end Sys2Proof.Machine
end

section
/-! SUPPORT. Every client's tenure that faults below the limit (R182, R183, R185 to R189). -/

namespace Sys2Proof.Machine

/-! ### The engine is not HALTED -/

theorem sweepFrom_runs {bank : Nat} {s : Block} (runs : s.engine.state ≠ .halted) : (sweepFrom bank s).engine.state ≠ .halted := by
  by_cases more : bank < s.anchor.bankCount
  · have engine := (sweepFrom_next runs more).1
    change (serveNext (sweepFrom bank s)).engine.state ≠ .halted
    rw [engine]
    exact runs
  · have engine := (sweepFrom_last (Nat.not_lt.1 more)).1
    change (serveNext (sweepFrom bank s)).engine.state ≠ .halted
    rw [engine]
    exact fun halted : EngineState.running = .halted => nomatch halted

theorem startFault_runs {s : Block} (runs : s.engine.state ≠ .halted) : (startFault s).engine.state ≠ .halted := by
  unfold startFault
  split
  · exact runs
  · exact fun halted : EngineState.stopped = .halted => nomatch halted
  · exact sweepFrom_runs runs

theorem clientFault_runs {s : Block} (runs : s.engine.state ≠ .halted) (c : Client) (words : List Word) :
    (clientFault c words s).engine.state ≠ .halted := by
  cases c with
  | scanner =>
    rw [clientFault]
    split
    · exact startFault_runs runs
    · rw [scannerFault_engine]
      exact runs
  | loader =>
    rw [clientFault]
    split
    · exact startFault_runs runs
    · rw [loaderFault_engine]
      exact runs
  | results => exact runs
  | tables =>
    change (tablesFault s).engine.state ≠ .halted
    rw [tablesFault_engine]
    exact runs
  | talkback =>
    change (endReply .busFault s).engine.state ≠ .halted
    rw [endReply_engine]
    exact runs
  | status =>
    change (statusFault s).engine.state ≠ .halted
    rw [statusFault_engine]
    exact runs

/-! ### The fault is counted -/

/-- A fault of the tenure `tn` below the limit is counted, the engine is not HALTED, an abort of a start ends STOPPED, and otherwise the
arbiter serves the next client (R187 to R189). -/
structure Counted (tn : Tenure) (b t : Block) : Prop where
  consecutive : t.port.consecutive = b.port.consecutive + 1
  faults : t.port.faults = countUp b.port.faults
  runs : t.engine.state ≠ .halted
  aborts : b.engine.aborting = true → t.engine.state = .stopped ∧ t.port.state = .idle
  serves : b.engine.aborting = false → b.engine.state = .running ∨ b.engine.state = .stopping → ServesInOrder tn.client b t

section

variable {tn : Tenure} {b : Block} (n : Nat) (landed : Bool) (below : b.port.consecutive < 2)

include below

theorem countFault_consecutive : (countFault (tn.underWay n b.mem) landed b).port.consecutive = b.port.consecutive + 1 := by
  change min 3 (b.port.consecutive + 1) = _
  omega

/-- A fault in the tenure that an abort waits for. -/
theorem endFaulted_aborting (run : b.control.run = false) (aborting : b.engine.aborting = true) :
    endFaulted tn n landed b
      = { countFault (tn.underWay n b.mem) landed b with engine := stoppedEngine b.engine } := by
  rw [endFaulted_below below, if_pos aborting]
  exact enterStopped_rests (s := countFault (tn.underWay n b.mem) landed b) run

/-- A fault in a tenure that runs to its own end. -/
theorem endFaulted_serves (aborting : b.engine.aborting = false) :
    endFaulted tn n landed b
      = serveNext (clientFault tn.client ((tn.underWay n b.mem).wordsRead b.mem) (countFault (tn.underWay n b.mem) landed b)) := by
  rw [endFaulted_below below, if_neg (by rw [aborting]; exact Bool.false_ne_true)]

theorem endFaulted_counted (runs : b.engine.state ≠ .halted) (abort : b.control.run = false ∨ b.engine.aborting = false) :
    Counted tn b (endFaulted tn n landed b)
      ∧ (endFaulted tn n landed b).mem = performWords tn.kind ((tn.underWay n b.mem).done + bit landed) b.mem := by
  have counted := countFault_over (tn.underWay n b.mem) landed b
  cases aborting : b.engine.aborting with
  | true =>
    have run : b.control.run = false := abort.resolve_right (by rw [aborting]; decide)
    rw [endFaulted_aborting n landed below run aborting]
    refine ⟨⟨countFault_consecutive (tn := tn) n landed below, rfl, ?_, fun _ => ⟨rfl, counted.idle⟩, fun ends => ?_⟩, rfl⟩
    · exact fun halted : EngineState.stopped = .halted => nomatch halted
    · exact nomatch aborting.symm.trans ends
  | false =>
    rw [endFaulted_serves n landed below aborting]
    have engine : (countFault (tn.underWay n b.mem) landed b).engine = b.engine := counted.engine
    refine ⟨⟨?_, ?_, ?_, fun aborts => absurd (aborting.symm.trans aborts) Bool.false_ne_true, fun _ state => ?_⟩, ?_⟩
    · rw [serveNext_consecutive, clientFault_consecutive]
      exact countFault_consecutive n landed below
    · rw [serveNext_faults, clientFault_faults]
      rfl
    · exact clientFault_runs (s := countFault (tn.underWay n b.mem) landed b) runs _ _
    · have started : (countFault (tn.underWay n b.mem) landed b).engine.state ≠ .starting := by
        rw [engine]
        rcases state with state | state <;> rw [state] <;> decide
      exact counted.servesInOrder fun c other => WaitsOn.clientFault other _ started
    · exact clientFault_mem ..

end

theorem underWay_nothing (tn : Tenure) (m : Memory) : performWords tn.kind ((tn.underWay 0 m).done + bit false) m = m := by
  have done : (tn.underWay 0 m).done = 0 := by
    rw [underWay_done]
    omega
  rw [done]
  exact performWords_nothing tn.kind m

/-- Settles O47: below the limit a fault ends a start that is being aborted, or is handed to the client and the arbiter serves the next; what
each client does is followed from the part it is handed. -/
theorem aFaultedTenureIsCounted : Obligations.AFaultedTenureIsCounted := by
  refine ⟨fun b q tn done landed phase current below runs abort => ?_, aFaultInAStart, aFaultEndsTheScan, aFaultStopsAResultOrAReply,
    aFaultEndsTheTableJob, aFaultEndsOrReleasesTheLoad, aFaultEndsTheStatusJob⟩
  intro counted stored
  have event : ∀ st, b.port.state = st → (live b && (b.port.state == st)) = true := fun st state => by simp [live, phase, state]
  have counts : ∀ n landed, counted (endFaulted tn n landed b) := fun n landed => by
    obtain ⟨consecutive, faults, state, aborts, serves⟩ := (endFaulted_counted (tn := tn) n landed below runs abort).1
    exact ⟨consecutive, faults, state, aborts, serves⟩
  have faulted : counted (faultTenure done landed b) ∧ stored (faultTenure done landed b) := by
    rw [faultTenure, current]
    exact ⟨counts _ landed, theWordsDoneStand tn _ landed (endFaulted_counted _ landed below runs abort).2⟩
  refine ⟨fun requesting => ⟨_, answer_taken (event _ requesting) grantTimesOut b q, ?_⟩, fun granted =>
    ⟨⟨_, answer_taken (event _ granted) (faultTenure done landed) b q, faulted⟩,
      _, answer_taken (event _ granted) (faultTenure done landed) b q, faulted⟩⟩
  rw [grantTimesOut, current]
  exact ⟨counts 0 false, (endFaulted_counted 0 false below runs abort).2.trans (underWay_nothing tn b.mem)⟩

end Sys2Proof.Machine
end
